-- ==== Sys2Proof/Word.lean ====
section
/-! DEFINITION. The word types of the part, R5: a byte, a 32-bit word, a format tag. -/

namespace Sys2Proof

/-- A byte of memory. -/
abbrev Byte := BitVec 8

/-- A 32-bit register or instruction word. -/
abbrev Word := BitVec 32

/-- A 64-bit value: a register pair, the low word in the even register. -/
abbrev DWord := BitVec 64

end Sys2Proof
end

