-- ==== Sys2Proof/Syntax.lean ====
section
/-! DEFINITION. The whole syntax of the part: the decoded fields of instruction words (R40, R43), the opcodes
of the two maps (R57, R58), and one constructor of `Instr` for every row of the opcode table, the 198 instruction
forms first and the 110 events after them. -/

namespace Sys2Proof

/-- The operand and control fields of a base word, R40; SET, OP and L are told by the constructor. -/
structure Base where
  k : Bool
  y : Bool
  gap : BitVec 2
  d : BitVec 6
  a : BitVec 6
  b : BitVec 6
  t : Bool
  deriving DecidableEq, Repr

/-- The fields of an E-form extension word, R43. -/
structure Ext where
  c : BitVec 6
  n : Bool
  gp : BitVec 3
  wd : BitVec 2
  wa : BitVec 2
  wb : BitVec 2
  wc : BitVec 2
  m : BitVec 14
  deriving DecidableEq, Repr

/-- The extension that a class E instruction acts as if it carried when L is 0, R44. -/
def Ext.absent : Ext :=
  ⟨0, false, 7, 0, 0, 0, 0, 0⟩

/-- A warp of a resident workgroup: the core (die × 64 + cluster × 8 + core, R27), the resident slot and the warp
of the workgroup. -/
structure WarpRef where
  core : Nat
  slot : Nat
  warp : Nat
  deriving DecidableEq, Repr

/-- A workgroup of a PLACE command: its core, linear number, and the partition word the command gives the core. -/
structure Placing where
  core : Nat
  number : Nat
  partition : Word
  deriving DecidableEq, Repr

/-- A resident workgroup by core and slot. -/
structure Resident where
  core : Nat
  slot : Nat
  deriving DecidableEq, Repr

/-- The opcodes of the lane map (R57) and of the uniform map (R58), the two ILLEGAL opcodes apart. -/
inductive Op where
  | nop
  | iadd
  | isub
  | imul
  | imad
  | iminmax
  | iabs
  | and
  | or
  | xor
  | andn
  | shl
  | shr
  | shf
  | popc
  | clz
  | brev
  | bfx
  | bfi
  | iset
  | sel
  | plop
  | mov
  | movi
  | iaddi
  | fadd
  | fmul
  | ffma
  | fminmax
  | fset
  | frcp
  | frsq
  | fsqrt
  | fexp2
  | flog2
  | fsin
  | fcos
  | ftanh
  | cvt
  | frnd
  | tagset
  | tagget
  | qblk
  | fdot
  | shfl
  | vote
  | matchLanes
  | redux
  | elect
  | s2v
  | conv
  | ld
  | st
  | lds
  | sts
  | atom
  | atoms
  | red
  | stmc
  | pref
  | discard
  | flush
  | fence
  | lock
  | unlock
  | bra
  | brc
  | brx
  | call
  | ret
  | exit
  | yield
  | nsleep
  | bkpt
  | trapl
  | snop
  | sadd
  | ssub
  | smul
  | smad
  | sminmax
  | sand
  | sor
  | sxor
  | sshl
  | sshr
  | sset
  | ssel
  | smov
  | smovi
  | saddi
  | s2s
  | v2s
  | sbcast
  | sbra
  | sbrc
  | bar
  | bufmk
  | bufset
  | layout
  | mma
  | tzero
  | tld
  | tst
  | tred
  | tscal
  | topk
  | tmov
  | cpy
  | cpyo
  | cpym
  | cpyc
  | cpyr
  | tlwait
  | tlget
  | femark
  | fefill
  | tbinit
  | tbexp
  | tbarv
  | tbwait
  | catchOp
  | send
  | recvp
  | mprobe
  | lrec
  | launch
  | cwait
  | cget
  | cancel
  | trap
  | rte
  | csrr
  | csrw
  | fmtset
  | fmtget
  | cpdset
  | wpset
  | wpctl
  | hread
  | hwrite
  | hstep
  | hres
  | dumpq
  deriving DecidableEq, Repr

/-- One constructor for every row of the opcode table. A class X instruction and the long form of a class E one
carry the extension fields, a class I instruction and a long branch the 32-bit immediate. -/
inductive Instr where
  /-- NOP, R106. -/
  | nop (f : Base)
  /-- IADD, R104. -/
  | iadd (f : Base)
  /-- IADD_LONG, R104. -/
  | iaddLong (f : Base) (x : Ext)
  /-- ISUB, R104. -/
  | isub (f : Base)
  /-- ISUB_LONG, R104. -/
  | isubLong (f : Base) (x : Ext)
  /-- IMUL, R104. -/
  | imul (f : Base)
  /-- IMUL_LONG, R104. -/
  | imulLong (f : Base) (x : Ext)
  /-- IMAD, R104. -/
  | imad (f : Base) (x : Ext)
  /-- IMIN, R104. -/
  | imin (f : Base)
  /-- IMIN_IMAX_LONG, R104. -/
  | iminImaxLong (f : Base) (x : Ext)
  /-- IABS, R104. -/
  | iabs (f : Base)
  /-- IABS_LONG, R104. -/
  | iabsLong (f : Base) (x : Ext)
  /-- AND, R105. -/
  | and (f : Base)
  /-- AND_LONG, R105. -/
  | andLong (f : Base) (x : Ext)
  /-- OR, R105. -/
  | or (f : Base)
  /-- OR_LONG, R105. -/
  | orLong (f : Base) (x : Ext)
  /-- XOR, R105. -/
  | xor (f : Base)
  /-- XOR_LONG, R105. -/
  | xorLong (f : Base) (x : Ext)
  /-- ANDN, R105. -/
  | andn (f : Base)
  /-- ANDN_LONG, R105. -/
  | andnLong (f : Base) (x : Ext)
  /-- SHL, R104. -/
  | shl (f : Base)
  /-- SHL_LONG, R104. -/
  | shlLong (f : Base) (x : Ext)
  /-- SHR, R104. -/
  | shr (f : Base)
  /-- SHR_LONG, R104. -/
  | shrLong (f : Base) (x : Ext)
  /-- SHF, R105. -/
  | shf (f : Base) (x : Ext)
  /-- POPC, R105. -/
  | popc (f : Base)
  /-- POPC_LONG, R105. -/
  | popcLong (f : Base) (x : Ext)
  /-- CLZ, R105. -/
  | clz (f : Base)
  /-- CLZ_LONG, R105. -/
  | clzLong (f : Base) (x : Ext)
  /-- BREV, R105. -/
  | brev (f : Base)
  /-- BREV_LONG, R105. -/
  | brevLong (f : Base) (x : Ext)
  /-- BFX, R105. -/
  | bfx (f : Base) (x : Ext)
  /-- BFI, R105. -/
  | bfi (f : Base) (x : Ext)
  /-- ISET, R107. -/
  | iset (f : Base) (x : Ext)
  /-- SEL, R106. -/
  | sel (f : Base) (x : Ext)
  /-- PLOP, R108. -/
  | plop (f : Base) (x : Ext)
  /-- MOV, R106. -/
  | mov (f : Base)
  /-- MOV_LONG, R106. -/
  | movLong (f : Base) (x : Ext)
  /-- MOVI, R106. -/
  | movi (f : Base) (imm : Word)
  /-- IADDI, R106. -/
  | iaddi (f : Base) (imm : Word)
  /-- FADD, R109. -/
  | fadd (f : Base)
  /-- FADD_LONG, R109. -/
  | faddLong (f : Base) (x : Ext)
  /-- FMUL, R109. -/
  | fmul (f : Base)
  /-- FMUL_LONG, R109. -/
  | fmulLong (f : Base) (x : Ext)
  /-- FFMA, R109. -/
  | ffma (f : Base) (x : Ext)
  /-- FMIN, R109. -/
  | fmin (f : Base)
  /-- FMIN_FMAX_LONG, R109. -/
  | fminFmaxLong (f : Base) (x : Ext)
  /-- FSET, R107. -/
  | fset (f : Base) (x : Ext)
  /-- FRCP, R110. -/
  | frcp (f : Base)
  /-- FRCP_LONG, R110. -/
  | frcpLong (f : Base) (x : Ext)
  /-- FRSQ, R110. -/
  | frsq (f : Base)
  /-- FRSQ_LONG, R110. -/
  | frsqLong (f : Base) (x : Ext)
  /-- FSQRT, R110. -/
  | fsqrt (f : Base)
  /-- FSQRT_LONG, R110. -/
  | fsqrtLong (f : Base) (x : Ext)
  /-- FEXP2, R110. -/
  | fexp2 (f : Base)
  /-- FEXP2_LONG, R110. -/
  | fexp2Long (f : Base) (x : Ext)
  /-- FLOG2, R110. -/
  | flog2 (f : Base)
  /-- FLOG2_LONG, R110. -/
  | flog2Long (f : Base) (x : Ext)
  /-- FSIN, R110. -/
  | fsin (f : Base)
  /-- FSIN_LONG, R110. -/
  | fsinLong (f : Base) (x : Ext)
  /-- FCOS, R110. -/
  | fcos (f : Base)
  /-- FCOS_LONG, R110. -/
  | fcosLong (f : Base) (x : Ext)
  /-- FTANH, R110. -/
  | ftanh (f : Base)
  /-- FTANH_LONG, R110. -/
  | ftanhLong (f : Base) (x : Ext)
  /-- CVT, R113. -/
  | cvt (f : Base) (x : Ext)
  /-- FRND, R111. -/
  | frnd (f : Base)
  /-- FRND_LONG, R111. -/
  | frndLong (f : Base) (x : Ext)
  /-- TAGSET, R114. -/
  | tagset (f : Base) (x : Ext)
  /-- TAGGET, R115. -/
  | tagget (f : Base)
  /-- TAGGET_LONG, R115. -/
  | taggetLong (f : Base) (x : Ext)
  /-- QBLK, R116. -/
  | qblk (f : Base) (x : Ext)
  /-- FDOT, R112. -/
  | fdot (f : Base) (x : Ext)
  /-- SHFL, R118. -/
  | shfl (f : Base) (x : Ext)
  /-- VOTE, R119. -/
  | vote (f : Base) (x : Ext)
  /-- MATCH, R120. -/
  | matchLanes (f : Base)
  /-- MATCH_LONG, R120. -/
  | matchLanesLong (f : Base) (x : Ext)
  /-- REDUX, R121. -/
  | redux (f : Base) (x : Ext)
  /-- ELECT, R122. -/
  | elect (f : Base)
  /-- ELECT_LONG, R122. -/
  | electLong (f : Base) (x : Ext)
  /-- S2V, R123. -/
  | s2v (f : Base)
  /-- S2V_LONG, R123. -/
  | s2vLong (f : Base) (x : Ext)
  /-- CONV, R124. -/
  | conv (f : Base)
  /-- CONV_LONG, R124. -/
  | convLong (f : Base) (x : Ext)
  /-- LD, R131. -/
  | ld (f : Base) (x : Ext)
  /-- ST, R133. -/
  | st (f : Base) (x : Ext)
  /-- LDS, R134. -/
  | lds (f : Base) (x : Ext)
  /-- STS, R134. -/
  | sts (f : Base) (x : Ext)
  /-- ATOM, R137. -/
  | atom (f : Base) (x : Ext)
  /-- ATOMS, R139. -/
  | atoms (f : Base) (x : Ext)
  /-- RED, R138. -/
  | red (f : Base) (x : Ext)
  /-- STMC, R141. -/
  | stmc (f : Base) (x : Ext)
  /-- PREF, R142. -/
  | pref (f : Base) (x : Ext)
  /-- DISCARD, R143. -/
  | discard (f : Base) (x : Ext)
  /-- FLUSH, R144. -/
  | flush (f : Base) (x : Ext)
  /-- FENCE, R145. -/
  | fence (f : Base) (x : Ext)
  /-- LOCK, R146. -/
  | lock (f : Base) (x : Ext)
  /-- UNLOCK, R148. -/
  | unlock (f : Base) (x : Ext)
  /-- BRA, R60. -/
  | bra (f : Base)
  /-- BRA_LONG, R60. -/
  | braLong (f : Base) (imm : Word)
  /-- BRC, R61. -/
  | brc (f : Base)
  /-- BRC_LONG, R61. -/
  | brcLong (f : Base) (imm : Word)
  /-- BRX, R152. -/
  | brx (f : Base) (x : Ext)
  /-- CALL, R153. -/
  | call (f : Base) (imm : Word)
  /-- RET, R153. -/
  | ret (f : Base)
  /-- RET_LONG, R153. -/
  | retLong (f : Base) (x : Ext)
  /-- EXIT, R155. -/
  | exit (f : Base)
  /-- EXIT_LONG, R155. -/
  | exitLong (f : Base) (x : Ext)
  /-- YIELD, R156. -/
  | yield (f : Base)
  /-- YIELD_LONG, R156. -/
  | yieldLong (f : Base) (x : Ext)
  /-- NSLEEP, R157. -/
  | nsleep (f : Base) (x : Ext)
  /-- BKPT, R158. -/
  | bkpt (f : Base)
  /-- BKPT_LONG, R158. -/
  | bkptLong (f : Base) (x : Ext)
  /-- TRAPL, R158. -/
  | trapl (f : Base) (x : Ext)
  /-- ILLEGAL_WORD, R55. -/
  | illegalWord (w : Word)
  /-- SNOP, R58. -/
  | snop (f : Base)
  /-- SADD, R161. -/
  | sadd (f : Base)
  /-- SADD_LONG, R161. -/
  | saddLong (f : Base) (x : Ext)
  /-- SSUB, R161. -/
  | ssub (f : Base)
  /-- SSUB_LONG, R161. -/
  | ssubLong (f : Base) (x : Ext)
  /-- SMUL, R161. -/
  | smul (f : Base)
  /-- SMUL_LONG, R161. -/
  | smulLong (f : Base) (x : Ext)
  /-- SMAD, R161. -/
  | smad (f : Base) (x : Ext)
  /-- SMIN, R161. -/
  | smin (f : Base)
  /-- SMIN_SMAX_LONG, R161. -/
  | sminSmaxLong (f : Base) (x : Ext)
  /-- SAND, R161. -/
  | sand (f : Base)
  /-- SAND_LONG, R161. -/
  | sandLong (f : Base) (x : Ext)
  /-- SOR, R161. -/
  | sor (f : Base)
  /-- SOR_LONG, R161. -/
  | sorLong (f : Base) (x : Ext)
  /-- SXOR, R161. -/
  | sxor (f : Base)
  /-- SXOR_LONG, R161. -/
  | sxorLong (f : Base) (x : Ext)
  /-- SSHL, R161. -/
  | sshl (f : Base)
  /-- SSHL_LONG, R161. -/
  | sshlLong (f : Base) (x : Ext)
  /-- SSHR, R161. -/
  | sshr (f : Base)
  /-- SSHR_LONG, R161. -/
  | sshrLong (f : Base) (x : Ext)
  /-- SSET, R162. -/
  | sset (f : Base) (x : Ext)
  /-- SSEL, R163. -/
  | ssel (f : Base) (x : Ext)
  /-- SMOV, R161. -/
  | smov (f : Base)
  /-- SMOV_LONG, R161. -/
  | smovLong (f : Base) (x : Ext)
  /-- SMOVI, R161. -/
  | smovi (f : Base) (imm : Word)
  /-- SADDI, R161. -/
  | saddi (f : Base) (imm : Word)
  /-- S2S, R164. -/
  | s2s (f : Base)
  /-- S2S_LONG, R164. -/
  | s2sLong (f : Base) (x : Ext)
  /-- V2S, R165. -/
  | v2s (f : Base) (x : Ext)
  /-- SBCAST, R166. -/
  | sbcast (f : Base) (x : Ext)
  /-- SBRA, R167. -/
  | sbra (f : Base)
  /-- SBRA_LONG, R167. -/
  | sbraLong (f : Base) (imm : Word)
  /-- SBRC, R167. -/
  | sbrc (f : Base)
  /-- SBRC_LONG, R167. -/
  | sbrcLong (f : Base) (imm : Word)
  /-- BAR, R169. -/
  | bar (f : Base) (x : Ext)
  /-- BUFMK, R171. -/
  | bufmk (f : Base) (x : Ext)
  /-- BUFSET, R172. -/
  | bufset (f : Base) (x : Ext)
  /-- LAYOUT, R173. -/
  | layout (f : Base) (x : Ext)
  /-- MMA, R184. -/
  | mma (f : Base) (x : Ext)
  /-- TZERO, R186. -/
  | tzero (f : Base) (x : Ext)
  /-- TLD, R187. -/
  | tld (f : Base) (x : Ext)
  /-- TST, R188. -/
  | tst (f : Base) (x : Ext)
  /-- TRED, R190. -/
  | tred (f : Base) (x : Ext)
  /-- TSCAL, R191. -/
  | tscal (f : Base) (x : Ext)
  /-- TOPK, R193. -/
  | topk (f : Base) (x : Ext)
  /-- TMOV, R189. -/
  | tmov (f : Base) (x : Ext)
  /-- CPY, R199. -/
  | cpy (f : Base) (x : Ext)
  /-- CPYO, R202. -/
  | cpyo (f : Base) (x : Ext)
  /-- CPYM, R205. -/
  | cpym (f : Base) (x : Ext)
  /-- CPYC, R203. -/
  | cpyc (f : Base) (x : Ext)
  /-- CPYR, R204. -/
  | cpyr (f : Base) (x : Ext)
  /-- TLWAIT, R196. -/
  | tlwait (f : Base) (x : Ext)
  /-- TLGET, R197. -/
  | tlget (f : Base) (x : Ext)
  /-- FEMARK, R208. -/
  | femark (f : Base) (x : Ext)
  /-- FEFILL, R208. -/
  | fefill (f : Base) (x : Ext)
  /-- TBINIT, R211. -/
  | tbinit (f : Base) (x : Ext)
  /-- TBEXP, R211. -/
  | tbexp (f : Base) (x : Ext)
  /-- TBARV, R211. -/
  | tbarv (f : Base) (x : Ext)
  /-- TBWAIT, R213. -/
  | tbwait (f : Base) (x : Ext)
  /-- CATCH, R214. -/
  | catchOp (f : Base)
  /-- CATCH_LONG, R214. -/
  | catchOpLong (f : Base) (x : Ext)
  /-- SEND, R216. -/
  | send (f : Base) (x : Ext)
  /-- RECVP, R217. -/
  | recvp (f : Base) (x : Ext)
  /-- MPROBE, R221. -/
  | mprobe (f : Base) (x : Ext)
  /-- LREC, R223. -/
  | lrec (f : Base) (x : Ext)
  /-- LAUNCH, R224. -/
  | launch (f : Base) (x : Ext)
  /-- CWAIT, R226. -/
  | cwait (f : Base) (x : Ext)
  /-- CGET, R228. -/
  | cget (f : Base) (x : Ext)
  /-- CANCEL, R229. -/
  | cancel (f : Base) (x : Ext)
  /-- TRAP, R235. -/
  | trap (f : Base) (x : Ext)
  /-- RTE, R236. -/
  | rte (f : Base)
  /-- CSRR, R233. -/
  | csrr (f : Base) (x : Ext)
  /-- CSRW, R233. -/
  | csrw (f : Base) (x : Ext)
  /-- FMTSET, R95. -/
  | fmtset (f : Base) (x : Ext)
  /-- FMTGET, R237. -/
  | fmtget (f : Base) (x : Ext)
  /-- CPDSET, R237. -/
  | cpdset (f : Base) (x : Ext)
  /-- WPSET, R243. -/
  | wpset (f : Base) (x : Ext)
  /-- WPCTL, R243. -/
  | wpctl (f : Base) (x : Ext)
  /-- HREAD, R246. -/
  | hread (f : Base) (x : Ext)
  /-- HWRITE, R246. -/
  | hwrite (f : Base) (x : Ext)
  /-- HSTEP, R247. -/
  | hstep (f : Base) (x : Ext)
  /-- HRES, R248. -/
  | hres (f : Base) (x : Ext)
  /-- DUMPQ, R250. -/
  | dumpq (f : Base)
  /-- DUMPQ_LONG, R250. -/
  | dumpqLong (f : Base) (x : Ext)
  /-- Event DBGEN, R381. -/
  | dbgen (job : Nat) (enable : Bool)
  /-- Event HALT, R381. -/
  | halt (job core slot : Nat)
  /-- Event RESUME, R381. -/
  | resume (job core slot : Nat)
  /-- Event STEP, R381. -/
  | step (job : Nat) (w : WarpRef) (lane : Nat)
  /-- Event READ, R381. -/
  | read (job : Nat) (w : WarpRef) (lane item : Nat)
  /-- Event WRITE, R381. -/
  | write (job : Nat) (w : WarpRef) (lane item value : Nat)
  /-- Event HOST_IRQ, R372. -/
  | hostIrq (value : Nat)
  /-- Event FAULT_ANSWER, R354. -/
  | faultAnswer (fanwr : Nat)
  /-- Event WRFREEZE, R393. -/
  | wrfreeze (die : Nat) (value : Word)
  /-- Event QTBASE_WRITE, R446. -/
  | qtbaseWrite (pa : Nat)
  /-- Event TAIL_WRITE, R320. -/
  | tailWrite (queue tail : Nat)
  /-- Event TRAP_DELIVERY, R274. -/
  | trapDelivery (w : WarpRef)
  /-- Event RESULT_COMMIT, R54. -/
  | resultCommit (w : WarpRef) (entry : Nat)
  /-- Event GAP_ELAPSED, R52. -/
  | gapElapsed (w : WarpRef)
  /-- Event PASS_OVER_LIMIT, R13. -/
  | passOverLimit (w : WarpRef)
  /-- Event SLEEP_EXPIRY, R157. -/
  | sleepExpiry (w : WarpRef) (lane : Nat)
  /-- Event EMPTY_TIMEOUT, R300. -/
  | emptyTimeout (w : WarpRef)
  /-- Event BARWAIT_EXPIRY, R339. -/
  | barwaitExpiry (w : WarpRef)
  /-- Event PROMOTION, R337. -/
  | promotion (w : WarpRef)
  /-- Event QUANTUM_EXPIRY, R339. -/
  | quantumExpiry (w : WarpRef)
  /-- Event SPRINTER_RETIRE, R337. -/
  | sprinterRetire (w : WarpRef)
  /-- Event FAULT_TIMEOUT, R354. -/
  | faultTimeout (faultId : Nat)
  /-- Event LOCK_REQUEST_ARRIVAL, R306. -/
  | lockRequestArrival (w : WarpRef)
  /-- Event LOCK_GRANT, R147. -/
  | lockGrant (die : Nat) (entry : Nat)
  /-- Event COPY_BACK, R303. -/
  | copyBack (core : Nat) (packet : Nat)
  /-- Event RELEASE_COMPLETE, R305. -/
  | releaseComplete (core : Nat) (release : Nat)
  /-- Event REMOTE_WRITE_APPLY, R260. -/
  | remoteWriteApply (die : Nat) (item : Nat)
  /-- Event CLOCK_NOTICE, R310. -/
  | clockNotice (die : Nat) (item : Nat)
  /-- Event REPLICA_FILL, R309. -/
  | replicaFill (die : Nat) (line : Nat)
  /-- Event L1_SECTOR_FILL, R302. -/
  | l1SectorFill (core : Nat) (line : Nat) (sector : Nat)
  /-- Event ATOMIC_AT_HOME, R137. -/
  | atomicAtHome (core : Nat) (request : Nat)
  /-- Event TB_UPDATE, R212. -/
  | tbUpdate (request : Nat)
  /-- Event DISCARD_AT_SLICE, R314. -/
  | discardAtSlice (core : Nat) (request : Nat)
  /-- Event FLUSH_COMPLETE, R313. -/
  | flushComplete (core : Nat) (walker : Nat)
  /-- Event COMMAND_DISPATCH, R174. -/
  | commandDispatch (w : WarpRef)
  /-- Event COPY_LANDING, R201. -/
  | copyLanding (command : Nat) (request : Nat)
  /-- Event COPY_COMPLETE, R345. -/
  | copyComplete (command : Nat)
  /-- Event TILE_COMMAND_START, R342. -/
  | tileCommandStart (core : Nat)
  /-- Event TILE_COMMAND_COMPLETE, R175. -/
  | tileCommandComplete (core : Nat)
  /-- Event ENGINE_REQUEST_TIMEOUT, R356. -/
  | engineRequestTimeout (command : Nat) (request : Nat)
  /-- Event XT_NUMBER_REQUEST, R344. -/
  | xtNumberRequest (w : WarpRef)
  /-- Event MESSAGE_ARRIVAL, R219. -/
  | messageArrival (message : Nat)
  /-- Event CPYR_REDUCTION, R204. -/
  | cpyrReduction (command : Nat) (element : Nat)
  /-- Event CATCH_RELEASE, R215. -/
  | catchRelease (launch : Nat)
  /-- Event WORKGROUP_COMPLETE, R18. -/
  | workgroupComplete (core slot : Nat)
  /-- Event LAUNCH_COMPLETE, R331. -/
  | launchComplete (launch : Nat)
  /-- Event PENDING_LAUNCH_DRAIN, R224. -/
  | pendingLaunchDrain (core slot : Nat)
  /-- Event SWAP_OUT, R227. -/
  | swapOut (core slot : Nat)
  /-- Event FORCED_RESET, R287. -/
  | forcedReset (core slot : Nat)
  /-- Event LIVE_DUMP, R293. -/
  | liveDump (core slot : Nat)
  /-- Event DUMP_TIMEOUT, R250. -/
  | dumpTimeout (core slot : Nat)
  /-- Event SAMPLE_TIMER_EXPIRY, R388. -/
  | sampleTimerExpiry (core : Nat)
  /-- Event SLICE_WATCH_REPORT, R379. -/
  | sliceWatchReport (report : Nat)
  /-- Event QOPEN, R322. -/
  | qopen (queue : Nat)
  /-- Event QCLOSE, R322. -/
  | qclose (queue : Nat)
  /-- Event JOPEN, R322. -/
  | jopen (job : Nat) (tbase : Nat)
  /-- Event JCLOSE, R322. -/
  | jclose (job : Nat)
  /-- Event JCANCEL, R322. -/
  | jcancel (job : Nat)
  /-- Event PPOLSET, R322. -/
  | ppolset (mask : Nat) (value : Word)
  /-- Event DPORT_ADMIT, R318. -/
  | dportAdmit (launch : Nat)
  /-- Event DPORT_DENY, R318. -/
  | dportDeny (launch : Nat)
  /-- Event DPORT_PLACE, R318. -/
  | dportPlace (launch : Nat) (places : List Placing)
  /-- Event DPORT_DRAIN, R285. -/
  | dportDrain (cause : Nat) (victims : List Resident)
  /-- Event DPORT_RESUME, R318. -/
  | dportResume (image core : Nat)
  /-- Event DPORT_CANCEL, R229. -/
  | dportCancel (job level id : Nat)
  /-- Event DPORT_WGDONE, R334. -/
  | dportWgdone (launch number : Nat)
  /-- Event DPORT_LEVELDONE, R447. -/
  | dportLeveldone (job level id : Nat)
  /-- Event UCLOAD, R316. -/
  | ucload
  /-- Event TCTX, R402. -/
  | tctx
  /-- Event INVAL, R352. -/
  | inval
  /-- Event INVALIDATE_COMPLETE, R352. -/
  | invalidateComplete
  /-- Event KEYSET, R404. -/
  | keyset
  /-- Event KEYCLR, R404. -/
  | keyclr
  /-- Event FWDSET, R312. -/
  | fwdset
  /-- Event EXPSET, R368. -/
  | expset
  /-- Event ROUTE, R363. -/
  | route
  /-- Event DEVID, R363. -/
  | devid
  /-- Event STREAM, R311. -/
  | stream
  /-- Event VLOGRD, R373. -/
  | vlogrd
  /-- Event FWUPD, R403. -/
  | fwupd
  /-- Event WRESET, R397. -/
  | wreset
  /-- Event SERVICE, R402. -/
  | service
  /-- Event DRAIN, R328. -/
  | drain
  /-- Event SPDM, R402. -/
  | spdm
  /-- Event REGISTER_WRITE, R400. -/
  | registerWrite (address : Nat) (value : Word)
  /-- Event HOST_WRITE, R270. -/
  | hostWrite (pa : Nat) (bytes : List Byte)
  /-- Event HOST_READ, R369. -/
  | hostRead (pa count : Nat)
  /-- Event HOST_ATOMIC, R370. -/
  | hostAtomic (pa width op operand : Nat)
  /-- Event HOST_COMPLETION, R371. -/
  | hostCompletion (request : Nat) (status : Nat) (bytes : List Byte)
  /-- Event HOST_COMPLETION_TIMEOUT, R371. -/
  | hostCompletionTimeout (request : Nat)
  /-- Event PEER_REQUEST, R368. -/
  | peerRequest (port peer pa kind op : Nat) (bytes : List Byte)
  /-- Event RELEASE_FENCE, R366. -/
  | releaseFence (port : Nat)
  /-- Event FENCE_ACK, R366. -/
  | fenceAck (port core release : Nat)
  /-- Event FLIT_CRC_ERROR, R367. -/
  | flitCrcError (port : Nat)
  /-- Event LINK_TRAINED, R363. -/
  | linkTrained (port cls : Nat) (sw : Bool) (peer : Nat)
  /-- Event LINK_DOWN, R367. -/
  | linkDown (port : Nat)
  /-- Event ECC_CORRECTED, R405. -/
  | eccCorrected (die : Nat)
  /-- Event UNCORRECTABLE_ERROR, R406. -/
  | uncorrectableError (kind place : Nat) (slots : List Nat)
  /-- Event POWER_ALARM, R395. -/
  | powerAlarm (die : Nat)
  /-- Event POWER_ALARM_CLEAR, R395. -/
  | powerAlarmClear (die : Nat)
  /-- Event THERMAL_LIMIT, R396. -/
  | thermalLimit (die degrees : Nat)
  /-- Event THERMAL_SHUTDOWN, R396. -/
  | thermalShutdown (die : Nat)
  /-- Event CLUSTER_POWER_GATE, R390. -/
  | clusterPowerGate (cluster : Nat)
  /-- Event TRACE_DRAIN_TIMEOUT, R390. -/
  | traceDrainTimeout (cluster : Nat)
  /-- Event COLD_RESET, R397. -/
  | coldReset
  /-- Event ERROR_RESPONSE, R374. -/
  | errorResponse (request : Nat)
  /-- Event TRACE_BUFFER_DRAIN, R384. -/
  | traceBufferDrain (cluster : Nat)
  /-- Event CLUSTER_POWER_UP, R390. -/
  | clusterPowerUp (cluster : Nat)
  /-- Event HOST_LINK_ERROR, R392. -/
  | hostLinkError (status : Word)
  /-- Event REPLICA_DROP, R309. -/
  | replicaDrop (die line : Nat)
  deriving DecidableEq, Repr

end Sys2Proof
end

