-- ==== Sys2Proof/Machine/Bits.lean ====
section
/-! DEFINITION. Bit fields, sign extension, byte order, and the small list operations the meanings share. -/

namespace Sys2Proof.Machine

/-- bits(x, hi, lo) of the spec's pseudocode, as a number. -/
def bitsNat (x hi lo : Nat) : Nat :=
  x / 2 ^ lo % 2 ^ (hi + 1 - lo)

/-- Bit i of a number, as a number. -/
def bitNat (x i : Nat) : Nat :=
  x / 2 ^ i % 2

/-- Bits hi to lo of a word, as a number. -/
def field (w : Word) (hi lo : Nat) : Nat :=
  bitsNat w.toNat hi lo

/-- A natural number below 2^n read as two's complement. -/
def toSigned (n x : Nat) : Int :=
  if x % 2 ^ n < 2 ^ (n - 1) then (x % 2 ^ n : Nat) else (x % 2 ^ n : Nat) - (2 ^ n : Nat)

/-- An integer wrapped to n bits. -/
def wrapInt (n : Nat) (v : Int) : Nat :=
  (v % (2 ^ n : Nat)).toNat

/-- The word with a given value modulo 2^32. -/
def word (x : Nat) : Word :=
  BitVec.ofNat 32 x

/-- A word of an integer, modulo 2^32. -/
def wordOfInt (v : Int) : Word :=
  BitVec.ofInt 32 v

def wordOfBool (b : Bool) : Word :=
  if b then 1 else 0

/-- Two words as one 64-bit number, the low word first (R5, R47). -/
def pairNat (lo hi : Word) : Nat :=
  lo.toNat + 2 ^ 32 * hi.toNat

/-- Element n of a list, or a default. -/
def nth {α : Type} (l : List α) (n : Nat) (d : α) : α :=
  l.getD n d

/-- Replace element n of a list; nothing where there is none. -/
def setNth {α : Type} (l : List α) (n : Nat) (v : α) : List α :=
  l.set n v

/-- Change element n of a list; nothing where there is none. -/
def modifyNth {α : Type} (l : List α) (n : Nat) (f : α → α) : List α :=
  l.modify n f

/-- The little-endian number of a list of bytes (R5). -/
def leNat : List Byte → Nat
  | [] => 0
  | b :: bs => b.toNat + 256 * leNat bs

/-- The n little-endian bytes of a number (R5). -/
def leBytes : Nat → Nat → List Byte
  | 0, _ => []
  | n + 1, x => BitVec.ofNat 8 x :: leBytes n (x / 256)

/-- The word of four little-endian bytes. -/
def leWord (bs : List Byte) : Word :=
  word (leNat bs)

/-- Cut a list into pieces of n elements, at most `fuel` of them. -/
def chunks {α : Type} (n : Nat) : Nat → List α → List (List α)
  | 0, _ => []
  | fuel + 1, l => if l.isEmpty then [] else l.take n :: chunks n fuel (l.drop n)

/-- Number of one bits among bits n − 1 to 0. -/
def popCount : Nat → Nat → Nat
  | 0, _ => 0
  | n + 1, x => x % 2 + popCount n (x / 2)

/-- The mask with exactly the bits of the listed lanes. -/
def maskOf (lanes : List Nat) : Nat :=
  lanes.foldl (fun m l => m ||| 2 ^ l) 0

/-- The lanes named by a mask of n bits, in rising order. -/
def lanesOf (n mask : Nat) : List Nat :=
  (List.range n).filter (fun i => bitNat mask i == 1)

/-- The 32 lanes of a warp, R10. -/
def allLanes : List Nat :=
  List.range 32

/-- Least element of a list of numbers. -/
def minList? : List Nat → Option Nat
  | [] => none
  | x :: xs =>
    match minList? xs with
    | none => some x
    | some y => some (min x y)

/-- Round up to a multiple of n. -/
def roundUp (x n : Nat) : Nat :=
  (x + n - 1) / n * n

/-- A sparse table: rising keys, each with a value. The value of an absent key. -/
def lookupKey {α : Type} (k : Nat) : List (Nat × α) → Option α
  | [] => none
  | (k', v) :: r => if k = k' then some v else lookupKey k r

/-- Write one key of a sparse table, keeping the keys rising. -/
def insertKey {α : Type} (k : Nat) (v : α) : List (Nat × α) → List (Nat × α)
  | [] => [(k, v)]
  | (k', v') :: r =>
    if k < k' then (k, v) :: (k', v') :: r
    else if k = k' then (k, v) :: r
    else (k', v') :: insertKey k v r

/-- Remove one key of a sparse table. -/
def eraseKey {α : Type} (k : Nat) (l : List (Nat × α)) : List (Nat × α) :=
  l.filter (fun p => p.1 != k)

/-- Change the value of a key that is present. -/
def modifyKey {α : Type} (k : Nat) (f : α → α) (l : List (Nat × α)) : List (Nat × α) :=
  l.map (fun p => if p.1 = k then (p.1, f p.2) else p)

end Sys2Proof.Machine
end

