-- ==== Sys2Proof/Machine/Fields.lean ====
section
/-! DEFINITION. What each instruction does with its fields: the register file a field names, the widths it accepts,
whether it is read or written, and the modifier bits the instruction defines (R45 to R47, and each instruction's
entry). Decoding, the partition check and the hazard rules all read these shapes. -/

namespace Sys2Proof.Machine

/-- The file a register field names, R45. `raw` is a number that the instruction's own entry bounds. -/
inductive File where
  | unused | v | s | p | q | tile | raw
  deriving DecidableEq, Repr

/-- The use of one field: its file, the width codes it accepts, whether it is read, written or both, the least
group size as a power of two (a pair that carries no width code), and the number of registers where that is not the
group's (0: the group's). -/
structure Use where
  file : File
  widths : List Nat
  reads : Bool
  writes : Bool
  least : Nat := 0
  span : Nat := 0
  deriving DecidableEq, Repr

/-- The uses of the four register fields, the M bits the instruction defines, whether the modifier and raw values
are ones it defines, and whether its own alignment rule holds. -/
structure Shape where
  d : Use
  a : Use
  b : Use
  c : Use
  mMask : Nat
  ok : Bool
  aligned : Bool := true
  deriving DecidableEq, Repr

def noUse : Use := ⟨.unused, [0], false, false, 0, 0⟩
def rawUse : Use := ⟨.raw, [0], false, false, 0, 0⟩
def rdV (ws : List Nat) : Use := ⟨.v, ws, true, false, 0, 0⟩
def wrV (ws : List Nat) : Use := ⟨.v, ws, false, true, 0, 0⟩
def rwV (ws : List Nat) : Use := ⟨.v, ws, true, true, 0, 0⟩
def rdS (ws : List Nat) : Use := ⟨.s, ws, true, false, 0, 0⟩
def wrS (ws : List Nat) : Use := ⟨.s, ws, false, true, 0, 0⟩
def rwS (ws : List Nat) : Use := ⟨.s, ws, true, true, 0, 0⟩
def rdP : Use := ⟨.p, [0], true, false, 0, 0⟩
def wrP : Use := ⟨.p, [0], false, true, 0, 0⟩
def rdQ : Use := ⟨.q, [0], true, false, 0, 0⟩
def wrQ : Use := ⟨.q, [0], false, true, 0, 0⟩
def rdT : Use := ⟨.tile, [0], true, false, 0, 0⟩
def wrT : Use := ⟨.tile, [0], false, true, 0, 0⟩

/-- A field that names something only under a condition and must be 0 otherwise. -/
def useIf (c : Bool) (u : Use) : Use :=
  if c then u else noUse

def w00 : List Nat := [0]
def w01 : List Nat := [0, 1]
def wAny : List Nat := [0, 1, 2, 3]

/-- Bit i of the modifier field. -/
def mBit (x : Ext) (i : Nat) : Bool := x.m.toNat.testBit i

/-- Bits of the modifier field. -/
def mBits (x : Ext) (hi lo : Nat) : Nat := bitsNat x.m.toNat hi lo

/-- The U bit, R46. -/
def uniformB (x : Ext) : Bool := mBit x 13

/-- The RM field, R101. -/
def rmField (x : Ext) : Nat := mBits x 12 10

def rmOk (x : Ext) : Bool := decide (rmField x ≤ 5)

/-- Field B of a lane instruction that accepts a uniform operand. -/
def laneB (x : Ext) (ws : List Nat) : Use :=
  if uniformB x then rdS ws else rdV ws

/-- M bits of the U and RM fields. -/
def mU : Nat := 0x2000
def mRM : Nat := 0x1C00

/-- D and A agree in width; so do B and C where the flags ask. -/
def sameWidths (x : Ext) (withB withC : Bool) : Bool :=
  x.wd == x.wa && (!withB || x.wb == x.wa) && (!withC || x.wc == x.wa)

/-- SAT and TRAPV not both, R104. -/
def satOk (x : Ext) : Bool := !(mBit x 1 && mBit x 2)

/-- Shapes of the lane compute instructions, R104 to R124. The width 01 that the table of ISET and FSET gives for INT64 is no
width of FSET, which traps ILL_FIELD under it: DEDUCED, log entry 18. -/
def shapeCompute (op : Op) (f : Base) (x : Ext) : Shape :=
  let intB (mask : Nat) (ok : Bool) : Shape :=
    ⟨wrV w01, rdV w01, laneB x w01, noUse, mU + mask, ok && sameWidths x true false, true⟩
  let bits2 : Shape := ⟨wrV wAny, rdV wAny, laneB x wAny, noUse, mU, sameWidths x true false, true⟩
  let unary (ws : List Nat) : Shape := ⟨wrV ws, rdV ws, noUse, noUse, 0, true, true⟩
  let floatMods : Nat := mU + mRM + 0x78
  let fn : Shape := ⟨wrV wAny, rdV wAny, noUse, noUse, mRM, rmOk x && sameWidths x false false, true⟩
  match op with
  | .nop => ⟨noUse, noUse, noUse, noUse, 0, true, true⟩
  | .iadd => intB 6 (satOk x)
  | .isub => intB 6 (satOk x)
  | .imul => intB 7 (satOk x)
  | .imad => ⟨wrV w01, rdV w01, laneB x w01, rdV w01, mU + 6, satOk x && sameWidths x true true, true⟩
  | .iminmax => intB 1 true
  | .iabs => ⟨wrV w01, rdV w01, noUse, noUse, 6, satOk x && sameWidths x false false, true⟩
  | .shl => intB 0 true
  | .shr => intB 1 true
  | .and => bits2
  | .or => bits2
  | .xor => bits2
  | .andn => bits2
  | .shf => ⟨wrV w00, rdV w00, laneB x w00, rdV w00, mU + 1, true, true⟩
  | .popc => unary w00
  | .clz => unary w00
  | .brev => unary w00
  | .bfx => ⟨wrV w00, rdV w00, laneB x w00, noUse, mU + 1, true, true⟩
  | .bfi => ⟨wrV w00, rdV w00, laneB x w00, rdV w00, mU, true, true⟩
  | .mov =>
    if uniformB x then ⟨wrV wAny, noUse, rdS wAny, noUse, mU + 0x1F, x.wd == x.wb, true⟩
    else ⟨wrV wAny, rdV wAny, noUse, noUse, 0, sameWidths x false false, true⟩
  | .movi => ⟨wrV w00, rawUse, noUse, noUse, 0, decide (f.a.toNat < 32), true⟩
  | .iaddi => ⟨wrV w00, rdV w00, noUse, noUse, 0, true, true⟩
  | .sel => ⟨wrV wAny, rdV wAny, laneB x wAny, rdP, mU + 1, sameWidths x true false, true⟩
  | .iset => ⟨wrP, rdV w01, laneB x w01, rdP, mU + 0x7F,
      decide (mBits x 3 0 ≤ 5) && decide (mBits x 5 4 ≤ 2) && x.wa == x.wb, true⟩
  | .fset => ⟨wrP, rdV w00, laneB x w00, rdP, mU + 0x7F, decide (mBits x 3 0 ≤ 7) && decide (mBits x 5 4 ≤ 2), true⟩
  | .plop => ⟨wrP, rdP, rdP, rdP, 0xFF, true, true⟩
  | .fadd => ⟨wrV wAny, rdV wAny, laneB x wAny, noUse, floatMods, rmOk x && sameWidths x true false, true⟩
  | .fmul => ⟨wrV wAny, rdV wAny, laneB x wAny, noUse, floatMods, rmOk x && sameWidths x true false, true⟩
  | .ffma => ⟨wrV wAny, rdV wAny, laneB x wAny, rdV wAny, floatMods + 0x180, rmOk x && sameWidths x true true, true⟩
  | .fminmax => ⟨wrV wAny, rdV wAny, laneB x wAny, noUse, mU + 3, sameWidths x true false, true⟩
  | .frcp => fn
  | .frsq => fn
  | .fsqrt => fn
  | .fexp2 => fn
  | .flog2 => fn
  | .fsin => fn
  | .fcos => fn
  | .ftanh => fn
  | .frnd => fn
  | .cvt => ⟨wrV wAny, rdV wAny, noUse, noUse, mRM + 0x1F, rmOk x, true⟩
  | .tagset => ⟨wrV wAny, rdV wAny, noUse, noUse, 0x3F,
      sameWidths x false false && (!mBit x 5 || mBits x 4 0 == 0), true⟩
  | .tagget => unary w00
  | .qblk => ⟨wrV [1], rdV w00, noUse, noUse, mRM + 0x1F, rmOk x, true⟩
  | .fdot => ⟨wrV w00, rdV w01, laneB x w01, rdV w00, mU + mRM + 2, rmOk x && x.wa == x.wb, true⟩
  | .shfl => ⟨wrV wAny, rdV wAny, laneB x w00, wrP, mU + 0x1F, sameWidths x false false && decide (mBits x 4 2 ≤ 5), true⟩
  | .vote => ⟨if mBit x 4 then noUse else wrV w00, rdP, noUse, wrP, 0x1F, !(mBit x 3 && mBit x 4), true⟩
  | .matchLanes => ⟨wrV w00, rdV w01, noUse, noUse, 3, true, true⟩
  | .redux => ⟨wrV w00, rdV w00, noUse, noUse, mRM + 0x7F,
      rmOk x && decide (mBits x 6 5 ≤ 2) && decide (mBits x 3 0 ≤ 8) && (!mBit x 4 || mBits x 3 0 == 0), true⟩
  | .elect => ⟨wrP, noUse, noUse, if mBit x 1 then wrV w00 else noUse, 3, true, true⟩
  | .s2v => ⟨wrV (if f.a.toNat = 10 || f.a.toNat = 11 then w01 else w00), rawUse, noUse, noUse, 0,
      decide (f.a.toNat < 14), true⟩
  | .conv => ⟨noUse, noUse, if uniformB x then rdS w00 else noUse, noUse, mU, true, true⟩
  | _ => ⟨noUse, noUse, noUse, noUse, 0, false, true⟩

/-- The field `rec` of R127: a buffer-record quad. -/
def recUse : Use := rdS [2]

/-- SEM of R128. -/
def semField (x : Ext) : Nat := mBits x 12 11

/-- SCOPE of R128. -/
def scopeField (x : Ext) : Nat := mBits x 10 8

/-- SUB of R128 is a defined code and SUB ≠ 0 goes with a single register. -/
def subOk (x : Ext) (w : BitVec 2) : Bool :=
  decide (mBits x 6 5 ≤ 2) && (mBits x 6 5 == 0 || w == 0)

/-- SCOPE is a defined code, and 0 for an access that is plain. -/
def scopeOk (x : Ext) (plain : Bool) : Bool :=
  decide (scopeField x ≤ 4) && (!plain || scopeField x == 0)

/-- Shapes of the lane memory and control instructions, R127, R128, R138, R141, R152 to R158. -/
def shapeLaneMem (op : Op) (f : Base) (x : Ext) (long : Bool) : Shape :=
  let idx := rdV w00
  let peer := useIf (uniformB x) (rdS w00)
  match op with
  | .ld => ⟨wrV wAny, idx, recUse, noUse, 0x1FFF,
      decide (semField x ≤ 1) && scopeOk x (semField x == 0) && subOk x x.wd && (!mBit x 7 || mBits x 6 5 == 0), true⟩
  | .st => ⟨noUse, idx, recUse, rdV wAny, 0x1F7F,
      decide (semField x ≤ 1) && scopeOk x (semField x == 0) && subOk x x.wc, true⟩
  | .lds => ⟨wrV wAny, idx, peer, noUse, 0x3F7F, subOk x x.wd, true⟩
  | .sts => ⟨noUse, idx, peer, rdV wAny, 0x207F, subOk x x.wc, true⟩
  | .atom => ⟨wrV [0, 1, 2], idx, recUse, rdV wAny, 0x1FFF, decide (mBits x 7 4 ≤ 12) && scopeOk x false, true⟩
  | .atoms => ⟨wrV w01, idx, peer, rdV [0, 1, 2], 0x20FF, decide (mBits x 7 4 ≤ 12), true⟩
  | .red => ⟨noUse, idx, recUse, rdV w01, 0x1FFF,
      decide (mBits x 7 4 ≤ 12) && mBits x 7 4 != 6 && mBits x 7 4 != 7 && (semField x == 0 || semField x == 2)
        && scopeOk x false, true⟩
  | .stmc => ⟨noUse, idx, ⟨.s, [2], true, false, 0, 4 * (mBits x 1 0 + 1)⟩, rdV wAny, 0x1FFF,
      decide (mBits x 7 5 ≤ 4) && (semField x == 0 || semField x == 2) && scopeOk x (semField x == 0)
        && decide (f.b.toNat + 4 * (mBits x 1 0 + 1) ≤ 64), true⟩
  | .pref => ⟨noUse, idx, recUse, noUse, 0x181F, decide (semField x ≤ 1), true⟩
  | .discard => ⟨noUse, idx, recUse, noUse, 0x071F, scopeField x == 0 || scopeField x == 2, true⟩
  | .flush => ⟨noUse, idx, recUse, rdV w00, 0x071F, scopeField x == 2 || scopeField x == 3, true⟩
  | .fence => ⟨noUse, noUse, noUse, noUse, 0x1F00, decide (1 ≤ semField x) && scopeOk x false, true⟩
  | .lock =>
    let nr := mBit x 2
    ⟨useIf (mBit x 3) wrP, useIf (!nr) ⟨.s, [2], true, false, 0, 4 * (mBits x 1 0 + 1)⟩, recUse, noUse, 0x0F,
      if nr then mBits x 1 0 == 0 else decide (f.a.toNat + 4 * (mBits x 1 0 + 1) ≤ 64), true⟩
  | .unlock => ⟨noUse, noUse, recUse, noUse, 0, true, true⟩
  | .bra => if long then ⟨noUse, noUse, noUse, noUse, 0, true, true⟩ else ⟨rawUse, rawUse, rawUse, noUse, 0, true, true⟩
  | .brc =>
    let d : Use := rawUse
    let ok := bitsNat f.d.toNat 4 3 == 0
    if long then ⟨d, noUse, noUse, noUse, 0, ok, true⟩ else ⟨d, rawUse, rawUse, noUse, 0, ok, true⟩
  | .brx => ⟨useIf (mBit x 1) (wrV [1]), rdV (if mBit x 0 then [1] else w00), noUse, noUse, 3, true, true⟩
  | .call => ⟨⟨.v, [0], false, true, 1, 0⟩, noUse, noUse, noUse, 0, true, true⟩
  | .ret => ⟨noUse, ⟨.v, w01, true, false, 1, 0⟩, noUse, noUse, 0, true, true⟩
  | .nsleep =>
    if mBit x 12 then ⟨noUse, noUse, noUse, noUse, 0x1FFF, true, true⟩
    else ⟨noUse, noUse, laneB x w00, noUse, mU, true, true⟩
  | .bkpt => ⟨noUse, noUse, noUse, noUse, 0xFF, true, true⟩
  | .trapl => ⟨noUse, noUse, noUse, noUse, 0xFFF, true, true⟩
  | .exit => ⟨noUse, noUse, noUse, noUse, 0, true, true⟩
  | .yield => ⟨noUse, noUse, noUse, noUse, 0, true, true⟩
  | _ => ⟨noUse, noUse, noUse, noUse, 0, false, true⟩

/-- Shapes of the uniform scalar, layout and tile instructions, R161 to R192. -/
def shapeUniform (op : Op) (f : Base) (x : Ext) (long : Bool) : Shape :=
  let three (ws : List Nat) (mask : Nat) : Shape :=
    ⟨wrS ws, rdS ws, rdS ws, noUse, mask, sameWidths x true false, true⟩
  let edge := useIf (mBit x 3) (rdS w00)
  match op with
  | .snop => ⟨noUse, noUse, noUse, noUse, 0, true, true⟩
  | .sadd => three w01 0
  | .ssub => three w01 0
  | .smul => three w00 3
  | .smad => ⟨wrS w00, rdS w00, rdS w00, rdS w00, 0, true, true⟩
  | .sminmax => three w00 3
  | .sand => three wAny 0
  | .sor => three wAny 0
  | .sxor => three wAny 0
  | .sshl => three w00 0
  | .sshr => three w00 1
  | .sset => ⟨wrQ, rdS w01, rdS w01, rdQ, 0xFF,
      x.wa == x.wb && decide (mBits x 3 0 ≤ 5) && decide (mBits x 5 4 ≤ 2), true⟩
  | .ssel => ⟨wrS wAny, rdS wAny, rdS wAny, rdQ, 1, sameWidths x true false, true⟩
  | .smov => ⟨wrS wAny, rdS wAny, noUse, noUse, 0, sameWidths x false false, true⟩
  | .smovi => ⟨wrS w00, noUse, noUse, noUse, 0, true, true⟩
  | .saddi => ⟨wrS w00, rdS w00, noUse, noUse, 0, true, true⟩
  | .s2s => ⟨wrS (if f.a.toNat = 10 || f.a.toNat = 11 then w01 else w00), rawUse, noUse, noUse, 0,
      decide (1 ≤ f.a.toNat) && decide (f.a.toNat < 14), true⟩
  | .v2s => ⟨wrS w01, rdV w01, noUse, wrQ, 0x3F,
      sameWidths x false false && (!mBit x 5 || mBits x 4 0 == 0), true⟩
  | .sbcast => ⟨wrS wAny, rdS wAny, noUse, noUse, 0x1F,
      sameWidths x false false && (!mBit x 4 || mBits x 3 0 == 0), true⟩
  | .sbra => if long then ⟨noUse, noUse, noUse, noUse, 0, true, true⟩ else ⟨rawUse, rawUse, rawUse, noUse, 0, true, true⟩
  | .sbrc =>
    let ok := bitsNat f.d.toNat 4 3 == 0
    if long then ⟨rawUse, noUse, noUse, noUse, 0, ok, true⟩ else ⟨rawUse, rawUse, rawUse, noUse, 0, ok, true⟩
  | .bar => ⟨noUse, noUse, noUse, noUse, 0x3FF, decide (mBits x 8 4 ≤ 16), true⟩
  | .bufmk => ⟨wrS [2], rdS [1], rdS w00, rdS w00, 0x1F, decide (mBits x 4 3 ≤ 1), true⟩
  | .bufset => ⟨rwS [2], rdS (if mBits x 2 0 = 0 then [1] else w00), noUse, noUse, 7, decide (mBits x 2 0 ≤ 6), true⟩
  | .layout =>
    let rd := mBit x 3
    ⟨useIf rd (wrS [3]), useIf (!rd) (rdS [3]), noUse, noUse, 0xF, true, true⟩
  | .mma =>
    let asrc := mBits x 1 0
    ⟨wrT, if asrc = 0 then rdS [1] else rdT, rdS [1], edge, 0x1F,
      asrc != 3 && (!mBit x 4 || mBit x 3) && (!mBit x 2 || asrc == 1), true⟩
  | .tzero => ⟨wrT, noUse, noUse, noUse, 0x1F, true, true⟩
  | .tld => ⟨wrT, rdS [1], noUse, edge, 8, true, true⟩
  | .tst => ⟨rdS [1], rdT, noUse, edge, mRM + 8, rmOk x, true⟩
  | .tred => ⟨if mBit x 2 then rwV [1] else wrV [1], rdT, noUse, edge, 0xF, decide (mBits x 1 0 ≤ 2), true⟩
  | .tscal => ⟨wrT, rdT, rdS w00, edge, 9, true, true⟩
  | .topk => ⟨wrT, if mBit x 1 then rdS [1] else rdT, noUse, rdS [1], 0xFF, true, true⟩
  | .tmov =>
    if mBit x 8 then ⟨wrT, rdV wAny, noUse, noUse, 0x1FF, true, true⟩
    else ⟨wrV wAny, rdT, noUse, noUse, 0x1FF, true, true⟩
  | _ => ⟨noUse, noUse, noUse, noUse, 0, false, true⟩

/-- Shapes of the asynchronous and the system instructions, R196 to R250. -/
def shapeSystem (op : Op) (_f : Base) (x : Ext) : Shape :=
  let copy (b : Use) (mask : Nat) (ok : Bool) : Shape :=
    ⟨rdS [1], recUse, b, useIf (mBit x 8) recUse, 0x1FE0 + mask, ok, true⟩
  match op with
  | .cpy => copy (rdS w00) 0 true
  | .cpyo => copy (rdS w00) 0 true
  | .cpyc => copy (rdS [1]) 0 true
  | .cpyr => copy (rdS w00) 7 (decide (mBits x 2 0 ≤ 3))
  | .cpym => ⟨rdS [1], recUse, rdS w00, rdS [2], 0xE0, true, true⟩
  | .tlwait => ⟨wrQ, rdS [1], noUse, noUse, 3, decide (mBits x 1 0 ≤ 2), true⟩
  | .tlget => ⟨wrS [1], noUse, noUse, noUse, 0xF, decide (mBits x 1 0 ≤ 2) && decide (mBits x 3 2 ≤ 2), true⟩
  | .femark => ⟨noUse, rdS w00, rdS w00, noUse, 0, true, true⟩
  | .fefill => ⟨noUse, rdS w00, rdS w00, noUse, 0, true, true⟩
  | .tbinit => ⟨noUse, recUse, rdS w00, noUse, 0x1E00, true, true⟩
  | .tbexp => ⟨noUse, recUse, rdS w00, noUse, 0x1E00, true, true⟩
  | .tbarv => ⟨noUse, recUse, useIf (mBit x 8) (rdS w00), noUse, 0x1F07, decide (mBits x 2 0 ≤ 4), true⟩
  | .tbwait => ⟨wrQ, recUse, noUse, noUse, 0x1F07, decide (mBits x 2 0 ≤ 4), true⟩
  | .catchOp => ⟨useIf (mBit x 0) (wrS w00), noUse, noUse, noUse, 1, true, true⟩
  | .send => ⟨rdS w00, rdS w00, rdS w00, noUse, 0, true, true⟩
  | .recvp => ⟨rdS w00, rdS w00, rdS w00, rdS w00, 0, true, true⟩
  | .mprobe => ⟨wrS [1], rdS w00, noUse, wrQ, 0, true, true⟩
  | .lrec => ⟨rdS w00, rdS [3], noUse, noUse, 1, true, true⟩
  | .launch => ⟨wrS w00, rdS w00, noUse, useIf (mBit x 0) wrQ, 1, true, true⟩
  | .cwait => ⟨wrQ, rdS w00, rdS w00, noUse, 0x1F, decide (mBits x 2 0 ≤ 4), true⟩
  | .cget => ⟨wrS [1], rdS w00, noUse, noUse, 7, decide (mBits x 2 0 ≤ 4), true⟩
  | .cancel => ⟨noUse, rdS w00, noUse, noUse, 7, decide (mBits x 2 0 ≤ 4), true⟩
  | .trap => ⟨noUse, noUse, noUse, noUse, 0xFFF, true, true⟩
  | .rte => ⟨noUse, noUse, noUse, noUse, 0, true, true⟩
  | .csrr => ⟨wrS w01, noUse, noUse, noUse, 0xFFF, true, x.wd == 0 || mBits x 11 0 % 2 == 0⟩
  | .csrw => ⟨noUse, rdS w00, noUse, noUse, 0x3FFF, decide (mBits x 13 12 ≤ 2), true⟩
  | .fmtset => ⟨noUse, rdS [2], noUse, noUse, 0x1F, true, true⟩
  | .fmtget => ⟨wrS [2], noUse, noUse, noUse, 0x1F, true, true⟩
  | .cpdset => ⟨noUse, rdS [3], noUse, noUse, 0xF, decide (1 ≤ mBits x 3 0) && decide (mBits x 3 0 ≤ 8), true⟩
  | .wpset => ⟨noUse, rdS [3], noUse, noUse, 0xF, true, true⟩
  | .wpctl => ⟨useIf (decide (3 ≤ mBits x 6 4)) (wrS w00), noUse, noUse, noUse, 0x7F, decide (mBits x 6 4 ≤ 4), true⟩
  | .hread => ⟨wrS w00, rdS w00, noUse, noUse, 0xFF, decide (mBits x 7 0 ≤ 0xC7), true⟩
  | .hwrite => ⟨noUse, rdS w00, rdS w00, noUse, 0xFF, decide (mBits x 7 0 ≤ 0xC3), true⟩
  | .hstep => ⟨wrQ, rdS w00, noUse, noUse, 0, true, true⟩
  | .hres => ⟨noUse, rdS w00, noUse, noUse, 0, true, true⟩
  | .dumpq => ⟨useIf (mBit x 0) (wrS w00), noUse, noUse, noUse, 1, true, true⟩
  | _ => ⟨noUse, noUse, noUse, noUse, 0, false, true⟩

/-- The family of an opcode, by the chapter that gives it. -/
inductive Family where
  | compute | laneMem | uniform | system
  deriving DecidableEq, Repr

def opFamily : Op → Family
  | .nop => .compute
  | .iadd => .compute
  | .isub => .compute
  | .imul => .compute
  | .imad => .compute
  | .iminmax => .compute
  | .iabs => .compute
  | .and => .compute
  | .or => .compute
  | .xor => .compute
  | .andn => .compute
  | .shl => .compute
  | .shr => .compute
  | .shf => .compute
  | .popc => .compute
  | .clz => .compute
  | .brev => .compute
  | .bfx => .compute
  | .bfi => .compute
  | .iset => .compute
  | .sel => .compute
  | .plop => .compute
  | .mov => .compute
  | .movi => .compute
  | .iaddi => .compute
  | .fadd => .compute
  | .fmul => .compute
  | .ffma => .compute
  | .fminmax => .compute
  | .fset => .compute
  | .frcp => .compute
  | .frsq => .compute
  | .fsqrt => .compute
  | .fexp2 => .compute
  | .flog2 => .compute
  | .fsin => .compute
  | .fcos => .compute
  | .ftanh => .compute
  | .cvt => .compute
  | .frnd => .compute
  | .tagset => .compute
  | .tagget => .compute
  | .qblk => .compute
  | .fdot => .compute
  | .shfl => .compute
  | .vote => .compute
  | .matchLanes => .compute
  | .redux => .compute
  | .elect => .compute
  | .s2v => .compute
  | .conv => .compute
  | .ld => .laneMem
  | .st => .laneMem
  | .lds => .laneMem
  | .sts => .laneMem
  | .atom => .laneMem
  | .atoms => .laneMem
  | .red => .laneMem
  | .stmc => .laneMem
  | .pref => .laneMem
  | .discard => .laneMem
  | .flush => .laneMem
  | .fence => .laneMem
  | .lock => .laneMem
  | .unlock => .laneMem
  | .bra => .laneMem
  | .brc => .laneMem
  | .brx => .laneMem
  | .call => .laneMem
  | .ret => .laneMem
  | .exit => .laneMem
  | .yield => .laneMem
  | .nsleep => .laneMem
  | .bkpt => .laneMem
  | .trapl => .laneMem
  | .snop => .uniform
  | .sadd => .uniform
  | .ssub => .uniform
  | .smul => .uniform
  | .smad => .uniform
  | .sminmax => .uniform
  | .sand => .uniform
  | .sor => .uniform
  | .sxor => .uniform
  | .sshl => .uniform
  | .sshr => .uniform
  | .sset => .uniform
  | .ssel => .uniform
  | .smov => .uniform
  | .smovi => .uniform
  | .saddi => .uniform
  | .s2s => .uniform
  | .v2s => .uniform
  | .sbcast => .uniform
  | .sbra => .uniform
  | .sbrc => .uniform
  | .bar => .uniform
  | .bufmk => .uniform
  | .bufset => .uniform
  | .layout => .uniform
  | .mma => .uniform
  | .tzero => .uniform
  | .tld => .uniform
  | .tst => .uniform
  | .tred => .uniform
  | .tscal => .uniform
  | .topk => .uniform
  | .tmov => .uniform
  | .cpy => .system
  | .cpyo => .system
  | .cpym => .system
  | .cpyc => .system
  | .cpyr => .system
  | .tlwait => .system
  | .tlget => .system
  | .femark => .system
  | .fefill => .system
  | .tbinit => .system
  | .tbexp => .system
  | .tbarv => .system
  | .tbwait => .system
  | .catchOp => .system
  | .send => .system
  | .recvp => .system
  | .mprobe => .system
  | .lrec => .system
  | .launch => .system
  | .cwait => .system
  | .cget => .system
  | .cancel => .system
  | .trap => .system
  | .rte => .system
  | .csrr => .system
  | .csrw => .system
  | .fmtset => .system
  | .fmtget => .system
  | .cpdset => .system
  | .wpset => .system
  | .wpctl => .system
  | .hread => .system
  | .hwrite => .system
  | .hstep => .system
  | .hres => .system
  | .dumpq => .system

/-- The shape of an instruction: `long` tells the long form of a branch. -/
def shapeOf (op : Op) (f : Base) (x : Ext) (long : Bool) : Shape :=
  match opFamily op with
  | .compute => shapeCompute op f x
  | .laneMem => shapeLaneMem op f x long
  | .uniform => shapeUniform op f x long
  | .system => shapeSystem op f x

/-! ### The checks of R45 to R47 on one field -/

/-- Registers of a group as a power of two. -/
def Use.log (u : Use) (w : BitVec 2) : Nat :=
  max u.least w.toNat

/-- Registers that a field names. -/
def Use.count (u : Use) (w : BitVec 2) : Nat :=
  if u.span = 0 then 2 ^ u.log w else u.span

/-- R45 and the widths of R47, for one field. -/
def Use.fieldOk (u : Use) (r : BitVec 6) (w : BitVec 2) : Bool :=
  u.widths.contains w.toNat &&
  match u.file with
  | .unused => r == 0
  | .p => decide (r.toNat < 8)
  | .q => decide (r.toNat < 8)
  | .tile => decide (r.toNat < 16)
  | _ => true

/-- The alignment of R47, for one field. -/
def Use.alignOk (u : Use) (r : BitVec 6) (w : BitVec 2) : Bool :=
  match u.file with
  | .v => r.toNat % 2 ^ u.log w == 0
  | .s => r.toNat % 2 ^ u.log w == 0
  | _ => true

/-- check_fields of R55. -/
def fieldsOk (op : Op) (f : Base) (x : Ext) (long : Bool) : Bool :=
  let s := shapeOf op f x long
  s.ok && (x.m.toNat &&& s.mMask) == x.m.toNat && s.d.fieldOk f.d x.wd && s.a.fieldOk f.a x.wa
    && s.b.fieldOk f.b x.wb && s.c.fieldOk x.c x.wc

/-- check_alignment of R55. -/
def alignmentOk (op : Op) (f : Base) (x : Ext) (long : Bool) : Bool :=
  let s := shapeOf op f x long
  s.aligned && s.d.alignOk f.d x.wd && s.a.alignOk f.a x.wa && s.b.alignOk f.b x.wb && s.c.alignOk x.c x.wc

end Sys2Proof.Machine
end

