-- ==== Sys2Proof/Machine/Forms.lean ====
section
/-! DEFINITION. The opcode maps (R57, R58): opcodes, extension classes and timing classes, and how the constructors
of `Instr` pair an opcode with a form. -/

namespace Sys2Proof.Machine

/-- Extension classes, R44. -/
inductive ExtClass where
  | n | e | x | i | b
  deriving DecidableEq, Repr

/-- Timing classes, R54. -/
inductive Timing where
  | a | b | s | v
  deriving DecidableEq, Repr

/-- Latency of a fixed-latency class in core cycles, R54. -/
def Timing.latency : Timing → Option Nat
  | .a => some 4
  | .b => some 8
  | .s => some 2
  | .v => none

/-- The opcode maps: 128 × SET + OP, the opcode, its extension class and its timing class (R57, R58). -/
def laneTable1 : List (Nat × Op × ExtClass × Timing) :=
  [(0, .nop, .n, .v),
   (1, .iadd, .e, .a),
   (2, .isub, .e, .a),
   (3, .imul, .e, .a),
   (4, .imad, .x, .a),
   (5, .iminmax, .e, .a),
   (6, .iabs, .e, .a),
   (7, .and, .e, .a),
   (8, .or, .e, .a),
   (9, .xor, .e, .a),
   (10, .andn, .e, .a),
   (11, .shl, .e, .a),
   (12, .shr, .e, .a),
   (13, .shf, .x, .a),
   (14, .popc, .e, .a),
   (15, .clz, .e, .a),
   (16, .brev, .e, .a),
   (17, .bfx, .x, .a),
   (18, .bfi, .x, .a),
   (19, .iset, .x, .a),
   (20, .sel, .x, .a),
   (21, .plop, .x, .a),
   (22, .mov, .e, .a),
   (23, .movi, .i, .a),
   (24, .iaddi, .i, .a)]

/-- Second third of the lane map. -/
def laneTable2 : List (Nat × Op × ExtClass × Timing) :=
  [(32, .fadd, .e, .a),
   (33, .fmul, .e, .a),
   (34, .ffma, .x, .a),
   (35, .fminmax, .e, .a),
   (36, .fset, .x, .a),
   (37, .frcp, .e, .b),
   (38, .frsq, .e, .b),
   (39, .fsqrt, .e, .b),
   (40, .fexp2, .e, .b),
   (41, .flog2, .e, .b),
   (42, .fsin, .e, .b),
   (43, .fcos, .e, .b),
   (44, .ftanh, .e, .b),
   (45, .cvt, .x, .b),
   (46, .frnd, .e, .b),
   (47, .tagset, .x, .a),
   (48, .tagget, .e, .a),
   (49, .qblk, .x, .b),
   (50, .fdot, .x, .b),
   (52, .shfl, .x, .b),
   (53, .vote, .x, .b),
   (54, .matchLanes, .e, .b),
   (55, .redux, .x, .b),
   (56, .elect, .e, .b),
   (57, .s2v, .e, .a)]

/-- Last third of the lane map. -/
def laneTable3 : List (Nat × Op × ExtClass × Timing) :=
  [(58, .conv, .e, .v),
   (64, .ld, .x, .v),
   (65, .st, .x, .v),
   (66, .lds, .x, .v),
   (67, .sts, .x, .v),
   (68, .atom, .x, .v),
   (69, .atoms, .x, .v),
   (70, .red, .x, .v),
   (71, .stmc, .x, .v),
   (72, .pref, .x, .v),
   (73, .discard, .x, .v),
   (74, .flush, .x, .v),
   (75, .fence, .x, .v),
   (76, .lock, .x, .v),
   (77, .unlock, .x, .v),
   (96, .bra, .b, .v),
   (97, .brc, .b, .v),
   (98, .brx, .x, .v),
   (99, .call, .i, .v),
   (100, .ret, .e, .v),
   (101, .exit, .e, .v),
   (102, .yield, .e, .v),
   (103, .nsleep, .x, .v),
   (104, .bkpt, .e, .v),
   (105, .trapl, .x, .v)]

/-- The lane map (R57). -/
def laneTable : List (Nat × Op × ExtClass × Timing) :=
  laneTable1 ++ laneTable2 ++ laneTable3

/-- First third of the uniform map. -/
def uniformTable1 : List (Nat × Op × ExtClass × Timing) :=
  [(128, .snop, .n, .v),
   (129, .sadd, .e, .s),
   (130, .ssub, .e, .s),
   (131, .smul, .e, .s),
   (132, .smad, .x, .s),
   (133, .sminmax, .e, .s),
   (134, .sand, .e, .s),
   (135, .sor, .e, .s),
   (136, .sxor, .e, .s),
   (137, .sshl, .e, .s),
   (138, .sshr, .e, .s),
   (139, .sset, .x, .s),
   (140, .ssel, .x, .s),
   (141, .smov, .e, .s),
   (142, .smovi, .i, .s),
   (143, .saddi, .i, .s),
   (144, .s2s, .e, .s),
   (145, .v2s, .x, .v),
   (146, .sbcast, .x, .v),
   (152, .sbra, .b, .v),
   (153, .sbrc, .b, .v),
   (154, .bar, .x, .v),
   (160, .bufmk, .x, .v),
   (161, .bufset, .x, .v),
   (162, .layout, .x, .v)]

/-- Second third of the uniform map. -/
def uniformTable2 : List (Nat × Op × ExtClass × Timing) :=
  [(168, .mma, .x, .v),
   (169, .tzero, .x, .v),
   (170, .tld, .x, .v),
   (171, .tst, .x, .v),
   (172, .tred, .x, .v),
   (173, .tscal, .x, .v),
   (174, .topk, .x, .v),
   (175, .tmov, .x, .v),
   (176, .cpy, .x, .v),
   (177, .cpyo, .x, .v),
   (178, .cpym, .x, .v),
   (179, .cpyc, .x, .v),
   (180, .cpyr, .x, .v),
   (181, .tlwait, .x, .v),
   (182, .tlget, .x, .v),
   (183, .femark, .x, .v),
   (184, .fefill, .x, .v),
   (185, .tbinit, .x, .v),
   (186, .tbexp, .x, .v),
   (187, .tbarv, .x, .v),
   (188, .tbwait, .x, .v),
   (189, .catchOp, .e, .v),
   (192, .send, .x, .v),
   (193, .recvp, .x, .v),
   (194, .mprobe, .x, .v)]

/-- Last third of the uniform map. -/
def uniformTable3 : List (Nat × Op × ExtClass × Timing) :=
  [(200, .lrec, .x, .v),
   (201, .launch, .x, .v),
   (202, .cwait, .x, .v),
   (203, .cget, .x, .v),
   (204, .cancel, .x, .v),
   (216, .trap, .x, .v),
   (217, .rte, .n, .v),
   (218, .csrr, .x, .v),
   (219, .csrw, .x, .v),
   (220, .fmtset, .x, .v),
   (221, .fmtget, .x, .v),
   (222, .cpdset, .x, .v),
   (223, .wpset, .x, .v),
   (224, .wpctl, .x, .v),
   (225, .hread, .x, .v),
   (226, .hwrite, .x, .v),
   (227, .hstep, .x, .v),
   (228, .hres, .x, .v),
   (229, .dumpq, .e, .v)]

/-- The uniform map (R58). -/
def uniformTable : List (Nat × Op × ExtClass × Timing) :=
  uniformTable1 ++ uniformTable2 ++ uniformTable3

def opTable : List (Nat × Op × ExtClass × Timing) :=
  laneTable ++ uniformTable

/-- The opcode of SET and OP, none where the map reserves it (R55, R56). -/
def opOf (setOp : Nat) : Option Op :=
  (lookupKey setOp opTable).map (·.1)

/-- 128 × SET + OP of an opcode. -/
def opCode : Op → Nat
  | .nop => 0
  | .iadd => 1
  | .isub => 2
  | .imul => 3
  | .imad => 4
  | .iminmax => 5
  | .iabs => 6
  | .and => 7
  | .or => 8
  | .xor => 9
  | .andn => 10
  | .shl => 11
  | .shr => 12
  | .shf => 13
  | .popc => 14
  | .clz => 15
  | .brev => 16
  | .bfx => 17
  | .bfi => 18
  | .iset => 19
  | .sel => 20
  | .plop => 21
  | .mov => 22
  | .movi => 23
  | .iaddi => 24
  | .fadd => 32
  | .fmul => 33
  | .ffma => 34
  | .fminmax => 35
  | .fset => 36
  | .frcp => 37
  | .frsq => 38
  | .fsqrt => 39
  | .fexp2 => 40
  | .flog2 => 41
  | .fsin => 42
  | .fcos => 43
  | .ftanh => 44
  | .cvt => 45
  | .frnd => 46
  | .tagset => 47
  | .tagget => 48
  | .qblk => 49
  | .fdot => 50
  | .shfl => 52
  | .vote => 53
  | .matchLanes => 54
  | .redux => 55
  | .elect => 56
  | .s2v => 57
  | .conv => 58
  | .ld => 64
  | .st => 65
  | .lds => 66
  | .sts => 67
  | .atom => 68
  | .atoms => 69
  | .red => 70
  | .stmc => 71
  | .pref => 72
  | .discard => 73
  | .flush => 74
  | .fence => 75
  | .lock => 76
  | .unlock => 77
  | .bra => 96
  | .brc => 97
  | .brx => 98
  | .call => 99
  | .ret => 100
  | .exit => 101
  | .yield => 102
  | .nsleep => 103
  | .bkpt => 104
  | .trapl => 105
  | .snop => 128
  | .sadd => 129
  | .ssub => 130
  | .smul => 131
  | .smad => 132
  | .sminmax => 133
  | .sand => 134
  | .sor => 135
  | .sxor => 136
  | .sshl => 137
  | .sshr => 138
  | .sset => 139
  | .ssel => 140
  | .smov => 141
  | .smovi => 142
  | .saddi => 143
  | .s2s => 144
  | .v2s => 145
  | .sbcast => 146
  | .sbra => 152
  | .sbrc => 153
  | .bar => 154
  | .bufmk => 160
  | .bufset => 161
  | .layout => 162
  | .mma => 168
  | .tzero => 169
  | .tld => 170
  | .tst => 171
  | .tred => 172
  | .tscal => 173
  | .topk => 174
  | .tmov => 175
  | .cpy => 176
  | .cpyo => 177
  | .cpym => 178
  | .cpyc => 179
  | .cpyr => 180
  | .tlwait => 181
  | .tlget => 182
  | .femark => 183
  | .fefill => 184
  | .tbinit => 185
  | .tbexp => 186
  | .tbarv => 187
  | .tbwait => 188
  | .catchOp => 189
  | .send => 192
  | .recvp => 193
  | .mprobe => 194
  | .lrec => 200
  | .launch => 201
  | .cwait => 202
  | .cget => 203
  | .cancel => 204
  | .trap => 216
  | .rte => 217
  | .csrr => 218
  | .csrw => 219
  | .fmtset => 220
  | .fmtget => 221
  | .cpdset => 222
  | .wpset => 223
  | .wpctl => 224
  | .hread => 225
  | .hwrite => 226
  | .hstep => 227
  | .hres => 228
  | .dumpq => 229

/-- Extension class of an opcode. -/
def opClass (op : Op) : ExtClass :=
  ((lookupKey (opCode op) opTable).map (·.2.1)).getD .n

/-- Timing class of an opcode. -/
def opTiming (op : Op) : Timing :=
  ((lookupKey (opCode op) opTable).map (·.2.2)).getD .v

/-- Whether an opcode belongs to the uniform set. -/
def opUniform (op : Op) : Bool :=
  decide (128 ≤ opCode op)

/-- What follows a base word: nothing, an E-form extension, or an immediate. -/
inductive Form where
  | short
  | long (x : Ext)
  | imm (v : Word)
  deriving DecidableEq, Repr

/-- Opcode, base fields and form of an instruction; none for an illegal word and for events. -/
structure Parts where
  op : Op
  base : Base
  form : Form
  deriving DecidableEq, Repr

def partsOf : Instr → Option Parts
  | .nop f => some ⟨.nop, f, .short⟩
  | .iadd f => some ⟨.iadd, f, .short⟩
  | .iaddLong f x => some ⟨.iadd, f, .long x⟩
  | .isub f => some ⟨.isub, f, .short⟩
  | .isubLong f x => some ⟨.isub, f, .long x⟩
  | .imul f => some ⟨.imul, f, .short⟩
  | .imulLong f x => some ⟨.imul, f, .long x⟩
  | .imad f x => some ⟨.imad, f, .long x⟩
  | .imin f => some ⟨.iminmax, f, .short⟩
  | .iminImaxLong f x => some ⟨.iminmax, f, .long x⟩
  | .iabs f => some ⟨.iabs, f, .short⟩
  | .iabsLong f x => some ⟨.iabs, f, .long x⟩
  | .and f => some ⟨.and, f, .short⟩
  | .andLong f x => some ⟨.and, f, .long x⟩
  | .or f => some ⟨.or, f, .short⟩
  | .orLong f x => some ⟨.or, f, .long x⟩
  | .xor f => some ⟨.xor, f, .short⟩
  | .xorLong f x => some ⟨.xor, f, .long x⟩
  | .andn f => some ⟨.andn, f, .short⟩
  | .andnLong f x => some ⟨.andn, f, .long x⟩
  | .shl f => some ⟨.shl, f, .short⟩
  | .shlLong f x => some ⟨.shl, f, .long x⟩
  | .shr f => some ⟨.shr, f, .short⟩
  | .shrLong f x => some ⟨.shr, f, .long x⟩
  | .shf f x => some ⟨.shf, f, .long x⟩
  | .popc f => some ⟨.popc, f, .short⟩
  | .popcLong f x => some ⟨.popc, f, .long x⟩
  | .clz f => some ⟨.clz, f, .short⟩
  | .clzLong f x => some ⟨.clz, f, .long x⟩
  | .brev f => some ⟨.brev, f, .short⟩
  | .brevLong f x => some ⟨.brev, f, .long x⟩
  | .bfx f x => some ⟨.bfx, f, .long x⟩
  | .bfi f x => some ⟨.bfi, f, .long x⟩
  | .iset f x => some ⟨.iset, f, .long x⟩
  | .sel f x => some ⟨.sel, f, .long x⟩
  | .plop f x => some ⟨.plop, f, .long x⟩
  | .mov f => some ⟨.mov, f, .short⟩
  | .movLong f x => some ⟨.mov, f, .long x⟩
  | .movi f v => some ⟨.movi, f, .imm v⟩
  | .iaddi f v => some ⟨.iaddi, f, .imm v⟩
  | .fadd f => some ⟨.fadd, f, .short⟩
  | .faddLong f x => some ⟨.fadd, f, .long x⟩
  | .fmul f => some ⟨.fmul, f, .short⟩
  | .fmulLong f x => some ⟨.fmul, f, .long x⟩
  | .ffma f x => some ⟨.ffma, f, .long x⟩
  | .fmin f => some ⟨.fminmax, f, .short⟩
  | .fminFmaxLong f x => some ⟨.fminmax, f, .long x⟩
  | .fset f x => some ⟨.fset, f, .long x⟩
  | .frcp f => some ⟨.frcp, f, .short⟩
  | .frcpLong f x => some ⟨.frcp, f, .long x⟩
  | .frsq f => some ⟨.frsq, f, .short⟩
  | .frsqLong f x => some ⟨.frsq, f, .long x⟩
  | .fsqrt f => some ⟨.fsqrt, f, .short⟩
  | .fsqrtLong f x => some ⟨.fsqrt, f, .long x⟩
  | .fexp2 f => some ⟨.fexp2, f, .short⟩
  | .fexp2Long f x => some ⟨.fexp2, f, .long x⟩
  | .flog2 f => some ⟨.flog2, f, .short⟩
  | .flog2Long f x => some ⟨.flog2, f, .long x⟩
  | .fsin f => some ⟨.fsin, f, .short⟩
  | .fsinLong f x => some ⟨.fsin, f, .long x⟩
  | .fcos f => some ⟨.fcos, f, .short⟩
  | .fcosLong f x => some ⟨.fcos, f, .long x⟩
  | .ftanh f => some ⟨.ftanh, f, .short⟩
  | .ftanhLong f x => some ⟨.ftanh, f, .long x⟩
  | .cvt f x => some ⟨.cvt, f, .long x⟩
  | .frnd f => some ⟨.frnd, f, .short⟩
  | .frndLong f x => some ⟨.frnd, f, .long x⟩
  | .tagset f x => some ⟨.tagset, f, .long x⟩
  | .tagget f => some ⟨.tagget, f, .short⟩
  | .taggetLong f x => some ⟨.tagget, f, .long x⟩
  | .qblk f x => some ⟨.qblk, f, .long x⟩
  | .fdot f x => some ⟨.fdot, f, .long x⟩
  | .shfl f x => some ⟨.shfl, f, .long x⟩
  | .vote f x => some ⟨.vote, f, .long x⟩
  | .matchLanes f => some ⟨.matchLanes, f, .short⟩
  | .matchLanesLong f x => some ⟨.matchLanes, f, .long x⟩
  | .redux f x => some ⟨.redux, f, .long x⟩
  | .elect f => some ⟨.elect, f, .short⟩
  | .electLong f x => some ⟨.elect, f, .long x⟩
  | .s2v f => some ⟨.s2v, f, .short⟩
  | .s2vLong f x => some ⟨.s2v, f, .long x⟩
  | .conv f => some ⟨.conv, f, .short⟩
  | .convLong f x => some ⟨.conv, f, .long x⟩
  | .ld f x => some ⟨.ld, f, .long x⟩
  | .st f x => some ⟨.st, f, .long x⟩
  | .lds f x => some ⟨.lds, f, .long x⟩
  | .sts f x => some ⟨.sts, f, .long x⟩
  | .atom f x => some ⟨.atom, f, .long x⟩
  | .atoms f x => some ⟨.atoms, f, .long x⟩
  | .red f x => some ⟨.red, f, .long x⟩
  | .stmc f x => some ⟨.stmc, f, .long x⟩
  | .pref f x => some ⟨.pref, f, .long x⟩
  | .discard f x => some ⟨.discard, f, .long x⟩
  | .flush f x => some ⟨.flush, f, .long x⟩
  | .fence f x => some ⟨.fence, f, .long x⟩
  | .lock f x => some ⟨.lock, f, .long x⟩
  | .unlock f x => some ⟨.unlock, f, .long x⟩
  | .bra f => some ⟨.bra, f, .short⟩
  | .braLong f v => some ⟨.bra, f, .imm v⟩
  | .brc f => some ⟨.brc, f, .short⟩
  | .brcLong f v => some ⟨.brc, f, .imm v⟩
  | .brx f x => some ⟨.brx, f, .long x⟩
  | .call f v => some ⟨.call, f, .imm v⟩
  | .ret f => some ⟨.ret, f, .short⟩
  | .retLong f x => some ⟨.ret, f, .long x⟩
  | .exit f => some ⟨.exit, f, .short⟩
  | .exitLong f x => some ⟨.exit, f, .long x⟩
  | .yield f => some ⟨.yield, f, .short⟩
  | .yieldLong f x => some ⟨.yield, f, .long x⟩
  | .nsleep f x => some ⟨.nsleep, f, .long x⟩
  | .bkpt f => some ⟨.bkpt, f, .short⟩
  | .bkptLong f x => some ⟨.bkpt, f, .long x⟩
  | .trapl f x => some ⟨.trapl, f, .long x⟩
  | .illegalWord _ => none
  | .snop f => some ⟨.snop, f, .short⟩
  | .sadd f => some ⟨.sadd, f, .short⟩
  | .saddLong f x => some ⟨.sadd, f, .long x⟩
  | .ssub f => some ⟨.ssub, f, .short⟩
  | .ssubLong f x => some ⟨.ssub, f, .long x⟩
  | .smul f => some ⟨.smul, f, .short⟩
  | .smulLong f x => some ⟨.smul, f, .long x⟩
  | .smad f x => some ⟨.smad, f, .long x⟩
  | .smin f => some ⟨.sminmax, f, .short⟩
  | .sminSmaxLong f x => some ⟨.sminmax, f, .long x⟩
  | .sand f => some ⟨.sand, f, .short⟩
  | .sandLong f x => some ⟨.sand, f, .long x⟩
  | .sor f => some ⟨.sor, f, .short⟩
  | .sorLong f x => some ⟨.sor, f, .long x⟩
  | .sxor f => some ⟨.sxor, f, .short⟩
  | .sxorLong f x => some ⟨.sxor, f, .long x⟩
  | .sshl f => some ⟨.sshl, f, .short⟩
  | .sshlLong f x => some ⟨.sshl, f, .long x⟩
  | .sshr f => some ⟨.sshr, f, .short⟩
  | .sshrLong f x => some ⟨.sshr, f, .long x⟩
  | .sset f x => some ⟨.sset, f, .long x⟩
  | .ssel f x => some ⟨.ssel, f, .long x⟩
  | .smov f => some ⟨.smov, f, .short⟩
  | .smovLong f x => some ⟨.smov, f, .long x⟩
  | .smovi f v => some ⟨.smovi, f, .imm v⟩
  | .saddi f v => some ⟨.saddi, f, .imm v⟩
  | .s2s f => some ⟨.s2s, f, .short⟩
  | .s2sLong f x => some ⟨.s2s, f, .long x⟩
  | .v2s f x => some ⟨.v2s, f, .long x⟩
  | .sbcast f x => some ⟨.sbcast, f, .long x⟩
  | .sbra f => some ⟨.sbra, f, .short⟩
  | .sbraLong f v => some ⟨.sbra, f, .imm v⟩
  | .sbrc f => some ⟨.sbrc, f, .short⟩
  | .sbrcLong f v => some ⟨.sbrc, f, .imm v⟩
  | .bar f x => some ⟨.bar, f, .long x⟩
  | .bufmk f x => some ⟨.bufmk, f, .long x⟩
  | .bufset f x => some ⟨.bufset, f, .long x⟩
  | .layout f x => some ⟨.layout, f, .long x⟩
  | .mma f x => some ⟨.mma, f, .long x⟩
  | .tzero f x => some ⟨.tzero, f, .long x⟩
  | .tld f x => some ⟨.tld, f, .long x⟩
  | .tst f x => some ⟨.tst, f, .long x⟩
  | .tred f x => some ⟨.tred, f, .long x⟩
  | .tscal f x => some ⟨.tscal, f, .long x⟩
  | .topk f x => some ⟨.topk, f, .long x⟩
  | .tmov f x => some ⟨.tmov, f, .long x⟩
  | .cpy f x => some ⟨.cpy, f, .long x⟩
  | .cpyo f x => some ⟨.cpyo, f, .long x⟩
  | .cpym f x => some ⟨.cpym, f, .long x⟩
  | .cpyc f x => some ⟨.cpyc, f, .long x⟩
  | .cpyr f x => some ⟨.cpyr, f, .long x⟩
  | .tlwait f x => some ⟨.tlwait, f, .long x⟩
  | .tlget f x => some ⟨.tlget, f, .long x⟩
  | .femark f x => some ⟨.femark, f, .long x⟩
  | .fefill f x => some ⟨.fefill, f, .long x⟩
  | .tbinit f x => some ⟨.tbinit, f, .long x⟩
  | .tbexp f x => some ⟨.tbexp, f, .long x⟩
  | .tbarv f x => some ⟨.tbarv, f, .long x⟩
  | .tbwait f x => some ⟨.tbwait, f, .long x⟩
  | .catchOp f => some ⟨.catchOp, f, .short⟩
  | .catchOpLong f x => some ⟨.catchOp, f, .long x⟩
  | .send f x => some ⟨.send, f, .long x⟩
  | .recvp f x => some ⟨.recvp, f, .long x⟩
  | .mprobe f x => some ⟨.mprobe, f, .long x⟩
  | .lrec f x => some ⟨.lrec, f, .long x⟩
  | .launch f x => some ⟨.launch, f, .long x⟩
  | .cwait f x => some ⟨.cwait, f, .long x⟩
  | .cget f x => some ⟨.cget, f, .long x⟩
  | .cancel f x => some ⟨.cancel, f, .long x⟩
  | .trap f x => some ⟨.trap, f, .long x⟩
  | .rte f => some ⟨.rte, f, .short⟩
  | .csrr f x => some ⟨.csrr, f, .long x⟩
  | .csrw f x => some ⟨.csrw, f, .long x⟩
  | .fmtset f x => some ⟨.fmtset, f, .long x⟩
  | .fmtget f x => some ⟨.fmtget, f, .long x⟩
  | .cpdset f x => some ⟨.cpdset, f, .long x⟩
  | .wpset f x => some ⟨.wpset, f, .long x⟩
  | .wpctl f x => some ⟨.wpctl, f, .long x⟩
  | .hread f x => some ⟨.hread, f, .long x⟩
  | .hwrite f x => some ⟨.hwrite, f, .long x⟩
  | .hstep f x => some ⟨.hstep, f, .long x⟩
  | .hres f x => some ⟨.hres, f, .long x⟩
  | .dumpq f => some ⟨.dumpq, f, .short⟩
  | .dumpqLong f x => some ⟨.dumpq, f, .long x⟩
  | .resultCommit _ _ => none
  | .gapElapsed _ => none
  | .passOverLimit _ => none
  | .sleepExpiry _ _ => none
  | .emptyTimeout _ => none
  | .barwaitExpiry _ => none
  | .promotion _ => none
  | .quantumExpiry _ => none
  | .sprinterRetire _ => none
  | .trapDelivery _ => none
  | .faultAnswer _ => none
  | .faultTimeout _ => none
  | .lockRequestArrival _ => none
  | .lockGrant _ _ => none
  | .copyBack _ _ => none
  | .releaseComplete _ _ => none
  | .remoteWriteApply _ _ => none
  | .clockNotice _ _ => none
  | .replicaFill _ _ => none
  | .l1SectorFill _ _ _ => none
  | .atomicAtHome _ _ => none
  | .tbUpdate _ => none
  | .discardAtSlice _ _ => none
  | .flushComplete _ _ => none
  | .commandDispatch _ => none
  | .copyLanding _ _ => none
  | .copyComplete _ => none
  | .tileCommandStart _ => none
  | .tileCommandComplete _ => none
  | .engineRequestTimeout _ _ => none
  | .xtNumberRequest _ => none
  | .messageArrival _ => none
  | .cpyrReduction _ _ => none
  | .catchRelease _ => none
  | .workgroupComplete _ _ => none
  | .launchComplete _ => none
  | .pendingLaunchDrain _ _ => none
  | .swapOut _ _ => none
  | .forcedReset _ _ => none
  | .liveDump _ _ => none
  | .dumpTimeout _ _ => none
  | .sampleTimerExpiry _ => none
  | .sliceWatchReport _ => none
  | .tailWrite _ _ => none
  | .qtbaseWrite _ => none
  | .qopen _ => none
  | .qclose _ => none
  | .jopen _ _ => none
  | .jclose _ => none
  | .jcancel _ => none
  | .ppolset _ _ => none
  | .dportAdmit _ => none
  | .dportDeny _ => none
  | .dportPlace _ _ => none
  | .dportDrain _ _ => none
  | .dportResume _ _ => none
  | .dportCancel _ _ _ => none
  | .dportWgdone _ _ => none
  | .dportLeveldone _ _ _ => none
  | .dbgen _ _ => none
  | .halt _ _ _ => none
  | .resume _ _ _ => none
  | .step _ _ _ => none
  | .read _ _ _ _ => none
  | .write _ _ _ _ _ => none
  | .ucload => none
  | .tctx => none
  | .inval => none
  | .invalidateComplete => none
  | .keyset => none
  | .keyclr => none
  | .fwdset => none
  | .expset => none
  | .route => none
  | .devid => none
  | .stream => none
  | .vlogrd => none
  | .fwupd => none
  | .wreset => none
  | .service => none
  | .drain => none
  | .spdm => none
  | .hostIrq _ => none
  | .wrfreeze _ _ => none
  | .registerWrite _ _ => none
  | .hostWrite _ _ => none
  | .hostRead _ _ => none
  | .hostAtomic _ _ _ _ => none
  | .hostCompletion _ _ _ => none
  | .hostCompletionTimeout _ => none
  | .peerRequest _ _ _ _ _ _ => none
  | .releaseFence _ => none
  | .fenceAck _ _ _ => none
  | .flitCrcError _ => none
  | .linkTrained _ _ _ _ => none
  | .linkDown _ => none
  | .eccCorrected _ => none
  | .uncorrectableError _ _ _ => none
  | .powerAlarm _ => none
  | .powerAlarmClear _ => none
  | .thermalLimit _ _ => none
  | .thermalShutdown _ => none
  | .clusterPowerGate _ => none
  | .traceDrainTimeout _ => none
  | .coldReset => none
  | .errorResponse _ => none
  | .traceBufferDrain _ => none
  | .clusterPowerUp _ => none
  | .hostLinkError _ => none
  | .replicaDrop _ _ => none

/-- The instruction of an opcode in the short form, where the opcode has it. -/
def mkShort : Op → Base → Option Instr
  | .nop, f => some (.nop f)
  | .iadd, f => some (.iadd f)
  | .isub, f => some (.isub f)
  | .imul, f => some (.imul f)
  | .imad, _ => none
  | .iminmax, f => some (.imin f)
  | .iabs, f => some (.iabs f)
  | .and, f => some (.and f)
  | .or, f => some (.or f)
  | .xor, f => some (.xor f)
  | .andn, f => some (.andn f)
  | .shl, f => some (.shl f)
  | .shr, f => some (.shr f)
  | .shf, _ => none
  | .popc, f => some (.popc f)
  | .clz, f => some (.clz f)
  | .brev, f => some (.brev f)
  | .bfx, _ => none
  | .bfi, _ => none
  | .iset, _ => none
  | .sel, _ => none
  | .plop, _ => none
  | .mov, f => some (.mov f)
  | .movi, _ => none
  | .iaddi, _ => none
  | .fadd, f => some (.fadd f)
  | .fmul, f => some (.fmul f)
  | .ffma, _ => none
  | .fminmax, f => some (.fmin f)
  | .fset, _ => none
  | .frcp, f => some (.frcp f)
  | .frsq, f => some (.frsq f)
  | .fsqrt, f => some (.fsqrt f)
  | .fexp2, f => some (.fexp2 f)
  | .flog2, f => some (.flog2 f)
  | .fsin, f => some (.fsin f)
  | .fcos, f => some (.fcos f)
  | .ftanh, f => some (.ftanh f)
  | .cvt, _ => none
  | .frnd, f => some (.frnd f)
  | .tagset, _ => none
  | .tagget, f => some (.tagget f)
  | .qblk, _ => none
  | .fdot, _ => none
  | .shfl, _ => none
  | .vote, _ => none
  | .matchLanes, f => some (.matchLanes f)
  | .redux, _ => none
  | .elect, f => some (.elect f)
  | .s2v, f => some (.s2v f)
  | .conv, f => some (.conv f)
  | .ld, _ => none
  | .st, _ => none
  | .lds, _ => none
  | .sts, _ => none
  | .atom, _ => none
  | .atoms, _ => none
  | .red, _ => none
  | .stmc, _ => none
  | .pref, _ => none
  | .discard, _ => none
  | .flush, _ => none
  | .fence, _ => none
  | .lock, _ => none
  | .unlock, _ => none
  | .bra, f => some (.bra f)
  | .brc, f => some (.brc f)
  | .brx, _ => none
  | .call, _ => none
  | .ret, f => some (.ret f)
  | .exit, f => some (.exit f)
  | .yield, f => some (.yield f)
  | .nsleep, _ => none
  | .bkpt, f => some (.bkpt f)
  | .trapl, _ => none
  | .snop, f => some (.snop f)
  | .sadd, f => some (.sadd f)
  | .ssub, f => some (.ssub f)
  | .smul, f => some (.smul f)
  | .smad, _ => none
  | .sminmax, f => some (.smin f)
  | .sand, f => some (.sand f)
  | .sor, f => some (.sor f)
  | .sxor, f => some (.sxor f)
  | .sshl, f => some (.sshl f)
  | .sshr, f => some (.sshr f)
  | .sset, _ => none
  | .ssel, _ => none
  | .smov, f => some (.smov f)
  | .smovi, _ => none
  | .saddi, _ => none
  | .s2s, f => some (.s2s f)
  | .v2s, _ => none
  | .sbcast, _ => none
  | .sbra, f => some (.sbra f)
  | .sbrc, f => some (.sbrc f)
  | .bar, _ => none
  | .bufmk, _ => none
  | .bufset, _ => none
  | .layout, _ => none
  | .mma, _ => none
  | .tzero, _ => none
  | .tld, _ => none
  | .tst, _ => none
  | .tred, _ => none
  | .tscal, _ => none
  | .topk, _ => none
  | .tmov, _ => none
  | .cpy, _ => none
  | .cpyo, _ => none
  | .cpym, _ => none
  | .cpyc, _ => none
  | .cpyr, _ => none
  | .tlwait, _ => none
  | .tlget, _ => none
  | .femark, _ => none
  | .fefill, _ => none
  | .tbinit, _ => none
  | .tbexp, _ => none
  | .tbarv, _ => none
  | .tbwait, _ => none
  | .catchOp, f => some (.catchOp f)
  | .send, _ => none
  | .recvp, _ => none
  | .mprobe, _ => none
  | .lrec, _ => none
  | .launch, _ => none
  | .cwait, _ => none
  | .cget, _ => none
  | .cancel, _ => none
  | .trap, _ => none
  | .rte, f => some (.rte f)
  | .csrr, _ => none
  | .csrw, _ => none
  | .fmtset, _ => none
  | .fmtget, _ => none
  | .cpdset, _ => none
  | .wpset, _ => none
  | .wpctl, _ => none
  | .hread, _ => none
  | .hwrite, _ => none
  | .hstep, _ => none
  | .hres, _ => none
  | .dumpq, f => some (.dumpq f)

/-- The instruction of an opcode in the long form, where the opcode has it. -/
def mkLong : Op → Base → Ext → Option Instr
  | .nop, _, _ => none
  | .iadd, f, x => some (.iaddLong f x)
  | .isub, f, x => some (.isubLong f x)
  | .imul, f, x => some (.imulLong f x)
  | .imad, f, x => some (.imad f x)
  | .iminmax, f, x => some (.iminImaxLong f x)
  | .iabs, f, x => some (.iabsLong f x)
  | .and, f, x => some (.andLong f x)
  | .or, f, x => some (.orLong f x)
  | .xor, f, x => some (.xorLong f x)
  | .andn, f, x => some (.andnLong f x)
  | .shl, f, x => some (.shlLong f x)
  | .shr, f, x => some (.shrLong f x)
  | .shf, f, x => some (.shf f x)
  | .popc, f, x => some (.popcLong f x)
  | .clz, f, x => some (.clzLong f x)
  | .brev, f, x => some (.brevLong f x)
  | .bfx, f, x => some (.bfx f x)
  | .bfi, f, x => some (.bfi f x)
  | .iset, f, x => some (.iset f x)
  | .sel, f, x => some (.sel f x)
  | .plop, f, x => some (.plop f x)
  | .mov, f, x => some (.movLong f x)
  | .movi, _, _ => none
  | .iaddi, _, _ => none
  | .fadd, f, x => some (.faddLong f x)
  | .fmul, f, x => some (.fmulLong f x)
  | .ffma, f, x => some (.ffma f x)
  | .fminmax, f, x => some (.fminFmaxLong f x)
  | .fset, f, x => some (.fset f x)
  | .frcp, f, x => some (.frcpLong f x)
  | .frsq, f, x => some (.frsqLong f x)
  | .fsqrt, f, x => some (.fsqrtLong f x)
  | .fexp2, f, x => some (.fexp2Long f x)
  | .flog2, f, x => some (.flog2Long f x)
  | .fsin, f, x => some (.fsinLong f x)
  | .fcos, f, x => some (.fcosLong f x)
  | .ftanh, f, x => some (.ftanhLong f x)
  | .cvt, f, x => some (.cvt f x)
  | .frnd, f, x => some (.frndLong f x)
  | .tagset, f, x => some (.tagset f x)
  | .tagget, f, x => some (.taggetLong f x)
  | .qblk, f, x => some (.qblk f x)
  | .fdot, f, x => some (.fdot f x)
  | .shfl, f, x => some (.shfl f x)
  | .vote, f, x => some (.vote f x)
  | .matchLanes, f, x => some (.matchLanesLong f x)
  | .redux, f, x => some (.redux f x)
  | .elect, f, x => some (.electLong f x)
  | .s2v, f, x => some (.s2vLong f x)
  | .conv, f, x => some (.convLong f x)
  | .ld, f, x => some (.ld f x)
  | .st, f, x => some (.st f x)
  | .lds, f, x => some (.lds f x)
  | .sts, f, x => some (.sts f x)
  | .atom, f, x => some (.atom f x)
  | .atoms, f, x => some (.atoms f x)
  | .red, f, x => some (.red f x)
  | .stmc, f, x => some (.stmc f x)
  | .pref, f, x => some (.pref f x)
  | .discard, f, x => some (.discard f x)
  | .flush, f, x => some (.flush f x)
  | .fence, f, x => some (.fence f x)
  | .lock, f, x => some (.lock f x)
  | .unlock, f, x => some (.unlock f x)
  | .bra, _, _ => none
  | .brc, _, _ => none
  | .brx, f, x => some (.brx f x)
  | .call, _, _ => none
  | .ret, f, x => some (.retLong f x)
  | .exit, f, x => some (.exitLong f x)
  | .yield, f, x => some (.yieldLong f x)
  | .nsleep, f, x => some (.nsleep f x)
  | .bkpt, f, x => some (.bkptLong f x)
  | .trapl, f, x => some (.trapl f x)
  | .snop, _, _ => none
  | .sadd, f, x => some (.saddLong f x)
  | .ssub, f, x => some (.ssubLong f x)
  | .smul, f, x => some (.smulLong f x)
  | .smad, f, x => some (.smad f x)
  | .sminmax, f, x => some (.sminSmaxLong f x)
  | .sand, f, x => some (.sandLong f x)
  | .sor, f, x => some (.sorLong f x)
  | .sxor, f, x => some (.sxorLong f x)
  | .sshl, f, x => some (.sshlLong f x)
  | .sshr, f, x => some (.sshrLong f x)
  | .sset, f, x => some (.sset f x)
  | .ssel, f, x => some (.ssel f x)
  | .smov, f, x => some (.smovLong f x)
  | .smovi, _, _ => none
  | .saddi, _, _ => none
  | .s2s, f, x => some (.s2sLong f x)
  | .v2s, f, x => some (.v2s f x)
  | .sbcast, f, x => some (.sbcast f x)
  | .sbra, _, _ => none
  | .sbrc, _, _ => none
  | .bar, f, x => some (.bar f x)
  | .bufmk, f, x => some (.bufmk f x)
  | .bufset, f, x => some (.bufset f x)
  | .layout, f, x => some (.layout f x)
  | .mma, f, x => some (.mma f x)
  | .tzero, f, x => some (.tzero f x)
  | .tld, f, x => some (.tld f x)
  | .tst, f, x => some (.tst f x)
  | .tred, f, x => some (.tred f x)
  | .tscal, f, x => some (.tscal f x)
  | .topk, f, x => some (.topk f x)
  | .tmov, f, x => some (.tmov f x)
  | .cpy, f, x => some (.cpy f x)
  | .cpyo, f, x => some (.cpyo f x)
  | .cpym, f, x => some (.cpym f x)
  | .cpyc, f, x => some (.cpyc f x)
  | .cpyr, f, x => some (.cpyr f x)
  | .tlwait, f, x => some (.tlwait f x)
  | .tlget, f, x => some (.tlget f x)
  | .femark, f, x => some (.femark f x)
  | .fefill, f, x => some (.fefill f x)
  | .tbinit, f, x => some (.tbinit f x)
  | .tbexp, f, x => some (.tbexp f x)
  | .tbarv, f, x => some (.tbarv f x)
  | .tbwait, f, x => some (.tbwait f x)
  | .catchOp, f, x => some (.catchOpLong f x)
  | .send, f, x => some (.send f x)
  | .recvp, f, x => some (.recvp f x)
  | .mprobe, f, x => some (.mprobe f x)
  | .lrec, f, x => some (.lrec f x)
  | .launch, f, x => some (.launch f x)
  | .cwait, f, x => some (.cwait f x)
  | .cget, f, x => some (.cget f x)
  | .cancel, f, x => some (.cancel f x)
  | .trap, f, x => some (.trap f x)
  | .rte, _, _ => none
  | .csrr, f, x => some (.csrr f x)
  | .csrw, f, x => some (.csrw f x)
  | .fmtset, f, x => some (.fmtset f x)
  | .fmtget, f, x => some (.fmtget f x)
  | .cpdset, f, x => some (.cpdset f x)
  | .wpset, f, x => some (.wpset f x)
  | .wpctl, f, x => some (.wpctl f x)
  | .hread, f, x => some (.hread f x)
  | .hwrite, f, x => some (.hwrite f x)
  | .hstep, f, x => some (.hstep f x)
  | .hres, f, x => some (.hres f x)
  | .dumpq, f, x => some (.dumpqLong f x)

/-- The instruction of an opcode in the imm form, where the opcode has it. -/
def mkImm : Op → Base → Word → Option Instr
  | .nop, _, _ => none
  | .iadd, _, _ => none
  | .isub, _, _ => none
  | .imul, _, _ => none
  | .imad, _, _ => none
  | .iminmax, _, _ => none
  | .iabs, _, _ => none
  | .and, _, _ => none
  | .or, _, _ => none
  | .xor, _, _ => none
  | .andn, _, _ => none
  | .shl, _, _ => none
  | .shr, _, _ => none
  | .shf, _, _ => none
  | .popc, _, _ => none
  | .clz, _, _ => none
  | .brev, _, _ => none
  | .bfx, _, _ => none
  | .bfi, _, _ => none
  | .iset, _, _ => none
  | .sel, _, _ => none
  | .plop, _, _ => none
  | .mov, _, _ => none
  | .movi, f, v => some (.movi f v)
  | .iaddi, f, v => some (.iaddi f v)
  | .fadd, _, _ => none
  | .fmul, _, _ => none
  | .ffma, _, _ => none
  | .fminmax, _, _ => none
  | .fset, _, _ => none
  | .frcp, _, _ => none
  | .frsq, _, _ => none
  | .fsqrt, _, _ => none
  | .fexp2, _, _ => none
  | .flog2, _, _ => none
  | .fsin, _, _ => none
  | .fcos, _, _ => none
  | .ftanh, _, _ => none
  | .cvt, _, _ => none
  | .frnd, _, _ => none
  | .tagset, _, _ => none
  | .tagget, _, _ => none
  | .qblk, _, _ => none
  | .fdot, _, _ => none
  | .shfl, _, _ => none
  | .vote, _, _ => none
  | .matchLanes, _, _ => none
  | .redux, _, _ => none
  | .elect, _, _ => none
  | .s2v, _, _ => none
  | .conv, _, _ => none
  | .ld, _, _ => none
  | .st, _, _ => none
  | .lds, _, _ => none
  | .sts, _, _ => none
  | .atom, _, _ => none
  | .atoms, _, _ => none
  | .red, _, _ => none
  | .stmc, _, _ => none
  | .pref, _, _ => none
  | .discard, _, _ => none
  | .flush, _, _ => none
  | .fence, _, _ => none
  | .lock, _, _ => none
  | .unlock, _, _ => none
  | .bra, f, v => some (.braLong f v)
  | .brc, f, v => some (.brcLong f v)
  | .brx, _, _ => none
  | .call, f, v => some (.call f v)
  | .ret, _, _ => none
  | .exit, _, _ => none
  | .yield, _, _ => none
  | .nsleep, _, _ => none
  | .bkpt, _, _ => none
  | .trapl, _, _ => none
  | .snop, _, _ => none
  | .sadd, _, _ => none
  | .ssub, _, _ => none
  | .smul, _, _ => none
  | .smad, _, _ => none
  | .sminmax, _, _ => none
  | .sand, _, _ => none
  | .sor, _, _ => none
  | .sxor, _, _ => none
  | .sshl, _, _ => none
  | .sshr, _, _ => none
  | .sset, _, _ => none
  | .ssel, _, _ => none
  | .smov, _, _ => none
  | .smovi, f, v => some (.smovi f v)
  | .saddi, f, v => some (.saddi f v)
  | .s2s, _, _ => none
  | .v2s, _, _ => none
  | .sbcast, _, _ => none
  | .sbra, f, v => some (.sbraLong f v)
  | .sbrc, f, v => some (.sbrcLong f v)
  | .bar, _, _ => none
  | .bufmk, _, _ => none
  | .bufset, _, _ => none
  | .layout, _, _ => none
  | .mma, _, _ => none
  | .tzero, _, _ => none
  | .tld, _, _ => none
  | .tst, _, _ => none
  | .tred, _, _ => none
  | .tscal, _, _ => none
  | .topk, _, _ => none
  | .tmov, _, _ => none
  | .cpy, _, _ => none
  | .cpyo, _, _ => none
  | .cpym, _, _ => none
  | .cpyc, _, _ => none
  | .cpyr, _, _ => none
  | .tlwait, _, _ => none
  | .tlget, _, _ => none
  | .femark, _, _ => none
  | .fefill, _, _ => none
  | .tbinit, _, _ => none
  | .tbexp, _, _ => none
  | .tbarv, _, _ => none
  | .tbwait, _, _ => none
  | .catchOp, _, _ => none
  | .send, _, _ => none
  | .recvp, _, _ => none
  | .mprobe, _, _ => none
  | .lrec, _, _ => none
  | .launch, _, _ => none
  | .cwait, _, _ => none
  | .cget, _, _ => none
  | .cancel, _, _ => none
  | .trap, _, _ => none
  | .rte, _, _ => none
  | .csrr, _, _ => none
  | .csrw, _, _ => none
  | .fmtset, _, _ => none
  | .fmtget, _, _ => none
  | .cpdset, _, _ => none
  | .wpset, _, _ => none
  | .wpctl, _, _ => none
  | .hread, _, _ => none
  | .hwrite, _, _ => none
  | .hstep, _, _ => none
  | .hres, _, _ => none
  | .dumpq, _, _ => none

/-- Bytes of an instruction, R41; 4 for an illegal word. -/
def sizeOf (p : Parts) : Nat :=
  match p.form with
  | .short => 4
  | _ => 8

/-- The extension fields an instruction acts under, R44. -/
def Parts.ext (p : Parts) : Ext :=
  match p.form with
  | .long x => x
  | _ => Ext.absent

def Parts.isImm (p : Parts) : Bool :=
  match p.form with
  | .imm _ => true
  | _ => false

/-- The shape of an instruction in its form. -/
def Parts.shape (p : Parts) : Shape :=
  shapeOf p.op p.base p.ext p.isImm

end Sys2Proof.Machine
end

