-- ==== Sys2Proof/WellFormed.lean ====
section
/-! DEFINITION. Well-formed instructions: those that some word of the part decodes to (R44 to R47, R55). -/

namespace Sys2Proof

open Machine

/-- The form is one the opcode's extension class allows, R44. -/
def formOk (p : Parts) : Bool :=
  match opClass p.op, p.form with
  | .n, .short => true
  | .e, .short => true
  | .e, .long _ => true
  | .x, .long _ => true
  | .i, .imm _ => true
  | .b, .short => true
  | .b, .imm _ => true
  | _, _ => false

/-- The static checks of R55: fields, widths, modifiers, alignment. -/
def partsOk (p : Parts) : Bool :=
  formOk p && fieldsOk p.op p.base p.ext p.isImm && alignmentOk p.op p.base p.ext p.isImm

/-- 128 × SET + OP of a base word. -/
def setOpOf (w : Word) : Nat :=
  128 * bitNat w.toNat 31 + bitsNat w.toNat 26 20

/-- Well-formedness. An illegal word is one whose opcode the maps reserve, or 0x7F (R55, R56). An event is no word
of a program and is never well formed. -/
def wf (i : Instr) : Bool :=
  match partsOf i with
  | some p => partsOk p
  | none =>
    match i with
    | .illegalWord w => (opOf (setOpOf w)).isNone
    | _ => false

end Sys2Proof
end

