-- ==== Sys2Proof/Decode.lean ====
section
/-! DEFINITION. Decoding of instruction words in the order of R55, total and rejecting by name, and the encoder, both
written from the layouts of R40 and R43. -/

namespace Sys2Proof

open Machine

/-- Why a word is no instruction: the cause it traps with, R55. -/
inductive DecodeError where
  | illField
  | illAlign
  deriving DecidableEq, Repr

/-- The fields of a base word, R40. -/
def baseFields (w : Word) : Base :=
  { k := bitNat w.toNat 30 == 1, y := bitNat w.toNat 29 == 1, gap := BitVec.ofNat 2 (w.toNat / 2 ^ 27),
    d := BitVec.ofNat 6 (w.toNat / 2 ^ 14), a := BitVec.ofNat 6 (w.toNat / 2 ^ 8),
    b := BitVec.ofNat 6 (w.toNat / 2 ^ 2), t := bitNat w.toNat 1 == 1 }

/-- The fields of an E-form extension word, R43. -/
def extFields (w : Word) : Ext :=
  { c := BitVec.ofNat 6 (w.toNat / 2 ^ 26), n := bitNat w.toNat 25 == 1, gp := BitVec.ofNat 3 (w.toNat / 2 ^ 22),
    wd := BitVec.ofNat 2 (w.toNat / 2 ^ 20), wa := BitVec.ofNat 2 (w.toNat / 2 ^ 18),
    wb := BitVec.ofNat 2 (w.toNat / 2 ^ 16), wc := BitVec.ofNat 2 (w.toNat / 2 ^ 14), m := BitVec.ofNat 14 w.toNat }

/-- The L bit of a base word, R41. -/
def hasExt (w : Word) : Bool :=
  bitNat w.toNat 0 == 1

/-- Whether decoding fetches an extension word, R55: no reserved opcode, no class N, and L set. -/
def needsExt (w : Word) : Bool :=
  match opOf (setOpOf w) with
  | none => false
  | some op => hasExt w && opClass op != .n

/-- The instruction of an opcode, its base fields and its extension word, where the class allows the form. -/
def formOf (op : Op) (f : Base) (x : Option Word) : Option Instr :=
  match opClass op, x with
  | .n, none => mkShort op f
  | .e, none => mkShort op f
  | .e, some v => mkLong op f (extFields v)
  | .x, some v => mkLong op f (extFields v)
  | .i, some v => mkImm op f v
  | .b, none => mkShort op f
  | .b, some v => mkImm op f v
  | _, _ => none

/-- Decode a base word and, where L asks for one, its extension word, in the order of R55. -/
def decodeWords (w x : Word) : Except DecodeError Instr :=
  match opOf (setOpOf w) with
  | none => .ok (.illegalWord w)
  | some op =>
    match formOf op (baseFields w) (if hasExt w then some x else none) with
    | none => .error .illField
    | some i =>
      match partsOf i with
      | none => .error .illField
      | some p =>
        if !fieldsOk p.op p.base p.ext p.isImm then .error .illField
        else if !alignmentOk p.op p.base p.ext p.isImm then .error .illAlign
        else .ok i

/-- Decode the instruction at the head of a list of bytes, little-endian words (R5, R40, R41): the instruction and
the bytes after it. Missing bytes read as none: the answer is then illField. -/
def decode (bs : List Byte) : Except DecodeError (Instr × List Byte) :=
  if bs.length < 4 then .error .illField
  else
    let w := leWord (bs.take 4)
    if needsExt w && decide (bs.length < 8) then .error .illField
    else
      match decodeWords w (leWord ((bs.drop 4).take 4)) with
      | .error e => .error e
      | .ok i => .ok (i, bs.drop (if needsExt w then 8 else 4))

/-! ### Encoding, from the same layouts -/

/-- A base word of its fields, R40. -/
def encodeBase (op : Op) (f : Base) (ext : Bool) : Word :=
  word ((opCode op / 128) * 2 ^ 31 + f.k.toNat * 2 ^ 30 + f.y.toNat * 2 ^ 29 + f.gap.toNat * 2 ^ 27
    + (opCode op % 128) * 2 ^ 20 + f.d.toNat * 2 ^ 14 + f.a.toNat * 2 ^ 8 + f.b.toNat * 2 ^ 2 + f.t.toNat * 2
    + ext.toNat)

/-- An E-form extension word of its fields, R43. -/
def encodeExt (x : Ext) : Word :=
  word (x.c.toNat * 2 ^ 26 + x.n.toNat * 2 ^ 25 + x.gp.toNat * 2 ^ 22 + x.wd.toNat * 2 ^ 20 + x.wa.toNat * 2 ^ 18
    + x.wb.toNat * 2 ^ 16 + x.wc.toNat * 2 ^ 14 + x.m.toNat)

/-- The words of an instruction: one or two. An event has none. -/
def encode (i : Instr) : List Word :=
  match partsOf i with
  | some p =>
    match p.form with
    | .short => [encodeBase p.op p.base false]
    | .long x => [encodeBase p.op p.base true, encodeExt x]
    | .imm v => [encodeBase p.op p.base true, v]
  | none =>
    match i with
    | .illegalWord w => [w]
    | _ => []

/-- Decode the words of an encoding. -/
def decodeList : List Word → Except DecodeError Instr
  | [] => .error .illField
  | [w] => if needsExt w then .error .illField else decodeWords w 0
  | w :: x :: _ => decodeWords w x

/-- The instruction the decoder reads from a word numbered as the opcode table numbers it: the base word is bits
31 to 0 and the extension word bits 63 to 32; every bit above nbits is 0. -/
def decodeTableWord (nbits w : Nat) : Option Instr :=
  let w := w % 2 ^ nbits
  match decode (leBytes 8 w) with
  | .ok (i, _) => some i
  | .error _ => none

end Sys2Proof
end

