-- ==== Sys2Proof/Config.lean ====
section
/-! DEFINITION. What one implementation fixes and the spec leaves open, and the free values: constants without a
body, so that nothing can be proved of them (log entries 1 and 4). -/

namespace Sys2Proof.Config

/-- A bit the spec leaves open, applied to the free-value counter of the state, log entry 1. -/
opaque freeBit : Nat → Bool

/-- A 32-bit value the spec leaves open, applied to the free-value counter, log entry 1. -/
opaque freeWord : Nat → Word

/-- What a byte of device memory reads under another key than its line was written under (R404): applied to the key pair of the write,
that of the read (none: no key), the address, and the bytes of the line, log entry 34. -/
opaque otherKey : Option Nat → Option Nat → Nat → List Byte → Byte

/-- The key pair that an SPDM secured message carries (R402, R404), applied to the number of messages of the session before it; none
where the message carries none, log entry 34. -/
opaque keyPair : Nat → List Byte → Option Nat

/-- The package serial of the SERIAL register (R231), log entry 4. -/
opaque serial : DWord

/-- The stepping byte of PARTID (R231), log entry 4. -/
opaque stepping : Byte

/-- The version of a management firmware image that MCVER reads (R400); none is the image as delivered, log entry 4. -/
opaque mcver : Option (List Byte) → Word

/-- The management firmware image in package flash as delivered (R403), log entry 4. -/
opaque shippedImage : List Byte

/-- The digest fused at manufacture (R403), log entry 4. -/
opaque fusedDigest : List Byte

/-- The controller's answer to an SPDM message (R402, R404), applied to the free-value counter, log entry 1. -/
opaque spdmReply : Nat → List Byte → List Byte

/-- A secured session is open after an SPDM message, log entry 1. -/
opaque spdmOpen : Nat → List Byte → Bool

end Sys2Proof.Config
end

