-- ==== Sys2Proof/Machine/Flags.lean ====
section
/-! DEFINITION. The status flags of FSTAT and their enabled traps (R96, R97), and their FEXC view (R239). -/

namespace Sys2Proof.Machine

/-- Status flags in the bit order of FSTAT, R96. -/
abbrev Flags := BitVec 8

def flagNV : Flags := 0x01
def flagDZ : Flags := 0x02
def flagOF : Flags := 0x04
def flagUF : Flags := 0x08
def flagNX : Flags := 0x10
def flagSU : Flags := 0x20
def flagST : Flags := 0x40
def flagNP : Flags := 0x80

/-- The flags of several results together. -/
def orFlags (l : List Flags) : Flags :=
  l.foldl (· ||| ·) 0

/-- FEXC bits of raised flags: NaN produced, overflow, underflow, inexact, SCALE_UF, saturation (R239). -/
def fexcOf (f : Flags) : Nat :=
  let b (i : Nat) : Nat := bitNat f.toNat i
  b 7 + 2 * b 2 + 4 * b 3 + 8 * b 4 + 16 * b 5 + 32 * b 6

/-- Enabled causes of raised flags, in the order of R97: codes 12 to 15 of R280. -/
def enabledTrap (ften : BitVec 4) (fl : Flags) : Option Nat :=
  let e (i : Nat) : Bool := ften.toNat.testBit i
  let b (i : Nat) : Bool := fl.toNat.testBit i
  if e 0 && b 0 then some 12
  else if e 1 && b 1 then some 13
  else if e 2 && b 2 then some 14
  else if e 3 && (b 3 || b 5) then some 15
  else none

end Sys2Proof.Machine
end

