-- ==== Sys2Proof/Machine/Number.lean ====
section
/-! DEFINITION. Exact numbers, the format entries of chapter 3, decoding of element codes (R81), the one rounding
into a destination entry (R83 to R85). -/

namespace Sys2Proof.Machine

/-- A decoded value: NaN, an infinity, or an exact number. `num neg m e sticky` is the number of magnitude
(m + δ) × 2^e, where δ is 0, or, when `sticky` holds, some value strictly between 0 and 1: enough to round it. -/
inductive Val where
  | nan
  | inf (neg : Bool)
  | num (neg : Bool) (m : Nat) (e : Int) (sticky : Bool)
  deriving DecidableEq, Repr

def Val.zero (neg : Bool) : Val :=
  .num neg 0 0 false

/-- An exact integer. -/
def Val.ofInt (v : Int) : Val :=
  .num (decide (v < 0)) v.natAbs 0 false

def Val.isNan : Val → Bool
  | .nan => true
  | _ => false

def Val.isInf : Val → Bool
  | .inf _ => true
  | _ => false

def Val.isZero : Val → Bool
  | .num _ m _ s => m == 0 && !s
  | _ => false

def Val.neg : Val → Bool
  | .nan => false
  | .inf n => n
  | .num n _ _ _ => n

/-- Sign change, NaN included (a NaN carries no sign here, every NaN produced being canonical, R81). -/
def Val.negate : Val → Val
  | .nan => .nan
  | .inf n => .inf (!n)
  | .num n m e s => .num (!n) m e s

/-- Magnitude. -/
def Val.abs : Val → Val
  | .nan => .nan
  | .inf _ => .inf false
  | .num _ m e s => .num false m e s

/-- floor(log2 |x|) of a nonzero exact number. -/
def expOf (m : Nat) (e : Int) : Int :=
  (m.log2 : Int) + e

/-- The magnitude of num / den × 2^e with at least 64 significant bits, remainder told by `sticky`. -/
def Val.ofRatio (neg : Bool) (num den : Nat) (e : Int) : Val :=
  if den = 0 then .inf neg else
  let k := 66 + den.log2
  .num neg (num * 2 ^ k / den) (e - k) (num * 2 ^ k % den != 0)

/-- The integer of a dyadic m × 2^e on the grid 2^g, for g at most e. -/
def scaledTo (neg : Bool) (m : Nat) (e g : Int) : Int :=
  let v : Int := (m * 2 ^ (e - g).toNat : Nat)
  if neg then -v else v

/-- Comparison of two numbers that are not NaN: negative, zero or positive as a − b is. -/
def Val.cmp : Val → Val → Int
  | .inf a, .inf b => if a = b then 0 else if a then -1 else 1
  | .inf a, _ => if a then -1 else 1
  | _, .inf b => if b then 1 else -1
  | .num n m e _, .num n' m' e' _ =>
    let g := min e e'
    let d := scaledTo n m e g - scaledTo n' m' e' g
    if d < 0 then -1 else if d = 0 then 0 else 1
  | _, _ => 0

/-! ### Format entries -/

/-- The four words of a format entry, R76 and R77. -/
structure Entry where
  w0 : Word
  w1 : Word
  w2 : Word
  w3 : Word
  deriving DecidableEq, Repr

def Entry.empty : Entry :=
  ⟨0, 0, 0, 0⟩

def Entry.valid (f : Entry) : Bool :=
  field f.w0 31 31 == 1

def Entry.rnd (f : Entry) : Nat := field f.w0 30 28
def Entry.spec (f : Entry) : Nat := field f.w0 27 25
def Entry.epw (f : Entry) : Nat := field f.w0 24 21
def Entry.sbits (f : Entry) : Nat := field f.w0 20 15
def Entry.fw (f : Entry) : Nat := field f.w0 14 10
def Entry.ew (f : Entry) : Nat := field f.w0 9 6
def Entry.sign (f : Entry) : Nat := field f.w0 5 4
def Entry.kind (f : Entry) : Nat := field f.w0 3 0
def Entry.locked (f : Entry) : Bool := field f.w1 31 31 == 1
def Entry.gen (f : Entry) : Nat := field f.w1 30 28
def Entry.cpd (f : Entry) : Nat := field f.w1 27 24
def Entry.scale (f : Entry) : Nat := field f.w1 23 21
def Entry.blk (f : Entry) : Nat := field f.w1 20 16

/-- Exponent bias, two's complement, R77. -/
def Entry.bias (f : Entry) : Int :=
  toSigned 16 (field f.w1 15 0)

def kindInteger : Nat := 1
def kindFloat : Nat := 2
def kindBlock : Nat := 3
def kindRaw : Nat := 4

/-- The element width in a register: SBITS, or 64 for EPW = 15 (R104). -/
def Entry.width (f : Entry) : Nat :=
  if f.epw = 15 then 64 else f.sbits

/-- Largest magnitude code of a finite value of a float entry: exponent and fraction bits together, R81. -/
def Entry.maxCode (f : Entry) : Nat :=
  match f.spec with
  | 1 => 2 ^ (f.ew + f.fw) - 2
  | 2 => 2 ^ (f.ew + f.fw) - 1
  | _ => (2 ^ f.ew - 1) * 2 ^ f.fw - 1

/-- The sign bit of a code of a float entry, in place. -/
def Entry.signCode (f : Entry) (neg : Bool) : Nat :=
  if neg && f.sign != 0 then 2 ^ (f.ew + f.fw) else 0

/-- Canonical NaN of a float entry, R81. An entry of SPEC 0 or 3 without a fraction bit has no such code; the model delivers e all
ones there, the code of +infinity: DESIGN CHOICE, log entry 18. -/
def Entry.nanCode (f : Entry) : Nat :=
  match f.spec with
  | 1 => 2 ^ (f.ew + f.fw) - 1
  | _ => (2 ^ f.ew - 1) * 2 ^ f.fw + (if f.fw = 0 then 0 else 2 ^ (f.fw - 1))

def Entry.infCode (f : Entry) (neg : Bool) : Nat :=
  f.signCode neg + (2 ^ f.ew - 1) * 2 ^ f.fw

/-- Value of an element code of an integer, float or MX element entry, R81. -/
def decodeCode (f : Entry) (code : Nat) : Val :=
  if f.kind = kindInteger then
    if f.sign = 1 then .ofInt (toSigned f.width code) else .ofInt (code % 2 ^ f.width : Nat)
  else
    let mag := code % 2 ^ (f.ew + f.fw)
    let neg := f.sign != 0 && code / 2 ^ (f.ew + f.fw) % 2 == 1
    let e := mag / 2 ^ f.fw
    let fr := mag % 2 ^ f.fw
    let ones := e == 2 ^ f.ew - 1
    if (f.spec = 0 || f.spec = 3) && ones then (if fr = 0 then .inf neg else .nan)
    else if f.spec = 1 && ones && fr == 2 ^ f.fw - 1 then .nan
    else if e = 0 then .num neg fr (1 - f.bias - f.fw) false
    else .num neg (2 ^ f.fw + fr) (e - f.bias - f.fw) false

/-! ### Rounding -/

/-- m / 2^s, rounded in mode `mode` (codes of R83), a sticky remainder below the last bit of m. The code of a result q is q + base:
ties go to the even code. -/
def roundShift (mode : Nat) (neg : Bool) (m s : Nat) (sticky : Bool) (base : Nat := 0) : Nat × Bool :=
  let far := decide (s > m.log2 + 2)
  let q := if far then 0 else m / 2 ^ s
  let r := if far then m else m % 2 ^ s
  let inexact := r != 0 || sticky
  let half := if s = 0 then 0 else 2 ^ (s - 1)
  let above := !far && s != 0 && (decide (r > half) || (r == half && sticky))
  let tie := !far && s != 0 && r == half && !sticky
  let up := match mode with
    | 1 => false
    | 2 => inexact && neg
    | 3 => inexact && !neg
    | 4 => above || tie
    | _ => above || (tie && (q + base) % 2 == 1)
  (if up then q + 1 else q, inexact)

/-- Round the magnitude (m + δ) × 2^e onto the grid 2^g: the multiple of 2^g and whether it is inexact. -/
def roundGrid (mode : Nat) (neg : Bool) (m : Nat) (e : Int) (sticky : Bool) (g : Int) (base : Nat := 0) : Nat × Bool :=
  if g ≤ e then (m * 2 ^ (e - g).toNat, sticky)
  else roundShift mode neg m (g - e).toNat sticky base

/-- The overflow column of R84 for a float entry: the code and its flags. -/
def overflowCode (f : Entry) (mode : Nat) (neg : Bool) : Nat × Flags :=
  if f.spec = 0 then
    let toInf := match mode with
      | 1 => false
      | 2 => neg
      | 3 => !neg
      | _ => true
    (if toInf then f.infCode neg else f.signCode neg + f.maxCode, flagOF ||| flagNX)
  else (f.signCode neg + f.maxCode, flagOF ||| flagST ||| flagNX)

/-- Round an exact number into a float entry, R83, R84, with UF and NX as R96 defines them. A negative that an unsigned float takes
as +0 has changed (NX), and is no underflow (DESIGN CHOICE, log entry 18). -/
def roundFloatNum (f : Entry) (mode : Nat) (neg : Bool) (m : Nat) (e : Int) (sticky : Bool) : Nat × Flags :=
  if m = 0 && !sticky then (f.signCode neg, 0)
  else if neg && f.sign = 0 then (0, flagNV ||| flagST ||| flagNX)
  else
    let emin : Int := 1 - f.bias
    let ex := expOf m e
    let top := max ex emin
    -- the code of significand q at exponent x is q + base x
    let base (x : Int) : Nat := ((x - emin) * (2 ^ f.fw : Nat) % 2).toNat
    let (q, inexact) := roundGrid mode neg m e sticky (top - f.fw) (base top)
    let mag := (top - emin).toNat * 2 ^ f.fw + q
    if mag > f.maxCode then overflowCode f mode neg
    else
      -- the magnitude rounded with unbounded exponent is below the smallest normal
      let (qu, _) := roundGrid mode neg m e sticky (ex - f.fw) (base ex)
      let tiny := decide (ex < emin) && !(decide (ex + 1 = emin) && qu == 2 ^ (f.fw + 1))
      (f.signCode neg + mag,
        (if inexact then flagNX else 0) ||| (if inexact && tiny then flagUF else 0))

/-- Round into a float entry, the sources infinity and NaN as the last rows of R84. -/
def roundFloat (f : Entry) (mode : Nat) : Val → Nat × Flags
  | .nan => if f.spec = 2 then (0, flagNV) else (f.nanCode, 0)
  | .inf neg =>
    if neg && f.sign = 0 then (0, flagNV ||| flagST)
    else match f.spec with
      | 0 => (f.infCode neg, 0)
      | 1 => (f.nanCode, flagNV)
      | _ => (f.signCode neg + f.maxCode, flagST)
  | .num neg m e s => roundFloatNum f mode neg m e s

/-- Least and greatest integer of a width and signedness. -/
def intMin (signed : Bool) (w : Nat) : Int :=
  if signed then -(2 ^ (w - 1) : Nat) else 0

def intMax (signed : Bool) (w : Nat) : Int :=
  if signed then (2 ^ (w - 1) : Nat) - 1 else (2 ^ w : Nat) - 1

/-- Round into an integer element, saturating, R85; a finite number that saturates has changed, so NX is set (R96). -/
def roundInt (signed : Bool) (w mode : Nat) : Val → Nat × Flags
  | .nan => (0, flagNV)
  | .inf neg =>
    (wrapInt w (if neg then intMin signed w else intMax signed w), flagNV ||| flagST)
  | .num neg m e s =>
    -- beyond 2^80 every value saturates, whatever its exact size
    if expOf m e > 80 && m != 0 then
      (wrapInt w (if neg then intMin signed w else intMax signed w), flagNV ||| flagST ||| flagNX)
    else
      let (q, inexact) := roundGrid mode neg m e s 0
      let v : Int := if neg then -(q : Int) else q
      if v > intMax signed w then (wrapInt w (intMax signed w), flagNV ||| flagST ||| flagNX)
      else if v < intMin signed w then (wrapInt w (intMin signed w), flagNV ||| flagST ||| flagNX)
      else (wrapInt w v, if inexact then flagNX else 0)

/-- round_into(fmt, value, rm) of R113: one rounding into a float or integer entry. -/
def roundInto (f : Entry) (mode : Nat) (v : Val) : Nat × Flags :=
  if f.kind = kindInteger then roundInt (f.sign == 1) f.width mode v
  else roundFloat f mode v

/-- The rounding mode of an instruction's RM field under a destination entry, R83. -/
def modeOf (rm : Nat) (f : Entry) : Nat :=
  if rm = 0 then f.rnd else rm - 1

/-! ### The built-in entries, R79 -/

def builtinEntries : List Entry :=
  [⟨0x84300004, 0x80000000, 0, 0⟩, ⟨0x84300011, 0x80000000, 0, 0⟩,
   ⟨0x84300001, 0x80000000, 0, 0⟩, ⟨0x80305E22, 0x8000007F, 0, 0⟩,
   ⟨0x80482962, 0x8000000F, 0, 0⟩, ⟨0x80481E22, 0x8000007F, 0, 0⟩,
   ⟨0x82840D22, 0x80000007, 0, 0⟩, ⟨0x80840962, 0x8000000F, 0, 0⟩,
   ⟨0x84840011, 0x80000000, 0, 0⟩, ⟨0x84840001, 0x80000000, 0, 0⟩] ++
  [⟨0x85020011, 0x80000000, 0, 0⟩, ⟨0x850204A2, 0x80000001, 0, 0⟩,
   ⟨0x84030CA2, 0x80000001, 0, 0⟩, ⟨0x840308E2, 0x80000003, 0, 0⟩,
   ⟨0x840204A3, 0x80250001, 0, 0⟩, ⟨0x82040D23, 0x80250007, 0, 0⟩,
   ⟨0x84018423, 0x80450000, 0, 0⟩, ⟨0x84028C23, 0x80450000, 0, 0⟩,
   ⟨0x84041823, 0x80450000, 0, 0⟩, ⟨0x85F00011, 0x80000000, 0, 0⟩]

def fp32 : Entry := ⟨0x80305E22, 0x8000007F, 0, 0⟩

/-- The value of a 32-bit FP32 code. -/
def ofFp32 (w : Word) : Val :=
  decodeCode fp32 w.toNat

/-! ### Exact arithmetic -/

/-- Exact product; 0 × ∞ gives NaN with NV and NP, R99, R109. -/
def Val.mul : Val → Val → Val × Flags
  | .nan, _ => (.nan, 0)
  | _, .nan => (.nan, 0)
  | .inf a, .inf b => (.inf (a != b), 0)
  | .inf a, .num b m _ _ => if m = 0 then (.nan, flagNV ||| flagNP) else (.inf (a != b), 0)
  | .num a m _ _, .inf b => if m = 0 then (.nan, flagNV ||| flagNP) else (.inf (a != b), 0)
  | .num a m e _, .num b m' e' _ => (.num (a != b) (m * m') (e + e') false, 0)

/-- Exact sum of two numbers; ∞ − ∞ gives NaN with NV and NP. An exact zero of terms of different signs is −0
under RDN and +0 otherwise, the rule of IEEE 754 that R109 takes. -/
def Val.add (mode : Nat) : Val → Val → Val × Flags
  | .nan, _ => (.nan, 0)
  | _, .nan => (.nan, 0)
  | .inf a, .inf b => if a = b then (.inf a, 0) else (.nan, flagNV ||| flagNP)
  | .inf a, _ => (.inf a, 0)
  | _, .inf b => (.inf b, 0)
  | .num n m e _, .num n' m' e' _ =>
    let g := min e e'
    let s := scaledTo n m e g + scaledTo n' m' e' g
    if s = 0 then
      (.zero (if m = 0 && m' = 0 && n == n' then n else mode == 2), 0)
    else (.num (decide (s < 0)) s.natAbs g false, 0)

/-- Sum of exact finite terms on the grid 2^g. -/
def sumScaled (g : Int) : List Val → Int
  | [] => 0
  | .num n m e _ :: vs => scaledTo n m e g + sumScaled g vs
  | _ :: vs => sumScaled g vs

/-- Least exponent of the finite terms. -/
def minExp : List Val → Int
  | [] => 0
  | .num _ _ e _ :: vs => min e (minExp vs)
  | _ :: vs => minExp vs

/-- An exact sum of many terms, NaN, infinity and zero as R99: NaN for a NaN term, NaN with NV and NP for infinities of both
signs, beside a NaN term as well, and −0 only when every term is −0: a zero sum of other terms is +0 under RDN too, DESIGN CHOICE,
log entry 18. -/
def sumVals (vs : List Val) : Val × Flags :=
  let pos := vs.any (fun v => v.isInf && !v.neg)
  let negs := vs.any (fun v => v.isInf && v.neg)
  if pos && negs then (.nan, flagNV ||| flagNP)
  else if vs.any Val.isNan then (.nan, 0)
  else if pos then (.inf false, 0)
  else if negs then (.inf true, 0)
  else
    let g := minExp vs
    let s := sumScaled g vs
    if s = 0 then (.zero (!vs.isEmpty && vs.all (fun v => v.isZero && v.neg)), 0)
    else (.num (decide (s < 0)) s.natAbs g false, 0)

/-- Exact products summed as R99 does: a NaN operand gives NaN, 0 × ∞ NaN with NV and NP; each term of the sum adds its own flags.
-/
def dotVals (terms : List Val) (pairs : List (Val × Val)) : Val × Flags :=
  let ps := pairs.map (fun p => p.1.mul p.2)
  let s := sumVals (terms ++ ps.map (·.1))
  (s.1, s.2 ||| orFlags (ps.map (·.2)))

end Sys2Proof.Machine
end

