-- ==== Sys2Proof/Machine/FloatFn.lean ====
section
/-! DEFINITION. The functions of R110 and the rounding of R111. Algebraic functions are exact integer arithmetic with
a remainder bit. Transcendental ones are enclosed in fixed point, at growing precision, until the enclosure fixes 64
leading bits; their exact value is irrational at every argument this reaches, so the remainder bit is set. -/

namespace Sys2Proof.Machine

/-- Greatest r with r × r ≤ x, bit by bit from bit n − 1. -/
def isqrtBits (x : Nat) : Nat → Nat → Nat
  | 0, r => r
  | n + 1, r =>
    let r' := r + 2 ^ n
    isqrtBits x n (if r' * r' ≤ x then r' else r)

def isqrt (x : Nat) : Nat :=
  isqrtBits x (x.log2 / 2 + 1) 0

/-! ### Fixed point: an integer v stands for v / 2^p -/

/-- Sum of the terms t / (2j + 1), each t the one before divided by d, signs alternating or not:
the series of arctan and artanh. -/
def oddSeries (alternate : Bool) (d : Nat) : Nat → Nat → Nat → Int
  | 0, _, _ => 0
  | fuel + 1, t, j =>
    let term : Int := (t / (2 * j + 1) : Nat)
    (if alternate && j % 2 == 1 then -term else term) + oddSeries alternate d fuel (t / d) (j + 1)

/-- arctan(1/n). -/
def fixAtanInv (p n : Nat) : Int :=
  oddSeries true (n * n) p (2 ^ p / n) 0

/-- π by Machin's formula. -/
def fixPi (p : Nat) : Int :=
  4 * (4 * fixAtanInv p 5 - fixAtanInv p 239)

/-- ln 2 = 2 artanh(1/3). -/
def fixLn2 (p : Nat) : Int :=
  2 * oddSeries false 9 p (2 ^ p / 3) 0

/-- artanh of z, 0 ≤ z ≤ 1/3: sum of z^(2j+1) / (2j + 1). -/
def fixAtanh (p : Nat) (z : Nat) : Int :=
  let z2 := z * z / 2 ^ p
  let rec go : Nat → Nat → Nat → Int
    | 0, _, _ => 0
    | fuel + 1, t, j => (t / (2 * j + 1) : Nat) + go fuel (t * z2 / 2 ^ p) (j + 1)
  go (p / 3 + 8) z 0

/-- e^r for 0 ≤ r < 1. -/
def fixExp (p : Nat) (r : Nat) : Nat :=
  let rec go : Nat → Nat → Nat → Nat
    | 0, _, _ => 0
    | fuel + 1, t, j => if t = 0 then 0 else t + go fuel (t * r / 2 ^ p / (j + 1)) (j + 1)
  go (p + 8) (2 ^ p) 0

/-- The alternating series of sin (first term r, j = 1) and cos (first term 1, j = 0). -/
def fixTrig (p : Nat) (r2 : Nat) : Nat → Nat → Nat → Int
  | 0, _, _ => 0
  | fuel + 1, t, j =>
    if t = 0 then 0
    else (t : Int) - fixTrig p r2 fuel (t * r2 / 2 ^ p / ((j + 1) * (j + 2))) (j + 2)

def fixSin (p r : Nat) : Int :=
  fixTrig p (r * r / 2 ^ p) (p + 8) r 1

def fixCos (p r : Nat) : Int :=
  fixTrig p (r * r / 2 ^ p) (p + 8) (2 ^ p) 0

/-- The number behind a fixed-point approximation with an error below 2^20 units, when its 64 leading bits are
fixed by that. -/
def settleAt (p : Nat) (v : Int) (e : Int) : Option Val :=
  let a := v.natAbs
  if a.log2 < 100 then none
  else
    let s := a.log2 - 64
    if (a - 2 ^ 20) / 2 ^ s = (a + 2 ^ 20) / 2 ^ s then
      some (.num (decide (v < 0)) (a / 2 ^ s) ((s : Int) - p + e) true)
    else none

/-- Try growing precisions. The last one decides every argument that is exact in FP32, log entry 5. -/
def settle (f : Nat → Int) (e : Int) : List Nat → Val
  | [] => .nan
  | [p] => (settleAt p (f p) e).getD (.num (decide (f p < 0)) (f p).natAbs (e - p) true)
  | p :: ps => (settleAt p (f p) e).getD (settle f e ps)

def precisions : List Nat :=
  [320, 640, 1280]

/-- |x| in fixed point; exact where e + p ≥ 0. -/
def fixOf (p m : Nat) (e : Int) : Nat :=
  if 0 ≤ e + p then m * 2 ^ (e + p).toNat else m / 2 ^ (-(e + p)).toNat

/-- 2^x; beyond 2^4096 and below 2^-4096, where every entry rounds alike (R78), the number at that end. -/
def exp2Val (neg : Bool) (m : Nat) (e : Int) : Val :=
  -- integer part n and fraction numerator at 2^min(e,0)
  let g := (-(min e 0)).toNat
  let x := scaledTo neg m e (min e 0)
  let n := max (-4096) (min 4096 (x / (2 ^ g : Nat)))
  let fr := (x % (2 ^ g : Nat)).toNat
  if fr = 0 then .num false 1 n false
  else settle (fun p => fixExp p ((fixOf p fr (-(g : Int))) * (fixLn2 p).toNat / 2 ^ p)) n precisions

/-- log2 of m × 2^e, m nonzero. -/
def log2Val (m : Nat) (e : Int) : Val :=
  let k := expOf m e
  let l := m.log2
  if m = 2 ^ l then .ofInt k
  else settle (fun p =>
    -- y = m / 2^l, z = (y − 1) / (y + 1)
    let z := (m - 2 ^ l) * 2 ^ p / (m + 2 ^ l)
    k * (2 ^ p : Nat) + 2 * fixAtanh p z * (2 ^ p : Nat) / fixLn2 p) 0 precisions

/-- sin (co = false) or cos (co = true) of m × 2^e, m nonzero, reduced against π at 160 further bits. -/
def trigVal (co neg : Bool) (m : Nat) (e : Int) : Val :=
  settle (fun p =>
    let x := fixOf p m e * 2 ^ 160
    let half := (fixPi (p + 160)).toNat / 2
    let q := x / half
    let r := (x - q * half) / 2 ^ 160
    let q' := if co then q + 1 else q
    let v := if q' % 2 = 0 then fixSin p r else fixCos p r
    let v := if q' / 2 % 2 = 0 then v else -v
    if neg && !co then -v else v) 0 precisions

/-- tanh of m × 2^e, m nonzero: 1 − 2 / (e^(2x) + 1). -/
def tanhVal (neg : Bool) (m : Nat) (e : Int) : Val :=
  if expOf m e ≥ 6 then .num neg (2 ^ 64 - 1) (-64) true
  else settle (fun p =>
    let y := 2 * fixOf p m e
    let ln2 := (fixLn2 p).toNat
    let n := y / ln2
    let ey := fixExp p (y - n * ln2) * 2 ^ n
    let v : Int := (2 ^ p : Nat) - (2 * 2 ^ (2 * p) / (ey + 2 ^ p) : Nat)
    if neg then -v else v) 0 precisions

/-- √(m × 2^e). -/
def sqrtVal (m : Nat) (e : Int) : Val :=
  let odd := e % 2 = 1
  let m' := (if odd then 2 * m else m) * 2 ^ 132
  let n := isqrt m'
  .num false n ((if odd then e - 1 else e) / 2 - 66) (n * n != m')

/-- 1 / √(m × 2^e), m nonzero. -/
def rsqrtVal (m : Nat) (e : Int) : Val :=
  let odd := e % 2 = 1
  let m' := if odd then 2 * m else m
  let p := 66 + m'.log2
  let n := isqrt (2 ^ (2 * p) / m')
  .num false n (-((if odd then e - 1 else e) / 2) - p) (n * n * m' != 2 ^ (2 * p))

/-- The functions of R110. -/
inductive FloatFn where
  | rcp | rsq | sqrt | exp2 | log2 | sin | cos | tanh
  deriving DecidableEq, Repr

def nanNP : Val × Flags :=
  (.nan, flagNV ||| flagNP)

/-- The exact result of a function of R110 with the flags its special values set. The zero that FSIN and FTANH give for −0 keeps the
sign, which R110 does not state: DESIGN CHOICE, log entry 5. -/
def FloatFn.eval (fn : FloatFn) (v : Val) : Val × Flags :=
  match v with
  | .nan => (.nan, 0)
  | .inf n =>
    match fn with
    | .rcp => (.zero n, 0)
    | .rsq => if n then nanNP else (.zero false, 0)
    | .sqrt => if n then nanNP else (.inf false, 0)
    | .exp2 => if n then (.zero false, 0) else (.inf false, 0)
    | .log2 => if n then nanNP else (.inf false, 0)
    | .sin => nanNP
    | .cos => nanNP
    | .tanh => (.num n 1 0 false, 0)
  | .num n m e _ =>
    match fn with
    | .rcp => if m = 0 then (.inf n, flagDZ) else (.ofRatio n 1 m (-e), 0)
    | .rsq => if m = 0 then (.inf n, flagDZ) else if n then nanNP else (rsqrtVal m e, 0)
    | .sqrt => if m = 0 then (.zero n, 0) else if n then nanNP else (sqrtVal m e, 0)
    | .exp2 => if m = 0 then (.num false 1 0 false, 0) else (exp2Val n m e, 0)
    | .log2 => if m = 0 then (.inf true, flagDZ) else if n then nanNP else (log2Val m e, 0)
    | .sin => if m = 0 then (.zero n, 0) else (trigVal false n m e, 0)
    | .cos => if m = 0 then (.num false 1 0 false, 0) else (trigVal true n m e, 0)
    | .tanh => if m = 0 then (.zero n, 0) else (tanhVal n m e, 0)

/-- FRND of one element, R111: the integral value and NX when the value changes. -/
def roundIntegral (mode : Nat) : Val → Val × Flags
  | .nan => (.nan, 0)
  | .inf n => (.inf n, 0)
  | .num n m e s =>
    if 0 ≤ e && !s then (.num n m e s, 0)
    else
      let (q, inexact) := roundGrid mode n m e s 0
      (.num n q 0 false, if inexact then flagNX else 0)

end Sys2Proof.Machine
end

