-- ==== Sys2Proof/Machine/Format.lean ====
section
/-! DEFINITION. The format context of a workgroup (R74), well-formed images (R78, R90), packing (R80), the block
formats BX and MX (R86 to R91) and their quantisation. -/

namespace Sys2Proof.Machine

/-- The format context, R74: 32 entries and the eight words of companding tables 1 to 8. -/
structure FmtCtx where
  entries : List Entry
  tables : List (List Word)
  deriving DecidableEq, Repr

/-- The context when a workgroup starts, R74. -/
def FmtCtx.initial : FmtCtx :=
  ⟨builtinEntries ++ List.replicate 12 Entry.empty, List.replicate 8 (List.replicate 8 0)⟩

def FmtCtx.entry (c : FmtCtx) (i : Nat) : Entry :=
  c.entries.getD i Entry.empty

/-- The words of companding table n, 1 to 8. -/
def FmtCtx.table (c : FmtCtx) (n : Nat) : List Word :=
  c.tables.getD (n - 1) []

/-- The tag of entry i at its current generation, R24. -/
def FmtCtx.tagOf (c : FmtCtx) (i : Nat) : Byte :=
  BitVec.ofNat 8 (128 + 4 * (i % 32) + (c.entry i).gen % 4)

def tagValid (t : Byte) : Bool := bitNat t.toNat 7 == 1
def tagIndex (t : Byte) : Nat := bitsNat t.toNat 6 2
def tagGen (t : Byte) : Nat := bitsNat t.toNat 1 0

def tagRaw32 : Byte := 0x80
def tagInt32 : Byte := 0x84
def tagUint32 : Byte := 0x88
def tagFp32 : Byte := 0x8C
def tagInt64 : Byte := 0xCC

/-! ### Companding, R90 and R91 -/

/-- The knots y0 to y16 of a table in units of 2^−15. -/
def knots (t : List Word) : List Nat :=
  0 :: ((List.range 15).map (fun i => field (t.getD (i / 2) 0) (16 * (i % 2) + 15) (16 * (i % 2)))) ++ [65536]

/-- CPDSET's checks: strictly rising, word 7 [31:16] zero, R90. -/
def tableOk (t : List Word) : Bool :=
  let k := knots t
  (List.range 16).all (fun i => k.getD i 0 < k.getD (i + 1) 0) && field (t.getD 7 0) 31 16 == 0

/-- c(x) of R91 for x = m × 2^e below 2: again an exact dyadic. -/
def curve (ks : List Nat) (m : Nat) (e : Int) : Nat × Int :=
  -- on the grid 2^g with g at most −3
  let g := min e (-3)
  let x := m * 2 ^ (e - g).toNat
  let unit := 2 ^ (-3 - g).toNat
  let i := x / unit
  let y0 := ks.getD i 65536
  let y1 := ks.getD (i + 1) 65536
  (y0 * unit + (x - i * unit) * (y1 - y0), g + 3 - 15)

/-- c_inv(y) of R91 for y in units of 2^−15: a numerator and a denominator. -/
def curveInv (ks : List Nat) (y : Nat) : Nat × Nat :=
  let i := ((List.range 16).filter (fun i => ks.getD i 0 ≤ y)).length - 1
  let y0 := ks.getD i 0
  let d := ks.getD (i + 1) 65536 - y0
  (i * d + (y - y0), 8 * d)

/-! ### Well-formed images, R78 -/

/-- The rules of a float entry or element: sizes, SPEC, and exactness in FP32. -/
def floatFieldsOk (f : Entry) : Bool :=
  (f.sign == 0 || f.sign == 2) && decide (1 ≤ f.ew) && decide (f.ew ≤ 8) && decide (f.fw ≤ 23)
    && f.sbits == f.ew + f.fw + (if f.sign = 2 then 1 else 0)
    && (!(f.spec == 0 || f.spec == 3) || decide (2 ≤ f.ew))
    && (!(f.spec == 1) || decide (1 ≤ f.fw))
    && decide (1 - f.bias - f.fw ≥ -149)
    && decide ((f.maxCode / 2 ^ f.fw : Nat) - f.bias ≤ 127)

/-- The reserved codes of R76 and R77. -/
def imageCodesOk (f : Entry) : Bool :=
  decide (f.spec ≤ 3) && (f.epw == 0 || f.epw == 1 || f.epw == 2 || f.epw == 4 || f.epw == 8 || f.epw == 15)
    && decide (1 ≤ f.sbits) && decide (f.sbits ≤ 32) && decide (f.fw ≤ 23) && decide (f.ew ≤ 8)
    && decide (f.sign ≤ 2) && decide (1 ≤ f.kind) && decide (f.kind ≤ 4) && decide (f.cpd ≤ 8)
    && decide (f.scale ≤ 2) && (f.blk == 0 || f.blk == 5) && decide (f.rnd ≤ 4)

/-- FMTSET's check of an image under the companding tables of the context, R78. -/
def imageOk (c : FmtCtx) (f : Entry) : Bool :=
  f.w2 == 0 && f.w3 == 0 &&
  if !f.valid then true
  else imageCodesOk f &&
    match f.kind with
    | 1 => f.ew == 0 && f.fw == 0 && f.bias == 0 && f.spec == 2 && f.scale == 0 && f.blk == 0 && f.cpd == 0
        && decide (f.sign ≤ 1) && (f.epw * f.sbits == 32 || (f.epw == 15 && f.sbits == 32))
    | 2 => floatFieldsOk f && (f.epw * f.sbits == 32 || f.epw == 0) && f.scale == 0 && f.blk == 0 && f.cpd == 0
    | 3 =>
      if f.scale = 2 then
        f.sign == 2 && f.ew == 0 && decide (1 ≤ f.fw) && decide (f.fw ≤ 7) && f.sbits == f.fw + 2 && f.epw == 0
          && f.spec == 2 && f.bias == 0 && f.blk == 5 && (f.cpd == 0 || tableOk (c.table f.cpd))
      else f.scale == 1 && floatFieldsOk f && f.epw == 0 && f.blk == 5 && f.cpd == 0
    | _ => f.sign == 0 && f.ew == 0 && f.fw == 0 && f.bias == 0 && f.spec == 2 && f.scale == 0 && f.blk == 0
        && f.cpd == 0 && f.epw * f.sbits == 32

/-! ### Packing, R80 and R102 -/

/-- Elements held by n registers under an entry. -/
def elemCount (f : Entry) (n : Nat) : Nat :=
  if f.epw = 15 then n / 2 else f.epw * n

/-- Element i of a register group. -/
def elemOf (f : Entry) (regs : List Word) (i : Nat) : Nat :=
  if f.epw = 15 then pairNat (regs.getD (2 * i) 0) (regs.getD (2 * i + 1) 0)
  else (regs.getD (i / f.epw) 0).toNat / 2 ^ (i % f.epw * f.sbits) % 2 ^ f.sbits

/-- All elements of a register group. -/
def elemsOf (f : Entry) (regs : List Word) : List Nat :=
  (List.range (elemCount f regs.length)).map (elemOf f regs)

/-- One register word of packed codes, element 0 lowest. -/
def packWord (sbits : Nat) : List Nat → Nat
  | [] => 0
  | c :: cs => c % 2 ^ sbits + 2 ^ sbits * packWord sbits cs

/-- The registers holding a list of element codes. -/
def packElems (f : Entry) (codes : List Nat) : List Word :=
  if f.epw = 15 then codes.flatMap (fun c => [word c, word (c / 2 ^ 32)])
  else (chunks f.epw codes.length codes).map (fun cs => word (packWord f.sbits cs))

/-! ### Blocks, R86 to R89 -/

def isBX (f : Entry) : Bool := f.kind == kindBlock && f.scale == 2

/-- k of a BX entry, R86. -/
def Entry.bxk (f : Entry) : Nat := f.fw + 1

/-- Bytes of a group of 256 elements, R87 and R89. -/
def groupBytes (f : Entry) : Nat :=
  if isBX f then 32 + 32 * (f.bxk + 1) else 16 + 32 * f.sbits

/-- Bytes before the element codes of a group. -/
def groupHead (f : Entry) : Nat :=
  if isBX f then 32 else 16

/-- Decode one block element under its scale byte and, for BX, its micro-exponent. The value is rounded into FP32 for companded
data (NX) and for an MX value beyond FP32 (OF, NX), R82, R84, R91; otherwise it is exact. An MX value of a programmable entry can
lie below the FP32 subnormals, where R82 calls it exact: the model rounds it into FP32 with the flags of R96; and one beyond its
maximum is an infinity with OF and NX for an operand of MMA too (R98): DESIGN CHOICE, log entry 18. -/
def decodeBlockElem (c : FmtCtx) (f : Entry) (scale mu code : Nat) : Val × Flags :=
  if scale = 0xFF then (.nan, 0)
  else if isBX f then
    let k := f.bxk
    let mag := code % 2 ^ k
    let neg := code / 2 ^ k % 2 == 1
    let e : Int := (scale : Int) - 127 - mu
    if mag = 0 then (.zero neg, 0)
    else if f.cpd = 0 then (.num neg mag (e - (k - 1 : Nat)) false, 0)
    else
      let (n, d) := curveInv (knots (c.table f.cpd)) (mag * 2 ^ (16 - k))
      let (code', fl) := roundFloat fp32 0 (.ofRatio neg n d e)
      (decodeCode fp32 code', fl)
  else
    match decodeCode f code with
    | .num neg m e s =>
      let (code', fl) := roundFloat fp32 0 (.num neg m (e + (scale : Int) - 127) s)
      (decodeCode fp32 code', fl)
    | v => (v, 0)

/-- Largest finite FP32 value. -/
def fp32Max (neg : Bool) : Val :=
  .num neg (2 ^ 24 - 1) 104 false

/-- An infinity as the FP32 maximum with its sign, R88. -/
def clampInf : Val → Val
  | .inf n => fp32Max n
  | v => v

/-- Largest magnitude of a list of exact numbers, as m × 2^e; zero for none. -/
def amaxOf (vs : List Val) : Val :=
  vs.foldl (fun a v => if v.abs.cmp a > 0 then v.abs else a) (.zero false)

/-- floor(log2 amax) of a nonzero number. -/
def Val.exponent : Val → Int
  | .num _ m e _ => expOf m e
  | _ => 0

/-- A quantised block: shared scale byte, micro byte, codes, flags. -/
structure Block where
  scale : Nat
  micro : Nat
  codes : List Nat
  flags : Flags
  deriving DecidableEq, Repr

/-- μ of each sub-block, R88. -/
def microOf (e : Int) (sub : List Val) : Nat :=
  let a := amaxOf sub
  if a.isZero then 3 else (min 3 (e - a.exponent)).toNat

/-- Code of one BX element of sub-block exponent `e` (E − 127 − μ), R88; the magnitude is rounded as a magnitude. -/
def bxCode (c : FmtCtx) (f : Entry) (mode : Nat) (e : Int) : Val → Nat × Flags
  | .num neg m ev _ =>
    let k := f.bxk
    let (m', e') := if f.cpd = 0 then (m, ev - e) else curve (knots (c.table f.cpd)) m (ev - e)
    let (q, inexact) := roundGrid mode false m' (e' + (k - 1 : Nat)) false 0
    let sat := decide (q > 2 ^ k - 1)
    ((if neg then 2 ^ k else 0) + (if sat then 2 ^ k - 1 else q),
      (if sat then flagST else 0) ||| (if inexact || sat then flagNX else 0))
  | _ => (0, 0)

/-- Quantise 32 values into a BX entry, R88. -/
def quantiseBX (c : FmtCtx) (f : Entry) (mode : Nat) (vs : List Val) : Block :=
  if vs.any Val.isNan then ⟨0xFF, 0, List.replicate vs.length 0, 0⟩
  else if vs.all Val.isZero then ⟨0, 0xFF, List.replicate vs.length 0, 0⟩
  else
    let infs := vs.any Val.isInf
    let ws := vs.map clampInf
    let ex := (amaxOf ws).exponent
    let e := max 0 (ex + 127)
    let subs := chunks 8 4 ws
    let mus := subs.map (microOf (e - 127))
    let res := (subs.zip mus).flatMap (fun p => p.1.map (bxCode c f mode (e - 127 - p.2)))
    ⟨e.toNat, (mus.zipIdx.map (fun p => p.1 * 4 ^ p.2)).sum, res.map (·.1),
      (if infs then flagOF ||| flagST else 0) ||| (if ex + 127 < 0 then flagSU else 0) ||| orFlags (res.map (·.2))⟩

/-- An element entry under which an overflow saturates, as R89 asks of every MX element. -/
def Entry.saturating (f : Entry) : Entry := if f.spec = 0 then { f with w0 := f.w0 ||| 0x6000000 } else f

/-- Quantise 32 values into an MX entry, R89. The codes of a NaN block, which the spec gives for BX alone (R88), are 0: DESIGN
CHOICE, log entry 18. -/
def quantiseMX (f : Entry) (mode : Nat) (vs : List Val) : Block :=
  if vs.any Val.isNan then ⟨0xFF, 0, List.replicate vs.length 0, 0⟩
  else if vs.all Val.isZero then ⟨0, 0, List.replicate vs.length 0, 0⟩
  else
    let infs := vs.any Val.isInf
    let ws := vs.map clampInf
    let want := (amaxOf ws).exponent - ((f.maxCode / 2 ^ f.fw : Nat) - f.bias) + 127
    let x := min 0xFE (max 0 want)
    let scaled : Val → Val
      | .num n m e s => .num n m (e - (x - 127)) s
      | v => v
    let res := ws.map (fun v => roundFloat f.saturating mode (scaled v))
    ⟨x.toNat, 0, res.map (·.1),
      (if infs then flagOF ||| flagST else 0) ||| (if want < 0 then flagSU else 0) ||| orFlags (res.map (·.2))⟩

def quantise (c : FmtCtx) (f : Entry) (mode : Nat) (vs : List Val) : Block :=
  if isBX f then quantiseBX c f mode vs else quantiseMX f mode vs

/-! ### Bit streams in memory, R80 -/

/-- Element i of a little-endian bit stream held by a number. -/
def streamGet (x sbits i : Nat) : Nat :=
  x / 2 ^ (i * sbits) % 2 ^ sbits

/-- A number with element i of its bit stream replaced. -/
def streamPut (x sbits i code : Nat) : Nat :=
  x - streamGet x sbits i * 2 ^ (i * sbits) + code % 2 ^ sbits * 2 ^ (i * sbits)

end Sys2Proof.Machine
end

