-- ==== Sys2Proof/Machine/State.lean ====
section
/-! DEFINITION. The state of the part as plain data, everything the spec names (INVENTORY.md, State), and the state
right after reset. -/

namespace Sys2Proof.Machine

/-- No behaviour of the spec raises a fault in this model: an access to an address that does not exist is an error
response or a trap of the part (R374), a next state. The one constructor is raised by no meaning; it is safe. -/
inductive Fault where
  | none
  deriving DecidableEq, Repr

/-- Reasons for a step to have no answer. -/
inductive Refusal where
  /-- Raised by an arm of `exec` whose instruction has no meaning yet; safe, nothing is claimed of it. -/
  | notModelled (mnemonic : String)
  deriving DecidableEq, Repr

/-! ### Memory -/

/-- Device memory: (address, byte) pairs, addresses strictly rising, no byte listed that is 0, which is what an
unlisted address reads as (bring-up scrubs all device memory to zero, R398). -/
abbrev Memory := List Host.Cell

/-- What an unlisted address reads as, R398 step 2. -/
def Memory.background : Byte := 0

/-- The canonical form from a least address on. -/
def Memory.wfFrom : Nat → Memory → Bool
  | _, [] => true
  | n, (a, b) :: m => decide (n ≤ a) && b != Memory.background && Memory.wfFrom (a + 1) m

/-- The canonical form. -/
def Memory.wf (m : Memory) : Bool :=
  Memory.wfFrom 0 m

/-! ### Threads, R10, R11, R21 -/

/-- The event a parked thread awaits, R11. A thread parked at BAR, CONV or CATCH goes on after `size` bytes when it
wakes (R276); a thread parked on any other condition issues its instruction again. Empty lines are named by the core
and slot of their window and by line number. -/
inductive WaitFor where
  | lines (core slot : Nat) (ls : List Nat)
  | lock | bar (id size : Nat) | conv (size : Nat) | catchStep (size : Nat) | timeline | phase
  | counter (level id target : Nat) (done : Bool) | queue | ring
  deriving DecidableEq, Repr

/-- The state of a thread that is neither halted nor exited, R11. `wake` is a core cycle. -/
inductive Live where
  | ready
  | parked (on : WaitFor)
  | asleep (wake : Nat)
  deriving DecidableEq, Repr

/-- What halts a thread: the halt broadcast of a trap of a warp (ended by that warp's RTE, R236), a watch action (R241), a halt
request (R249), a live dump (R250), a swap-out (R227), the disposal of its workgroup (R277). -/
inductive HaltBy where
  | broadcast (warp : Nat) | watch | request | dump | swap | fatal
  deriving DecidableEq, Repr

/-- The five states of R11; a thread never launched holds the exited state from the start (R14). A halted thread keeps the state it
held (R246) and stays halted as long as anything halts it. -/
inductive TState where
  | live (l : Live)
  | halted (l : Live) (by_ : List HaltBy)
  | exited
  | never
  deriving DecidableEq, Repr

structure Thread where
  pc : Nat
  st : TState
  v : List Word
  tags : List Byte
  /-- p0 to p6. -/
  p : List Bool
  /-- Pass-over count, R13. -/
  passed : Nat
  /-- One-shot watch suppression, R240. -/
  oneShot : Bool
  /-- Mark of YIELD, R156. -/
  yielded : Bool
  /-- The instruction at `pc` has issued and waits: it issues again without a second evaluation of its watches. -/
  retry : Bool
  /-- It waits at issue with a part of its effect begun, so that its going on is no second issue (R13). -/
  begun : Bool
  /-- PC of the last safe point passed, R246. -/
  safePc : Nat
  /-- The pending halt request is satisfied for this thread, R249. -/
  reqDone : Bool
  /-- Cycle at which it parked at a barrier, R339. -/
  since : Nat
  /-- PC and state recorded at trap delivery, R274. -/
  saved : Option (Nat × TState)
  deriving DecidableEq, Repr

/-- A watch predicate of a core, R238, R239. -/
structure Predicate where
  words : List Word
  owner : Option Nat
  enabled : Bool
  count : Nat
  fired : Bool
  deriving DecidableEq, Repr

/-! ### Outstanding register writes, R37, R54 -/

/-- One register or predicate, by file. -/
inductive Target where
  | v (r : Nat) | p (r : Nat) | s (r : Nat) | q (r : Nat)
  deriving DecidableEq, Repr

/-- A byte of a load: its virtual address, its location once its line has translated, its value once it has returned,
and whether a replay asked for it. -/
structure ByteSlot where
  va : Nat
  loc : Option Nat
  got : Option Byte
  late : Bool
  deriving DecidableEq, Repr

/-- How the bytes of a load become register words, R131: register by register, one zero-extended quantity, values that come whole
with an answer (no load), or the elements of a decoding load under the format context it captured (R94): for each register the
element and the number of its bytes, none for an element out of bounds. -/
inductive LoadForm where
  | words
  | sub
  | whole
  | dec (fmt : FmtCtx) (entry : Entry) (elems : List (Option (Nat × Nat)))
  deriving DecidableEq, Repr

/-- The part of an outstanding write that one lane awaits. -/
structure PendLane where
  /-- Lane of the thread; 32 for registers of the warp. -/
  lane : Nat
  targets : List Target
  tags : List Byte
  /-- Values of the targets, none while they are not known. -/
  values : Option (List Word)
  /-- Bytes of a load. -/
  bytes : List ByteSlot
  form : LoadForm
  deriving DecidableEq, Repr

/-- A fixed-latency result under rule (a) of R37: its PC, the registers by lane, and how much of its latency the
issues and gaps since have not covered. -/
structure Recent where
  pc : Nat
  targets : List (Nat × Target)
  left : Nat
  deriving DecidableEq, Repr

/-- An outstanding write of an instruction: its issue number within the warp, its PC, whether another warp made it
(R166), the commit cycle of a fixed-latency write (none: variable latency, R54), its lanes, the flags it commits
with (R97), whether an instruction with K has issued since (R37), and the predicates that its replays meet (R244), with the
bytes of replayed lanes that have returned and wait for the rest of their line (R444). `raised` holds the flags of the lanes that
a format predicate of the issue meets at commit (R375), with the issuing group. On the sprinter `firm` tells of an instruction
that stands though it has not retired, `group` who issued it (R337). -/
structure Pend where
  id : Nat
  pc : Nat
  foreign : Bool
  due : Option Nat
  lanes : List PendLane
  flags : Flags
  covered : Bool := false
  watch : List (Nat × Predicate) := []
  late : List (Nat × Nat × Byte) := []
  raised : List (Nat × Flags) := []
  firm : Bool := true
  group : List Nat := []
  deriving DecidableEq, Repr

/-! ### Traps, R273 to R280 -/

/-- A trap record: IMP, cause, lanes, resume PC, and the record words of R280. -/
structure TrapRec where
  imp : Bool
  cause : Nat
  lanes : Nat
  epc : Nat
  addr : Nat
  info0 : Word
  info1 : Word
  deriving DecidableEq, Repr

/-- The lock a warp holds or has requested, R146: its identity, the base address of the record, and where that
address lies. -/
structure LockRef where
  va : Nat
  loc : Nat
  deriving DecidableEq, Repr

/-- A LOCK outstanding: its PC and lanes, the lock, the outstanding write of a TRY, and the answer once it is given:
granted, or failed on its way. -/
structure LockWait where
  pc : Nat
  lanes : Nat
  ref : LockRef
  pend : Option Nat
  answer : Option Bool
  deriving DecidableEq, Repr

/-- A lock or barrier address that did not translate, R445: the PC of the instruction held for it, the fault record,
and the answer of the fault service: resolved or abandoned. -/
structure XWait where
  pc : Nat
  fault : Nat
  answer : Option Bool
  deriving DecidableEq, Repr

/-- A match of a watch predicate by an issue, R240: predicate, with its definition at the issue (R244), lanes, matched address
and word. -/
structure Match where
  pred : Nat
  by_ : Predicate
  lanes : List Nat
  addr : Nat
  value : Word
  deriving DecidableEq, Repr

/-- The stop an issue leads to, R241: the action, and the match of the lowest-numbered predicate that led to it. -/
structure Stop where
  action : Nat
  kind : Nat
  m : Match
  deriving DecidableEq, Repr

/-- An STMC whose replays are awaited, R141: its PC and lanes, the denials so far (destination, lane and address), and
the stop of a watch. -/
structure Multi where
  pc : Nat
  lanes : Nat
  denied : List (Nat × Nat × Nat)
  stop : Option Stop
  deriving DecidableEq, Repr

/-- A release under way for the instruction a warp holds at issue, R145, R305. -/
structure ReleaseRef where
  pc : Nat
  release : Nat
  done : Bool
  deriving DecidableEq, Repr

/-- A warp that runs on after a halt signal, R279: the instructions it has issued past the signal, the cycles since, and what
its threads will be halted by. -/
structure Skid where
  issued : Nat
  age : Nat
  by_ : List HaltBy
  deriving DecidableEq, Repr

structure Warp where
  threads : List Thread
  /-- s0 to s63. -/
  s : List Word
  /-- q0 to q6. -/
  q : List Bool
  tcause : Word
  tlanes : Word
  tepc : Nat
  taddr : Nat
  tinfo0 : Word
  tinfo1 : Word
  tskid : Nat
  tsave : List Word
  /-- Waiting entries of the trap queue, oldest first, R278. -/
  tqueue : List TrapRec
  /-- LOST of TQLEN. -/
  tlost : Nat
  fstat : Flags
  ften : BitVec 4
  hchk : Bool
  trapMode : Bool
  pend : List Pend
  recent : List Recent
  /-- Issue number of the next instruction. -/
  seq : Nat
  /-- Parked by K, R50. -/
  kPark : Bool
  /-- Cycle from which the GAP interval has passed, R52, or a held warp tries again. -/
  gapEnd : Nat
  /-- Stall reason of R340 for which the warp is held at issue. -/
  holdWhy : Option Nat
  /-- Pending Y, R51. -/
  yPend : Bool
  /-- PC and recorded set of each CONV under way, R124. -/
  conv : List (Nat × Nat)
  lock : Option LockRef
  lockWait : Option LockWait
  /-- LOCKs that have been answered and whose instruction has yet to go on. -/
  lockDone : List LockWait
  xwait : Option XWait
  multi : List Multi
  /-- Cycles of the empty-wait timer, R300. -/
  emptyTimer : Nat
  /-- Halt cause of kind H, R290. -/
  haltCause : Nat
  /-- Holding a halt of its own, R290. -/
  ownHalt : Bool
  /-- Cycle and best reason of the promotion to the sprinter; none on the herd. -/
  sprint : Option (Nat × Nat)
  /-- Cycle from which the warp is a candidate with each reason, R339. -/
  candidate : Option (Nat × Nat)
  lastIssue : Nat
  release : Option ReleaseRef
  /-- PCs of the tile commands and copies that have issued and are not dispatched, with the format entries they name. -/
  heldCmd : List (Nat × List Nat)
  /-- Answer awaited from a home slice, the cox or an engine by the instruction held at this PC. -/
  answer : Option (Nat × Option Nat)
  /-- PCs of CWAITs whose condition has come to hold, R226. -/
  granted : List Nat
  /-- The skid that the warp is in, R279. -/
  skid : Option Skid
  /-- PC of a load held at issue for its value, with the predicates that it meets (R241, R244). -/
  watchAt : Option (Nat × List (Nat × Predicate))
  /-- Release rounds of the core (R304) in which the warp has stored and whose packets are still on their way (R145). -/
  stored : List Nat
  deriving DecidableEq, Repr

/-! ### Workgroups -/

/-- An accumulator tile: 64 × 128 words, sparse, unlisted words 0; and its tag. -/
structure Tile where
  words : List (Nat × Word)
  tag : Byte
  deriving DecidableEq, Repr

/-- A barrier, R168: phase, count of the phase, and the threads that arrived (warp × 32 + lane). -/
structure Barrier where
  phase : Bool
  count : Option Nat
  arrived : List Nat
  deriving DecidableEq, Repr

/-- A timeline, R195: ISSUED, COMPLETED, ERRFIRST, the numbers completed ahead of the gap-free prefix, and of completed
commands the clock of the global writes (R196, R260) and that of the fix-up lists, with the lines these lie in (R355). -/
structure Timeline where
  issued : Nat
  completed : Nat
  errFirst : Nat
  ahead : List Nat
  clock : List Nat
  listClock : List Nat
  listLines : List Nat
  deriving DecidableEq, Repr

def Timeline.zero : Timeline := ⟨0, 0, 0, [], [0, 0, 0, 0], [0, 0, 0, 0], []⟩

/-- A posted receive, R217. -/
structure Receive where
  warp : Nat
  dst : Nat
  mw : Word
  max : Nat
  receipt : Nat
  deriving DecidableEq, Repr

/-- An entry of the pending-launch queue, R224: launch id, the sixteen words of the record, the pushing warp. -/
structure PendingLaunch where
  id : Nat
  words : List Word
  warp : Nat
  deriving DecidableEq, Repr

/-- The state of a full/empty line that is not in its reset state (full, no copy pending), R299. -/
structure LineState where
  full : Bool
  pending : Nat
  deriving DecidableEq, Repr

/-- A CWAIT.SWAP under way or done, R227: the warp, the counter, target and DONE that it waits for, and whether its condition has
held since. -/
structure SwapReq where
  warp : Nat
  level : Nat
  id : Nat
  target : Nat
  done : Bool
  met : Bool := false
  deriving DecidableEq, Repr

structure Wg where
  launch : Nat
  job : Nat
  number : Nat
  x : Nat
  y : Nat
  z : Nat
  warps : List Warp
  nregs : Nat
  ntiles : Nat
  /-- Scratchpad bytes. -/
  scratch : Nat
  /-- First byte of the window in the core's scratchpad rows. -/
  base : Nat
  threads : Nat
  cls : Nat
  phaseMode : Bool
  cluster : Nat
  rank : Nat
  /-- Core and slot of the member of each rank. -/
  members : List (Nat × Nat)
  tiles : List Tile
  /-- Six words of each layout slot, R173. -/
  layouts : List (List Word)
  fmt : FmtCtx
  /-- FMTSET and CPDSET that wait to install: warp, PC and entries, R95. -/
  fmtWait : List (Nat × Nat × List Nat)
  lines : List (Nat × LineState)
  bars : List Barrier
  /-- CATCH arrivals (warp × 32 + lane), R214, and the register that receives the step. -/
  caught : List (Nat × Option Nat)
  ct : Timeline
  mt : Timeline
  /-- Last XT number taken, R197, and the XT numbers taken and not yet completed. -/
  xtLast : Nat
  xtOpen : List Nat
  /-- Copy instructions and SENDs so far, R207, R355. -/
  copies : Nat
  sends : Nat
  receives : List Receive
  pending : List PendingLaunch
  drain : Bool
  /-- Deadline of a drain, a core cycle. -/
  deadline : Option Nat
  cancel : Bool
  /-- Level of a CANCEL trap to be taken at a safe point. -/
  cancelTrap : Option Nat
  bconf : Nat
  swsel : List Word
  swheld : Nat
  pushed : List Nat
  haltReq : Bool
  /-- HALT commands of the debug channel that have yet to be answered, R381. -/
  haltsDue : Nat
  /-- Halts by broadcast under way: the warp whose trap made it. -/
  broadcast : Option Nat
  /-- Ticket and request cycle of a pending live dump, R250. -/
  dump : Option (Nat × Nat)
  /-- A CWAIT.SWAP under way, R227: the place of its image, and the round that its release waits for (R288). -/
  swapping : Option (SwapReq × Nat × Option Nat)
  traceLost : Nat
  traceNotice : Bool
  /-- Fatal trap or deadline: the workgroup is being disposed of, R277. -/
  dead : Option TrapRec
  /-- The fatal trap is a double trap, R275. -/
  double : Bool
  /-- A cluster member that has completed before its cluster, R17. -/
  complete : Bool
  /-- Cycle of placement. -/
  placed : Nat
  deriving DecidableEq, Repr

/-! ### Cores -/

/-- The lane accesses of an instruction that some bytes on their way come from, R374: warp, PC, lowest address and lanes. -/
structure Origin where
  w : WarpRef
  pc : Nat
  va : Nat
  lanes : Nat
  deriving DecidableEq, Repr

/-- An L1 line, R301: valid sectors, bytes written, dirty words, round parity, data, and the use stamp of the
least-recently-used replacement; and the stores behind its dirty words. -/
structure L1Line where
  sectors : Nat
  written : Nat
  dirty : Nat
  round : Bool
  data : List Byte
  used : Nat
  origins : List Origin
  deriving DecidableEq, Repr

/-- A write on its way from a core to a slice: line, byte offsets and bytes, the release round. A copy-back goes to the
serving slice (R303, R304); the write of an STMC or ST.REL names the die whose slice performs it (R262, R301), and its place
among the messages between dies (R362). It is performed after the writes that the core had seen by other means when it left
(R257, R258). The stores that it comes from learn of its refusal (R374). -/
structure Packet where
  id : Nat
  line : Nat
  bytes : List (Nat × Byte)
  round : Nat
  direct : Option Nat
  sent : Nat
  need : List Nat
  origins : List Origin
  deriving DecidableEq, Repr

/-- A release in progress, R305: its round and the copy-backs of that round by slice, whether it needs every die, at .SY the
flushing read and the ports whose fences it awaits (R270, R366), the lock that an UNLOCK frees when it completes (R415), and
the clock of what the core has read and written by other means, which the release makes visible too (R145, R262); with it the
older rounds that still carry stores of the releasing warp, which R145 has performed first. -/
structure Release where
  id : Nat
  round : Nat
  older : List Nat
  wide : Bool
  flush : Bool
  fences : List Nat
  unlock : Option (WarpRef × LockRef)
  sent : List (Nat × Nat)
  need : List Nat
  deriving DecidableEq, Repr

/-- A lane of an atomic or reduction on its way to the home slice. -/
structure AtomLane where
  lane : Nat
  loc : Nat
  va : Nat
  operand : List Word
  /-- Bytes that the replay of an acquire load reads. -/
  len : Nat
  deriving DecidableEq, Repr

/-- An ATOM, RED or reduction of STMC, or the replay of an acquire load (operation 13), sent and not yet performed: the warp and
outstanding write it answers, the operation and operand entry, its lanes, all of one line, and the scope of an acquire, which
later accesses of the warp wait for (R145), and its place among the messages between dies (R362). -/
structure AtomReq where
  id : Nat
  w : WarpRef
  pc : Nat
  pend : Option Nat
  op : Nat
  entry : Entry
  lanes : List AtomLane
  acquire : Option Nat
  sent : Nat
  deriving DecidableEq, Repr

/-- A part of a lane in the operand log: the lane's index, the part's place in the lane's data, its virtual address and bytes, the
data or operand, and the address of the whole lane (R34). -/
structure LogPart where
  lane : Nat
  index : Word
  off : Nat
  va : Nat
  len : Nat
  data : List Byte
  addr : Nat
  deriving DecidableEq, Repr

/-- An entry of the operand log, R149, R281: warp, PC, base and extension words, with OFF among their fields, the words of the
record, line address, the logged sources of its lanes, the fault record it waits on (0: it waits for a place in the log), the
reason of the fault, the outstanding write, the operand entry, and the destination of an STMC. -/
structure LogEntry where
  id : Nat
  w : WarpRef
  pc : Nat
  base : Word
  ext : Word
  record : List Word
  line : Nat
  fault : Nat
  reason : Nat
  pend : Option Nat
  entry : Entry
  parts : List LogPart
  dest : Nat
  /-- Scope of an acquire. -/
  acquire : Option Nat
  /-- Predicates at its issue, under which its replay is evaluated (R244). -/
  watch : List (Nat × Predicate)
  deriving DecidableEq, Repr

/-- A request of the L1 to its serving slice for a sector of a line, 4 for the line at the slice alone: its number among the core's
messages (R360), and its place among the messages between dies (R362). -/
structure FillReq where
  id : Nat
  line : Nat
  sector : Nat
  sent : Nat
  deriving DecidableEq, Repr

/-- A flush walker at work, R313: the warp, its lines and ranges, whether memory is written too, the number after its last
packet, and the clock of the writes before it that it covers (R268). -/
structure Walker where
  id : Nat
  w : WarpRef
  ranges : List (Nat × List Nat)
  deep : Bool
  last : Nat
  need : List Nat
  deriving DecidableEq, Repr

/-- A segment of a fix-up list, R355, with the scratchpad address of its bytes, the bank passes they cost, and whether its fault
record is resolved, so that its replay is due. -/
structure Segment where
  va : Nat
  off : Nat
  len : Nat
  sp : Nat
  state : Nat
  cause : Nat
  fault : Nat
  extra : Nat
  due : Bool
  deriving DecidableEq, Repr

/-- A request of a copy or collective command: box offset, global VA, scratchpad address and length, whether its
elements are in bounds, and the extra bank passes it costs. -/
structure CopyRun where
  off : Nat
  va : Nat
  sp : Nat
  len : Nat
  inBounds : Bool
  extra : Nat
  deriving DecidableEq, Repr

/-- A request of a command to the host or a peer that is not answered yet: the request, its run, and the segment that it
replays. -/
structure Flying where
  remote : Nat
  run : CopyRun
  seg : Option Nat
  deriving DecidableEq, Repr

/-- A copy, a CPYR or a SEND, R198 to R207, R216, R341: everything it captured at issue, and how far it has come. -/
structure Command where
  id : Nat
  w : WarpRef
  pc : Nat
  launch : Nat
  job : Nat
  op : Op
  number : Nat
  /-- Ring slot, and for a SEND its place among the fix-up lists (R355). -/
  ring : Nat
  spBase : Nat
  bytes : Nat
  /-- Element size and entry. -/
  esz : Nat
  entry : Entry
  rop : Nat
  /-- Core and slot of every member that receives the data. -/
  members : List (Nat × Nat)
  /-- Location of the transaction barrier, and whether its posting has been performed. -/
  barrier : Option Nat
  posted : Bool
  todo : List CopyRun
  flying : List Flying
  /-- Bytes moved. -/
  done : Nat
  segments : List Segment
  listVa : Nat
  /-- Destination lines still to land by member, with the bytes missing in each. -/
  lines : List ((Nat × Nat) × Nat × Nat)
  status : Nat
  /-- Everything is resolved and what could not land is accounted for (R206). -/
  settled : Bool
  /-- Clock of its global writes, and of the writes that are before its dispatch (R257). -/
  clock : List Nat
  need : List Nat
  /-- Clock and lines of the writes of its fix-up list. -/
  listClock : List Nat
  listLines : List Nat
  /-- Destination word of a SEND. -/
  dest : Word
  payload : List Byte
  /-- A SEND that was dropped. -/
  dropped : Bool
  /-- Its requests follow the messages of its core below this number (R360). -/
  after : Nat
  deriving DecidableEq, Repr

/-- A tile command in the array queue, R174: everything it captured at dispatch. -/
structure TileCmd where
  id : Nat
  w : WarpRef
  number : Nat
  op : Op
  /-- The modifier field. -/
  m : Nat
  d : Nat
  a : Nat
  /-- Operand pairs of fields A, B and D. -/
  pairA : List Word
  pairB : List Word
  pairD : List Word
  /-- The edge: valid rows, columns and K. -/
  rows : Nat
  cols : Nat
  kv : Nat
  /-- Index base of TOPK, vector address of TSCAL. -/
  base : Word
  /-- Entries of pairs A (of D for TST) and B. -/
  entryA : Entry
  entryB : Entry
  /-- Tag of the source tile, and the tag the destination tile gets. -/
  srcTag : Byte
  /-- Tag that the command writes, with the generation of the definitions that it captured at dispatch (R94, R95; log entry 18). -/
  outTag : Option Byte
  /-- Window that holds the B operand. -/
  peer : Nat × Nat
  /-- Registers read at dispatch, by lane. -/
  vregs : List (Nat × List Word)
  pend : Option Nat
  fmt : FmtCtx
  /-- Waits for the copy that brings its operand (CPYM). -/
  waits : Option Nat
  failed : Bool
  deriving DecidableEq, Repr

/-- A message, R216, R220: source core and slot, tag, destination; its bytes while it is on its way, and its length and
entry while it lies in a hamper, whose payload area holds the bytes (R327). -/
structure Message where
  srcCore : Nat
  srcSlot : Nat
  tag : Nat
  dstCore : Nat
  dstSlot : Nat
  bytes : List Byte
  len : Nat
  entry : Nat
  deriving DecidableEq, Repr

/-- The sample timer of a core: its period, next expiry, and the latched value of an armed sample, R388. -/
structure Sample where
  period : Nat
  next : Nat
  armed : Option Nat
  deriving DecidableEq, Repr

structure Core where
  part : Word
  slots : List (Option Wg)
  /-- Scratchpad rows: bytes that are not 0, and the job that last wrote each 592-byte segment. -/
  spad : List (Nat × Byte)
  owners : List (Nat × Nat)
  l1 : List (Nat × L1Line)
  l1Clock : Nat
  round : Nat
  /-- Clock that later fills of the core wait for: of every atomic and acquire its warps have performed (R145). -/
  seen : List Nat
  /-- Writes to host memory, and Vexlink ports that carried writes, since the last .SY release. -/
  hostDirty : Bool
  portsDirty : List Nat
  packets : List Packet
  /-- Copy-backs sent in the current round, by slice (R304). -/
  sent : List (Nat × Nat)
  releases : List Release
  atoms : List AtomReq
  fills : List FillReq
  /-- DISCARD.DI on the way to the slice: number, line and warp. -/
  discards : List (Nat × Nat × WarpRef)
  oplog : List LogEntry
  walkers : List Walker
  copyQueue : List Command
  /-- CPYR and SEND that wait for their XT number (R344). -/
  numbering : List Command
  arrayQueue : List TileCmd
  running : Option TileCmd
  narrow : Bool
  hamper : List Message
  preds : List Predicate
  /-- The predicates as they stood before a change in this cycle, under which its issues are evaluated (R244). -/
  oldPreds : Option (List Predicate)
  ehist : List Nat
  stall : List Nat
  pctl : Bool
  ppol : Word
  promo : List Nat
  demo : List Nat
  /-- Refusals of the herd on the lane pipe and the uniform pipe, R336. -/
  refused : Nat × Nat
  /-- What has issued in this cycle on the lane pipe and on the uniform pipe: 0 nothing, 1 a herd warp, 2 a promoted warp
  (R335, R336). -/
  pipes : Nat × Nat
  /-- Slot and warp of what has issued in this cycle (R279, R340), and the instructions the sprinter has retired in it
  (R337). -/
  went : List (Nat × Nat)
  retired : Nat
  sample : Option Sample
  nextId : Nat
  deriving DecidableEq, Repr

/-! ### Dies and slices -/

/-- The clock of a write: its die and the die clock it carries, R260. -/
structure Stamp where
  die : Nat
  vc : List Nat
  deriving DecidableEq, Repr

/-- A die's copy of a line, R259, R308 to R310: bytes by offset (the home die's copy lies over device memory and
lists the bytes written since; another die's copy lists the whole line, or, while it is stale, what the die has applied of
it), dirty words, the sharer set as the home keeps it and as it was last reported elsewhere, and the stamp of the latest write
of each byte. -/
structure Copy where
  data : List (Nat × Byte)
  dirty : Nat
  stale : Bool
  pinned : Bool
  sharers : List Nat
  stamps : List (Nat × Stamp)
  deriving DecidableEq, Repr

/-- A write or a clock-only notice on its way to another die, R260, R310, with the core and the number of the request it came
from, the count of its copy-back (R304), and, from the home, the line's sharer set. -/
structure Update where
  id : Nat
  line : Nat
  bytes : List (Nat × Byte)
  stamp : Stamp
  notice : Bool
  source : Option (Nat × Nat)
  ack : Option Nat
  sharers : Option (List Nat)
  deriving DecidableEq, Repr

/-- A write that a die has yet to originate, R260: die, line, bytes, source and count. -/
structure HeldWrite where
  die : Nat
  line : Nat
  bytes : List (Nat × Byte)
  source : Option (Nat × Nat)
  ack : Option Nat
  deriving DecidableEq, Repr

/-- A waiting lock request: warp, stamp, and push ranges. -/
structure LockReq where
  w : WarpRef
  stamp : Nat
  ranges : List Nat
  deriving DecidableEq, Repr

/-- An entry of a lock table, R306. -/
structure LockEntry where
  addr : Nat
  holder : Option WarpRef
  waiting : List LockReq
  deriving DecidableEq, Repr

/-- A lock request, or the message of an UNLOCK that frees the lock, on its way to its home slice, after the requests of its core
below a number (R360), and its place among the messages between dies (R362). -/
structure LockSend where
  w : WarpRef
  addr : Nat
  tryOnly : Bool
  ranges : List Nat
  after : Nat
  sent : Nat
  frees : Bool
  deriving DecidableEq, Repr

/-- A transaction-barrier update on its way to the home slice, R211, R201, after the requests of its core below a number
(R360), with the clock of the landings that it counts (R257). -/
structure TbUpdate where
  id : Nat
  addr : Nat
  /-- 0 TBINIT, 1 TBEXP, 2 TBARV, 3 posting of a copy, 4 landing. -/
  kind : Nat
  value : Int
  error : Bool
  w : WarpRef
  command : Option Nat
  after : Nat
  clock : List Nat
  /-- PC and barrier address of the instruction, for the trap of a refusal (R374). -/
  pc : Nat
  va : Nat
  deriving DecidableEq, Repr

/-- A slice match report on its way to the owner's core, R242, R379: the slice by die and number. -/
structure SliceReport where
  id : Nat
  slice : Nat × Nat
  core : Nat
  slot : Nat
  pred : Nat
  addr : Nat
  value : Word
  agent : Nat
  /-- `%gtime` of the match. -/
  time : Nat
  /-- Launch and number of the workgroup that owns the predicate. -/
  owner : Nat × Nat
  deriving DecidableEq, Repr

/-- A slice comparator, loaded in every slice of the package, R242, R378. -/
structure Comparator where
  core : Nat
  slot : Nat
  pred : Nat
  words : List Word
  /-- Physical extents of the range. -/
  extents : List (Nat × Nat × Nat)
  deriving DecidableEq, Repr

/-- A forward window, R312. -/
structure FwdWindow where
  base : Nat
  limit : Nat
  core : Nat
  deriving DecidableEq, Repr

/-- A wake-recorder event, R392. -/
structure WakeEvent where
  time : Nat
  code : Nat
  source : Nat
  arg : Word
  deriving DecidableEq, Repr

/-- A violation log, R373: its 16 entries, the entries written since cold reset, a mask of the slots that have been
read, and the entries overwritten before they were read. -/
structure VLog where
  entries : List (Nat × List Byte)
  written : Nat
  read : Nat
  lost : Nat
  deriving DecidableEq, Repr

def VLog.reset : VLog := ⟨[], 0, 0, 0⟩

structure Die where
  vc : List Nat
  /-- Copy-backs that its slices have applied, and that every other die has applied too, by core, round and slice (R304). -/
  applied : List (Nat × Nat)
  acked : List (Nat × Nat)
  copies : List (Nat × Copy)
  /-- Lines that the slices hold clean as home lines: they take a way, and memory has what they hold (R308). -/
  clean : List Nat
  /-- Lines that are poisoned in the slices of the die, or in the memory whose home it is, R406. -/
  poison : List Nat
  inbox : List Update
  locks : List LockEntry
  lockSends : List LockSend
  collQueue : List Command
  messages : List (Nat × Message)
  alarm : Bool
  /-- Cycle of the last estimate above the limit, R395. -/
  alarmAt : Nat
  palarm : Nat
  /-- Cycle of the last THERMAL event, R396. -/
  thermal : Option Nat
  wake : List (Nat × WakeEvent)
  wrCount : Nat
  wrMissed : Nat
  wrFreeze : Bool
  ceCount : Nat
  fwdOvf : Nat
  windows : List (Option FwdWindow)
  /-- Violation logs of its slices. -/
  vlogs : List (Nat × VLog)
  deriving DecidableEq, Repr

/-! ### Clusters -/

structure Cluster where
  powered : Bool
  /-- Cycle at which a gating request came, R390. -/
  gate : Option Nat
  buffer : List (List Byte)
  /-- Entries that the buffer has yet to take, each with its core and the slot of the workgroup that is told of its loss (R384). -/
  offered : List (Nat × Nat × List Byte)
  trctl : Word
  trbase : Nat
  trsize : Nat
  trwr : Nat
  trrd : Nat
  trlost : Nat
  deriving DecidableEq, Repr

/-! ### The cox, jobs and launches -/

/-- A counter of R330 at a level above the workgroup. -/
structure Counter where
  count : Nat
  complete : Bool
  cancelled : Bool
  error : Bool
  deriving DecidableEq, Repr

structure Job where
  id : Nat
  tbase : Nat
  closed : Bool
  debug : Bool
  counter : Counter
  graphs : List (Nat × Counter)
  phases : List (Nat × Counter)
  deriving DecidableEq, Repr

/-- A translation context, R353. -/
structure TransCtx where
  job : Nat
  table : Nat
  fixup : Nat
  timeout : Nat
  deriving DecidableEq, Repr

/-- A swapped-out workgroup, R227, R327: its image, the core it left, what it waits for, whether it was drained, and the
watch predicates it owns, and the traps queued to its warps since. `met` tells that its condition has come to hold. -/
structure Swapped where
  launch : Nat
  number : Nat
  job : Nat
  image : Nat
  bytes : Nat
  core : Nat
  wait : SwapReq
  met : Bool
  drained : Bool
  preds : List Nat
  traps : List (Nat × TrapRec)
  /-- The workgroup as it left, for what the image has no place for. -/
  kept : Wg
  deriving DecidableEq, Repr

/-- A workgroup that has left its core and is not recorded yet, R334: its place, the ERROR cause of a fatal trap with its
record, and whether that was a double trap. -/
structure LeftWg where
  launch : Nat
  number : Nat
  core : Nat
  slot : Nat
  fatal : Option TrapRec
  double : Bool
  deriving DecidableEq, Repr

/-- An instance that is to complete at the port, or that a reset has completed and that is not recorded yet, R318, R447: job,
level, id, the launch that completed it, its root queue, core and workgroup of its last workgroup, the launch that came last
whether or not the record names it, and, once it is complete, the counter. -/
structure LevelDone where
  job : Nat
  level : Nat
  id : Nat
  launch : Nat
  queue : Nat
  core : Nat
  wg : Nat
  /-- FLAGS of its record besides ERROR. -/
  flags : Nat
  last : Nat
  counter : Option Counter
  deriving DecidableEq, Repr

/-- A launch known to the cox, R222, R330. -/
structure Launch where
  id : Nat
  words : List Word
  queue : Nat
  job : Nat
  parent : Nat
  /-- Pushing launch, workgroup number and warp of a device launch. -/
  pusher : Option (Nat × Nat × Nat)
  /-- Its record has reached the cox. -/
  atCox : Bool
  admitted : Bool
  /-- Its place among the admissions (R330). -/
  turn : Nat
  /-- A cancel has completed it with nothing running (R447). -/
  idle : Bool
  /-- Linear numbers of the workgroups placed so far, and whether no more will be. -/
  placed : List Nat
  noMore : Bool
  /-- Workgroups completed. -/
  done : Nat
  counter : Counter
  /-- Cores that have held its workgroups, and the releases that its kernel boundary waits for at them, none at a core where it
has not begun (R19). -/
  cores : List Nat
  boundary : Option (List (Nat × Option Nat))
  xt : Timeline
  anchor : Option Nat
  superstep : Nat
  /-- Last XT number that the recovery step waits for, R215. -/
  caughtWait : Option Nat
  lastCore : Nat
  lastWg : Nat
  /-- The CMODE 2 add of the last completion record is still to come. -/
  owed : Nat
  /-- The phase that it names has completed. -/
  past : Bool := false
  deriving DecidableEq, Repr

/-- A queue that is open, R319: its QCB address and the fields the cox keeps. -/
structure Queue where
  id : Nat
  qcb : Nat
  en : Bool
  err : Bool
  head : Nat
  counts : List Nat
  /-- Location of its TAIL word. -/
  tail : Nat
  deriving DecidableEq, Repr

/-- A drain in progress, R328: the launch it is for (0 for a close or host request), the launches of higher priority that have
joined it (R329), and its victims by launch and workgroup number. -/
structure Drain where
  cause : Nat
  joined : List Nat
  victims : List (Nat × Nat)
  deriving DecidableEq, Repr

structure Cox where
  run : Bool
  portErr : Bool
  qtbase : Nat
  qtPending : Bool
  dsbase : Nat
  dssize : Nat
  dswr : Nat
  dsrd : Nat
  dslost : Nat
  hambase : Nat
  pcount : List Nat
  ucver : Word
  /-- The microcode image, R316. -/
  image : List Byte
  queues : List Queue
  launches : List Launch
  nextLaunch : Nat
  /-- Launches admitted so far. -/
  admits : Nat
  swapped : List Swapped
  drains : List Drain
  /-- Parts of save areas in use: address and bytes. -/
  saves : List (Nat × Nat)
  nextTicket : Nat
  /-- Cancels that warps ask for, and that wait for the port: warp, level and id. -/
  asked : List (WarpRef × Nat × Nat)
  left : List LeftWg
  levels : List LevelDone
  /-- The queue whose turn it is to place workgroups, and the placements still credited to each queue, or owed by it (R324). -/
  served : Nat
  credits : List (Nat × Int)
  deriving DecidableEq, Repr

/-! ### The management controller and the outside -/

/-- A fault record outstanding, R354: job, 64 KiB page, posting time, posting die, the 32 bytes, whether they are in the ring,
and whether nothing waits on it (R353). -/
structure FaultRec where
  id : Nat
  job : Nat
  page : Nat
  posted : Nat
  die : Nat
  bytes : List Byte
  ringed : Bool
  loose : Bool
  deriving DecidableEq, Repr

structure Port where
  up : Bool
  cls : Nat
  sw : Bool
  retry : Nat
  peer : Nat
  fences : Nat
  /-- Inbound release fences acknowledged, R366. -/
  acked : Nat
  /-- Failed replays of the flit at hand, and the cycle since which the port trains. -/
  fails : Nat
  training : Option Nat
  vlog : VLog
  deriving DecidableEq, Repr

/-- An export window, R368: its range, the source device (0 any), R, W and A in bits 0 to 2, and its key slot. -/
structure ExportWin where
  base : Nat
  limit : Nat
  peer : Nat
  perms : Nat
  key : Nat
  deriving DecidableEq, Repr

/-- A request to the host or a peer part not yet answered, R367, R371: kind 0 a read of a load, 1 an atomic, 2 a write
of a lane, 3 an engine's read, 4 an engine's write, 5 an engine's reduction, 6 the flushing read of a release, 7 a lock
request, 8 a barrier update; location, warp, outstanding write, command, Vexlink port, cycle of issue, bytes asked for,
the operation, operand and lane of an atomic, the scope of an acquire, the virtual address, and whether a MIN or MAX compares
signed (R364). -/
structure Remote where
  id : Nat
  kind : Nat
  loc : Nat
  w : WarpRef
  pc : Nat
  pend : Option Nat
  command : Option Nat
  port : Option Nat
  issued : Nat
  count : Nat
  op : Nat
  data : List Byte
  lane : Nat
  acquire : Option Nat
  va : Nat
  signed : Bool
  deriving DecidableEq, Repr

structure Mgmt where
  mcstat : Word
  hirqDrop : Nat
  devbase : Nat
  devsize : Nat
  devwr : Nat
  devrd : Nat
  devlost : Nat
  fltbase : Nat
  fltsize : Nat
  fltwr : Nat
  fltrd : Nat
  fanbase : Nat
  fansize : Nat
  fanwr : Nat
  fanrd : Nat
  dbgcmd : List Word
  /-- Low words of 64-bit registers whose high word is still to come, by address. -/
  low : List (Nat × Word)
  mbcmd : List Word
  mbstat : Word
  mbresp : List Word
  devid : Nat
  contexts : List TransCtx
  faults : List FaultRec
  nextFault : Nat
  /-- Key pairs by slot, R404. -/
  keys : List (Nat × Nat)
  exports : List (Option ExportWin)
  routes : List (Nat × Nat)
  streams : Bool
  /-- Management firmware in package flash (none: as delivered), and an image staged for the next cold reset. -/
  firmware : Option (List Byte)
  staged : Option (List Byte)

  resets : Nat
  powered : Bool
  hostAtomics : Bool
  hostVlog : VLog
  ports : List Port
  remotes : List Remote
  spdm : Nat
  /-- Base in device memory, and bytes, of the window of BAR 2 (R369). -/
  barBase : Nat
  barSize : Nat
  /-- The invalidate that runs: job, address, bytes, and the sequence number of its command (R352, R402). -/
  invals : List (Nat × Nat × Nat × Nat)
  deriving DecidableEq, Repr

/-! ### The whole -/

/-- An entry that a TLB or a walk cache of the part holds, R351: job, first address and bytes that it covers, and the leaf, or
the entry of a table above it. -/
structure TlbEntry where
  job : Nat
  va : Nat
  span : Nat
  pte : Nat
  deriving DecidableEq, Repr

/-- Whose turn it is: a warp that may issue, an event, the passing of a core cycle, a TLB and a walk cache that take
the entries of an address, or a slice that evicts a line (model's own, log entries 2 and 43). -/
inductive Turn where
  | issue (w : WarpRef)
  | event (i : Instr)
  | tick
  | tlb (job va : Nat)
  | evict (die line : Nat)
  deriving DecidableEq, Repr

/-- A thread to be stepped, R247: the warp that stepped it with HSTEP (none: the debug channel, R381), whether its
instruction is issuing in this very step, and whether it has issued and waits for an answer. -/
structure StepReq where
  w : WarpRef
  lane : Nat
  issuer : Option WarpRef
  live : Bool
  begun : Bool
  deriving DecidableEq, Repr

/-- What an MSI-X message announces, R369: a fault record, a decision record or a debug event. Which of the 2,048 vectors it takes
the spec does not say (log entry 34). -/
inductive Announce where
  | fault | decision | event
  deriving DecidableEq, Repr

/-- A command of the debug channel at a core, R381, R382: OP 2 HALT to 6 WRITE, its target and operands, and the lanes that the
answer to a RESUME names. -/
structure DebugCmd where
  op : Nat
  job : Nat
  w : WarpRef
  lane : Nat := 0
  item : Nat := 0
  value : Nat := 0
  lanes : Nat := 0
  deriving DecidableEq, Repr

/-- Everything but the contents of device memory. -/
structure Part where
  now : Nat
  focus : WarpRef
  oracle : Nat
  sched : List Turn
  stepReq : Option StepReq
  /-- Commands of the debug channel that wait at their cores, in their order of arrival, R382. -/
  debugQueue : List DebugCmd
  cores : List Core
  dies : List Die
  clusters : List Cluster
  tbUpdates : List TbUpdate
  reports : List SliceReport
  comparators : List (Option Comparator)
  tailWords : List (Nat × Nat)
  /-- Entries that the TLBs and walk caches hold, R351, R352. -/
  tlb : List TlbEntry
  jobs : List Job
  cox : Cox
  mgmt : Mgmt
  /-- Bytes of the last response to the host or a peer, and whether it was an error: the Vexlink error acknowledgement or the
  Unsupported Request status (R374). -/
  reply : List Byte
  replyError : Bool
  /-- Answers to the lock requests of peers that leave in this cycle: granted, or refused to a TRY (R368). -/
  answers : List (WarpRef × Bool)
  /-- MSI-X messages that leave in this cycle (R369). -/
  msix : List Announce
  /-- Lines of device memory that were written to memory under a key, with the key pair (R404). -/
  sealed : List (Nat × Nat)
  /-- Writes that wait while a die's outgoing writes are held (R260). -/
  heldWrites : List HeldWrite
  nextCommand : Nat
  deriving DecidableEq, Repr

structure State where
  dram : Memory
  part : Part
  deriving DecidableEq, Repr

/-! ### Reset, R397, R398, and workgroup start, R21 -/

/-- A thread when its workgroup starts, R21: n registers of zero with tag RAW32, predicates false. -/
def Thread.start (pc n : Nat) (launched : Bool) : Thread :=
  { pc := pc, st := if launched then .live .ready else .never, v := List.replicate n 0,
    tags := List.replicate n tagRaw32, p := List.replicate 7 false, passed := 0, oneShot := false,
    yielded := false, retry := false, begun := false, safePc := 0, reqDone := false, since := 0, saved := none }

/-- A warp when its workgroup starts, R21: s0:2 holds the parameter block VA, everything else is zero. -/
def Warp.start (pc n param first threads now : Nat) : Warp :=
  { threads := (List.range 32).map (fun l => Thread.start pc n (decide (first + l < threads))),
    s := [word param, word (param / 2 ^ 32)] ++ List.replicate 62 0, q := List.replicate 7 false,
    tcause := 0, tlanes := 0, tepc := 0, taddr := 0, tinfo0 := 0, tinfo1 := 0, tskid := 0,
    tsave := List.replicate 4 0, tqueue := [], tlost := 0, fstat := 0, ften := 0, hchk := false,
    trapMode := false, pend := [], recent := [], seq := 0, kPark := false, gapEnd := 0, holdWhy := none, yPend := false, conv := [],
    lock := none, lockWait := none, lockDone := [], xwait := none, multi := [], emptyTimer := 0, haltCause := 0, ownHalt := false,
    sprint := none, candidate := none, lastIssue := now, release := none, heldCmd := [], answer := none, granted := [],
    skid := none, watchAt := none, stored := [] }

/-- A tile when its workgroup starts, R21: +0.0 throughout, tag FP32. -/
def Tile.start : Tile := ⟨[], tagFp32⟩

def Barrier.start : Barrier := ⟨false, none, []⟩

def Predicate.start : Predicate := ⟨List.replicate 8 0, none, false, 0, false⟩

/-- A core after reset, R28, R317, R338, R231. -/
def Core.reset : Core :=
  { part := 0, slots := List.replicate 48 none, spad := [], owners := [], l1 := [], l1Clock := 0, round := 0,
    seen := [0, 0, 0, 0], hostDirty := false, portsDirty := [], packets := [], sent := [], releases := [], atoms := [], fills := [], discards := [], oplog := [], walkers := [],
    copyQueue := [], numbering := [], arrayQueue := [], running := none, narrow := false, hamper := [],
    preds := List.replicate 16 Predicate.start, oldPreds := none, ehist := List.replicate 9 0, stall := List.replicate 16 0,
    pctl := true, ppol := 0x04E2109C, promo := List.replicate 3 0, demo := List.replicate 2 0, refused := (0, 0),
    pipes := (0, 0), went := [], retired := 0, sample := none, nextId := 0 }

def Die.reset : Die :=
  { vc := [0, 0, 0, 0], applied := [], acked := [], copies := [], clean := [], poison := [], inbox := [], locks := [], lockSends := [], collQueue := [], messages := [],
    alarm := false, alarmAt := 0, palarm := 0, thermal := none, wake := [], wrCount := 0, wrMissed := 0, wrFreeze := false,
    ceCount := 0, fwdOvf := 0, windows := List.replicate 8 none, vlogs := [] }

def Cluster.reset : Cluster :=
  { powered := true, gate := none, buffer := [], offered := [], trctl := 0, trbase := 0, trsize := 0, trwr := 0, trrd := 0,
    trlost := 0 }

def Counter.zero : Counter := ⟨0, false, false, false⟩

def Cox.reset : Cox :=
  { run := false, portErr := false, qtbase := 0, qtPending := false, dsbase := 0, dssize := 0, dswr := 0,
    dsrd := 0, dslost := 0, hambase := 0, pcount := List.replicate 16 0, ucver := 0, image := [], queues := [],
    launches := [], nextLaunch := 1, admits := 0, swapped := [], drains := [], saves := [], nextTicket := 1, asked := [], left := [], levels := [], served := 0, credits := [] }

def Port.reset : Port := ⟨false, 0, false, 0, 0, 0, 0, 0, none, VLog.reset⟩

def Mgmt.reset : Mgmt :=
  { mcstat := 0, hirqDrop := 0, devbase := 0, devsize := 0, devwr := 0, devrd := 0, devlost := 0, fltbase := 0,
    fltsize := 0, fltwr := 0, fltrd := 0, fanbase := 0, fansize := 0, fanwr := 0, fanrd := 0,
    dbgcmd := List.replicate 8 0, low := [], mbcmd := List.replicate 32 0, mbstat := 0, mbresp := List.replicate 32 0, devid := 0, contexts := [],
    faults := [], nextFault := 1, keys := [], exports := List.replicate 32 none, routes := [], streams := true,
    firmware := none, staged := none, resets := 0, powered := true, hostAtomics := false, hostVlog := VLog.reset,
    ports := List.replicate 16 Port.reset, remotes := [], spdm := 0, barBase := 0, barSize := 2 ^ 40, invals := [] }

def Part.reset : Part :=
  { now := 0, focus := ⟨0, 0, 0⟩, oracle := 0, sched := [], stepReq := none, debugQueue := [],
    cores := List.replicate 256 Core.reset, dies := List.replicate 4 Die.reset,
    clusters := List.replicate 32 Cluster.reset, tbUpdates := [], reports := [],
    comparators := List.replicate 4 none, tailWords := [], tlb := [], jobs := [], cox := Cox.reset,
    mgmt := Mgmt.reset, reply := [], replyError := false, answers := [], msix := [], sealed := [], heldWrites := [], nextCommand := 0 }

/-- The part at cold reset, before bring-up (R398): every register at its reset value, memory scrubbed to zero; log entries
2 and 3. -/
def State.reset : State :=
  ⟨[], Part.reset⟩

end Sys2Proof.Machine
end

