-- ==== Sys2Proof/Machine/Ops.lean ====
section
/-! DEFINITION. The named operations over memory, warps and registers, the issuing group, and taking a trap. -/

namespace Sys2Proof.Machine

abbrev Out := Host.Outcome State Fault Refusal

/-! ### Device memory, R361 -/

/-- The byte at an address. -/
def Memory.read : Memory → Nat → Byte
  | [], _ => Memory.background
  | (k, b) :: m, a => if a = k then b else if a < k then Memory.background else Memory.read m a

/-- Write one byte, keeping the canonical form. -/
def Memory.write : Memory → Nat → Byte → Memory
  | [], a, b => if b = Memory.background then [] else [(a, b)]
  | (k, c) :: m, a, b =>
    if a < k then (if b = Memory.background then (k, c) :: m else (a, b) :: (k, c) :: m)
    else if a = k then (if b = Memory.background then m else (a, b) :: m)
    else (k, c) :: Memory.write m a b

/-- Write bytes from an address on. -/
def Memory.writeN : Memory → Nat → List Byte → Memory
  | m, _, [] => m
  | m, a, b :: bs => Memory.writeN (m.write a b) (a + 1) bs

/-! ### Cores, workgroups, warps, threads -/

def Part.core? (p : Part) (c : Nat) : Option Core :=
  p.cores[c]?

def Core.wg? (k : Core) (slot : Nat) : Option Wg :=
  (k.slots[slot]?).join

def Part.wg? (p : Part) (c slot : Nat) : Option Wg :=
  (p.core? c).bind (fun k => k.wg? slot)

def Part.warp? (p : Part) (w : WarpRef) : Option Warp :=
  (p.wg? w.core w.slot).bind (fun g => g.warps[w.warp]?)

def Part.onCore (p : Part) (c : Nat) (f : Core → Core) : Part :=
  { p with cores := modifyNth p.cores c f }

def Core.onWg (k : Core) (slot : Nat) (f : Wg → Wg) : Core :=
  { k with slots := modifyNth k.slots slot (Option.map f) }

def Part.onWg (p : Part) (c slot : Nat) (f : Wg → Wg) : Part :=
  p.onCore c (fun k => k.onWg slot f)

def Wg.onWarp (g : Wg) (i : Nat) (f : Warp → Warp) : Wg :=
  { g with warps := modifyNth g.warps i f }

def Part.onWarp (p : Part) (w : WarpRef) (f : Warp → Warp) : Part :=
  p.onWg w.core w.slot (fun g => g.onWarp w.warp f)

def Warp.onLane (w : Warp) (l : Nat) (f : Thread → Thread) : Warp :=
  { w with threads := modifyNth w.threads l f }

/-- Change the threads of the listed lanes. -/
def Warp.onLanes (w : Warp) (ls : List Nat) (f : Thread → Thread) : Warp :=
  { w with threads := w.threads.zipIdx.map (fun p => if ls.contains p.2 then f p.1 else p.1) }

def Part.onDie (p : Part) (d : Nat) (f : Die → Die) : Part :=
  { p with dies := modifyNth p.dies d f }

def Part.onCox (p : Part) (f : Cox → Cox) : Part :=
  { p with cox := f p.cox }

def Part.onMgmt (p : Part) (f : Mgmt → Mgmt) : Part :=
  { p with mgmt := f p.mgmt }

def Part.launch? (p : Part) (id : Nat) : Option Launch :=
  p.cox.launches.find? (fun l => l.id == id)

def Part.onLaunch (p : Part) (id : Nat) (f : Launch → Launch) : Part :=
  p.onCox (fun x => { x with launches := x.launches.map (fun l => if l.id = id then f l else l) })

/-- Workgroups of a launch record, R16, R222. -/
def recordTotal (ws : List Word) : Nat :=
  field (nth ws 2 0) 30 0 * field (nth ws 3 0) 15 0 * field (nth ws 3 0) 31 16

def Launch.total (l : Launch) : Nat := recordTotal l.words

def Part.job? (p : Part) (id : Nat) : Option Job :=
  p.jobs.find? (fun j => j.id == id)

def Part.onJob (p : Part) (id : Nat) (f : Job → Job) : Part :=
  { p with jobs := p.jobs.map (fun j => if j.id = id then f j else j) }

/-- Die, cluster and core numbers, R27. -/
def dieOf (core : Nat) : Nat := core / 64
def clusterOf (core : Nat) : Nat := core / 8

/-- Global timestamp in nanoseconds: four core cycles each, R2. -/
def Part.gtime (p : Part) : Nat := p.now / 4

def Thread.isReady (t : Thread) : Bool := t.st == .live .ready

/-- Exited, or never launched. -/
def Thread.isExited (t : Thread) : Bool := t.st == .exited || t.st == .never

def Thread.isHalted (t : Thread) : Bool :=
  match t.st with
  | .halted _ _ => true
  | _ => false

/-- A warp whose every thread has exited (R14). -/
def Warp.finished (w : Warp) : Bool := w.threads.all Thread.isExited

def Warp.anyHalted (w : Warp) : Bool := w.threads.any Thread.isHalted

/-- Lanes whose thread meets a condition. -/
def Warp.lanesWhere (w : Warp) (f : Thread → Bool) : List Nat :=
  (w.threads.zipIdx.filter (fun p => f p.1)).map (·.2)

/-- Lowest warp of a workgroup that is not exited, R274. -/
def Wg.lowestLive (g : Wg) : Option Nat :=
  minList? ((g.warps.zipIdx.filter (fun p => !p.1.finished)).map (·.2))

/-! ### The issuing group, R12, R13, R156 -/

/-- Pass-over bound of R13. -/
def passLimit : Nat := 1024

/-- PC of the next issuing group: R13 first, then YIELD (R156), then the lowest PC among ready threads (R12). -/
def Warp.nextPc (w : Warp) : Option Nat :=
  let ready := w.threads.filter Thread.isReady
  match minList? ((ready.filter (fun t => decide (passLimit ≤ t.passed))).map (·.pc)) with
  | some pc => some pc
  | none =>
    match minList? ((ready.filter (fun t => !t.yielded)).map (·.pc)) with
    | some pc => some pc
    | none => minList? (ready.map (·.pc))

/-- Lanes of the ready threads at a PC. -/
def Warp.groupAt (w : Warp) (pc : Nat) : List Nat :=
  w.lanesWhere (fun t => t.isReady && t.pc == pc)

/-! ### Predicates, guards and register reads -/

/-- p or q predicate r, 7 reading true (R21). -/
def predAt (ps : List Bool) (r : Nat) : Bool :=
  if r = 7 then true else nth ps r false

/-- Write predicate r; 7 discards the write (R21). -/
def setPred (ps : List Bool) (r : Nat) (b : Bool) : List Bool :=
  if r = 7 then ps else setNth ps r b

/-- Lane number under which registers of the warp stand in outstanding writes. -/
def warpLane : Nat := 32

/-- Place i among the free values of one step, log entry 1: 0 to 4,223 what a read of lane × 128 + target sees, from 8,192 on
which of two writes stands (R39), from 2^36 on a line or a byte. -/
def freeAt (oracle i : Nat) : Nat := 2 ^ 40 * oracle + i

/-- A code of a target, for the free values of R39. -/
def Target.code : Target → Nat
  | .v r => r
  | .p r => 64 + r
  | .s r => r
  | .q r => 64 + r

/-- An outstanding write of one target: whether a later read is to see it by the rules of R37 (a fixed-latency one, or one
that a K has covered), whether its latency is fixed, its value where it is known, and its tag. -/
structure Hit where
  sure : Bool
  fixed : Bool
  value : Option Word
  tag : Byte
  deriving DecidableEq, Repr

/-- The outstanding writes of one target, oldest first. -/
def Warp.hits (w : Warp) (lane : Nat) (t : Target) : List Hit :=
  w.pend.flatMap (fun e => (e.lanes.filter (fun l => l.lane == lane)).flatMap (fun l =>
    (l.targets.zipIdx.filter (fun q => q.1 == t)).map
      (fun q => ⟨e.due.isSome || e.covered, e.due.isSome, l.values.map (fun vs => nth vs q.2 0), nth l.tags q.2 0⟩)))

/-- A read of a target sees the outstanding variable-latency write to it: freely, for each thread (R39). -/
def readsNew (oracle lane : Nat) (t : Target) : Bool := Config.freeBit (freeAt oracle (lane * 128 + t.code))

/-- The outstanding write that a read of a target sees, R38, R39: on the herd none of a fixed latency; on the sprinter,
whose dependence checks take the place of K, the newest of those that the rules of R37 let it see. A variable-latency one
is seen or not, freely. -/
def Warp.seen? (w : Warp) (oracle lane : Nat) (t : Target) : Option Hit :=
  let hs := w.hits lane t
  let free := (hs.filter (fun h => !h.fixed && !(h.sure && w.sprint.isSome))).getLast?
  if free.isSome && readsNew oracle lane t then free
  else if w.sprint.isSome then (hs.filter (fun h => h.sure)).getLast?
  else none

/-- What a read of a target gives, from its committed value and tag. An instruction that is to see a value which has not
returned is held before it reads (Ctx.unreturned). -/
def Warp.readTarget (w : Warp) (oracle lane : Nat) (t : Target) (old : Word) (oldTag : Byte) : Word × Byte :=
  match w.seen? oracle lane t with
  | some ⟨_, _, some v, g⟩ => (v, g)
  | _ => (old, oldTag)

/-- What a body reads: registers, tags and predicates by lane, and the registers of the warp. -/
structure Env where
  v : Nat → Nat → Word
  tag : Nat → Nat → Byte
  p : Nat → Nat → Bool
  s : Nat → Word
  q : Nat → Bool
  fmt : FmtCtx
  group : List Nat
  acting : List Nat

/-- Thread of a lane. -/
def Warp.lane? (w : Warp) (l : Nat) : Option Thread := w.threads[l]?

def Warp.vreg (w : Warp) (oracle l r : Nat) : Word × Byte :=
  match w.lane? l with
  | none => (0, 0)
  | some t => w.readTarget oracle l (.v r) (nth t.v r 0) (nth t.tags r 0)

def Warp.preg (w : Warp) (oracle l r : Nat) : Bool :=
  match w.lane? l with
  | none => false
  | some t =>
    if r = 7 then true
    else (w.readTarget oracle l (.p r) (wordOfBool (predAt t.p r)) 0).1 != 0

def Warp.sreg (w : Warp) (oracle r : Nat) : Word :=
  (w.readTarget oracle warpLane (.s r) (nth w.s r 0) 0).1

def Warp.qreg (w : Warp) (oracle r : Nat) : Bool :=
  if r = 7 then true
  else (w.readTarget oracle warpLane (.q r) (wordOfBool (predAt w.q r)) 0).1 != 0

/-! ### Committing register writes, R54 -/

def Thread.putV (t : Thread) (r : Nat) (x : Word) (g : Byte) : Thread :=
  { t with v := setNth t.v r x, tags := setNth t.tags r g }

/-- Commit one write to a thread. -/
def Thread.put (t : Thread) (tg : Target) (x : Word) (g : Byte) : Thread :=
  match tg with
  | .v r => t.putV r x g
  | .p r => { t with p := setPred t.p r (x != 0) }
  | _ => t

/-- Commit one write to the registers of a warp. -/
def Warp.putS (w : Warp) (tg : Target) (x : Word) : Warp :=
  match tg with
  | .s r => { w with s := setNth w.s r x }
  | .q r => { w with q := setPred w.q r (x != 0) }
  | _ => w

/-- Commit a list of writes of one lane. An exited thread discards what returns for it (R155). -/
def Warp.commitWrites (w : Warp) (lane : Nat) : List (Target × Word × Byte) → Warp
  | [] => w
  | (tg, x, g) :: r =>
    let w := if lane = warpLane then w.putS tg x
      else w.onLane lane (fun t => if t.isExited then t else t.put tg x g)
    Warp.commitWrites w lane r

/-- The writes of a lane whose values are known. -/
def PendLane.writes (l : PendLane) : List (Target × Word × Byte) :=
  match l.values with
  | none => []
  | some vs => l.targets.zipIdx.map (fun p => (p.1, nth vs p.2 0, nth l.tags p.2 0))

def PendLane.known (l : PendLane) : Bool := l.values.isSome

/-- An outstanding write without some of its targets: each becomes the discarded predicate p7. -/
def Pend.without (e : Pend) (gone : Nat → Target → Bool) : Pend :=
  { e with lanes := e.lanes.map (fun x => { x with targets := x.targets.map (fun t => if gone x.lane t then Target.p 7 else t) }) }

/-- Lanes of an outstanding write hold a target. -/
def namesTarget (ls : List PendLane) (lane : Nat) (t : Target) : Bool := ls.any (fun x => x.lane == lane && x.targets.contains t)

/-- Commit the lanes of an entry whose values are known, with its flags; the rest stays outstanding. Of two writes to one register
the one that issued later stays: an earlier one of fixed latency that is still to commit loses the target (log entry 38). -/
def Warp.commitEntry (w : Warp) (id : Nat) : Warp :=
  match w.pend.find? (fun e => e.id == id) with
  | none => w
  | some e =>
    let done := e.lanes.filter PendLane.known
    let rest := e.lanes.filter (fun l => !l.known)
    let older := w.pend.takeWhile (fun x => x.id != id)
    let later := w.pend.drop older.length
    let older := older.map (fun x => if x.due.isSome then x.without (namesTarget done) else x)
    let later := if rest.isEmpty then later.drop 1 else { e with lanes := rest, flags := 0, raised := [] } :: later.drop 1
    let w := done.foldl (fun w l => w.commitWrites l.lane l.writes) w
    { w with pend := older ++ later, fstat := w.fstat ||| e.flags, kPark := w.kPark && !(older ++ later).isEmpty }

/-- Commit every entry that meets a condition, oldest first. -/
def Warp.commitWhere (w : Warp) (f : Pend → Bool) : Warp :=
  ((w.pend.filter f).map (·.id)).foldl Warp.commitEntry w

/-- Fixed-latency results commit exactly at their cycle, R54; those that a format predicate is to see at that cycle too
(`Part.commitRaised`). -/
def Warp.commitDue (w : Warp) (now : Nat) : Warp :=
  w.commitWhere (fun e => match e.due with
    | some d => decide (d ≤ now) && e.raised.isEmpty
    | none => false)

/-- Rule (c) of R37 broken: a write to a register with a variable-latency write outstanding. For each thread freely
one of the two writes is dropped (R39, log entry 7): the answer tells whether the new one stays. -/
def Warp.newWins (_w : Warp) (oracle lane : Nat) (t : Target) : Bool :=
  Config.freeBit (freeAt oracle (8192 + lane * 128 + t.code))

/-- Add an outstanding write, resolving breaks of rule (c). -/
def Warp.addPend (w : Warp) (oracle : Nat) (e : Pend) : Warp :=
  let clash (l : Nat) (t : Target) : Bool := (w.hits l t).any (fun h => !h.sure)
  let loses (l : Nat) (t : Target) : Bool := clash l t && !w.newWins oracle l t
  let wins (l : Nat) (t : Target) : Bool := clash l t && w.newWins oracle l t
  let old := w.pend.map (fun o => if o.due.isNone && !o.covered
    then o.without (fun l t => namesTarget e.lanes l t && wins l t) else o)
  if e.lanes.isEmpty && e.flags = 0 then w else { w with pend := old ++ [e.without loses] }

/-! ### Traps, R273 to R280 -/

def causeIllOpc : Nat := 0
def causeIllAlign : Nat := 1
def causeIllField : Nat := 2
def causePriv : Nat := 3
def causeHazard : Nat := 4
def causeBadTarget : Nat := 5
def causeCodeFault : Nat := 6
def causeSwTrap : Nat := 7
def causeFmtIllegal : Nat := 8
def causeFmtMismatch : Nat := 9
def causeFmtStale : Nat := 10
def causeFmtNotreg : Nat := 11
def causeFpInvalid : Nat := 12
def causeFpDivzero : Nat := 13
def causeFpOverflow : Nat := 14
def causeFpUnderflow : Nat := 15
def causeIntOvf : Nat := 16
def causeLayoutBad : Nat := 17
def causeTileBad : Nat := 18
def causePartition : Nat := 19
def causeXlate : Nat := 20
def causeProt : Nat := 21
def causeOob : Nat := 22
def causeBufBad : Nat := 23
def causeMisalign : Nat := 24
def causePathAtomic : Nat := 25
def causePoison : Nat := 26
def causeKeyBad : Nat := 27
def causeMcPartial : Nat := 28
def causeEmptyTimeout : Nat := 29
def causeLockMisuse : Nat := 30
def causeBarMisuse : Nat := 31
def causeCpyFault : Nat := 32
def causeCpyBad : Nat := 33
def causeMmaBad : Nat := 34
def causeTlError : Nat := 35
def causeTbBad : Nat := 36
def causeMsgOverflow : Nat := 37
def causeMsgBad : Nat := 38
def causeLaunchBad : Nat := 39
def causeLaunchDenied : Nat := 40
def causeCwaitBad : Nat := 41
def causeCatchBad : Nat := 42
def causeTopkBad : Nat := 43
def causeCollFault : Nat := 44
def causeLinkDown : Nat := 45
def causeHostErr : Nat := 46
def causeEngTimeout : Nat := 47
def causeBkpt : Nat := 48
def causeWatch : Nat := 49
def causeStep : Nat := 50
def causeCodeBreak : Nat := 51
def causeSibHalt : Nat := 52
def causeCancel : Nat := 53
def causePreempt : Nat := 54
def causeCsrBad : Nat := 55
def causeHaltReq : Nat := 56
def causeTraceFull : Nat := 57
def causeMachineCheck : Nat := 58
def causeRecvTrunc : Nat := 59
def causeConvBad : Nat := 60
def causeStmcBad : Nat := 61
def causeDeadline : Nat := 62
def causeHostIrq : Nat := 63

/-- Kinds of R273. -/
inductive Kind where
  | precise | imprecise | notice | halt | fatal
  deriving DecidableEq, Repr

/-- Kind of a trap record, R280. -/
def TrapRec.kind (r : TrapRec) : Kind :=
  if r.cause = causePreempt || r.cause = causeTraceFull || r.cause = causeHostIrq then .notice
  else if r.cause = causeStep || r.cause = causeSibHalt || r.cause = causeHaltReq then .halt
  else if r.cause = causeMachineCheck || r.cause = causeDeadline then .fatal
  else if r.imp then .imprecise else .precise

/-- One more cause of a halt. -/
def addHalt (bs : List HaltBy) (b : HaltBy) : List HaltBy := if bs.contains b then bs else bs ++ [b]

/-- Halt a thread, keeping the state it held (R246). -/
def Thread.halt (t : Thread) (by_ : HaltBy) : Thread :=
  match t.st with
  | .live l => { t with st := .halted l [by_] }
  | .halted l bs => { t with st := .halted l (addHalt bs by_) }
  | _ => t

/-- A thread is halted by one of some causes. -/
def Thread.haltedBy (t : Thread) (f : HaltBy → Bool) : Bool :=
  match t.st with
  | .halted _ bs => bs.any f
  | _ => false

/-- End the halts of a thread made for some causes: it stays halted where another cause is left. -/
def Thread.unhalt (t : Thread) (f : HaltBy → Bool) : Thread :=
  match t.st with
  | .halted l bs =>
    let rest := bs.filter (fun b => !f b)
    if rest.isEmpty then { t with st := .live l, oneShot := true } else { t with st := .halted l rest }
  | _ => t

/-- Halt every thread of a warp. -/
def Warp.haltAll (w : Warp) (bs : List HaltBy) : Warp := { w with threads := w.threads.map (fun t => bs.foldl Thread.halt t) }

def HaltBy.isBroadcast : HaltBy → Bool
  | .broadcast _ => true
  | _ => false

/-- Instructions of a promoted warp that have issued and not retired, R337. -/
def Warp.window (w : Warp) : List Pend := if w.sprint.isSome then w.pend.filter (fun e => !e.foreign) else []

/-- The unretired instructions of a promoted warp are discarded, and each thread stands again at the oldest of them that it was
to execute, R337, R150. -/
def Warp.discard (w : Warp) : Warp :=
  let gone := w.window.filter (fun e => !e.firm)
  let back (q : Thread × Nat) : Thread := match gone.find? (fun e => e.group.contains q.2) with
    | none => q.1
    | some e => { q.1 with pc := e.pc, retry := false, begun := false }
  if gone.isEmpty then w
  else { w with threads := w.threads.zipIdx.map back, pend := w.pend.filter (fun e => e.foreign || e.firm) }

/-- The warp is parked by K, R50: on the herd, while a write that a K covers is outstanding. -/
def Warp.parkK (w : Warp) : Warp := { w with kPark := w.sprint.isNone && w.pend.any (fun e => e.covered) }

/-- Back to the herd, R36, R337: the unretired instructions are discarded; one that stands has its results, but where a format
predicate is still to see them as they commit. -/
def Warp.demote (w : Warp) : Warp :=
  if w.sprint.isNone then w
  else { w.discard.commitWhere (fun e => e.due.isSome && e.raised.isEmpty) with sprint := none }.parkK

/-- A warp stops after n instructions past a halt signal, R279: its threads are halted, TSKID counts the instructions, the
halt cause is SIB_HALT, and a promoted warp returns to the herd (R337). -/
def Warp.stopSkid (w : Warp) (bs : List HaltBy) (n : Nat) : Warp :=
  let w := w.demote.haltAll bs
  { w with tskid := n, skid := none, haltCause := causeSibHalt, ownHalt := w.ownHalt || bs.contains .watch }

/-- The most instructions of a warp past a halt signal, and the cycles within which it stops, R279. -/
def skidLimit : Nat := 3
def skidCycles : Nat := 32

/-- A halt signal reaches a warp, R279: one with no thread that could issue or parked by K, with a trap queued or in trap mode
stops at once (log entry 8); any other begins its skid. -/
def Warp.signal (by_ : HaltBy) (w : Warp) : Warp :=
  if w.nextPc.isNone || w.kPark || !w.tqueue.isEmpty || w.trapMode then w.stopSkid [by_] 0
  else
    match w.skid with
    | some k => { w with skid := some { k with by_ := addHalt k.by_ by_ } }
    | none => { w with skid := some ⟨0, 0, [by_]⟩ }

/-- Some warp of the workgroup has yet to stop, R274: no other warp of it issues. -/
def Wg.skidding (g : Wg) : Bool := g.warps.any (fun w => w.skid.isSome)

/-- Record PC and state of a live thread and send it to the handler, R274, with the waits recorded as R276 says. -/
def Thread.enterHandler (tbase : Nat) (t : Thread) : Thread :=
  if t.isExited then t
  else
    let st := match t.st with
      | .live (.parked (.bar i z)) => TState.live (.parked (.bar i z))
      | .live (.parked (.conv z)) => .live (.parked (.conv z))
      | .live (.parked (.catchStep z)) => .live (.parked (.catchStep z))
      | .live (.parked _) => .live .ready
      | x => x
    { t with saved := some (t.pc, st), pc := tbase, st := .live .ready, retry := false, begun := false }

/-- The control registers of a trap record, R274. -/
def Warp.loadRecord (w : Warp) (r : TrapRec) : Warp :=
  { w with tcause := word ((if r.imp then 2 ^ 31 else 0) + r.cause), tlanes := word r.lanes, tepc := r.epc,
           taddr := r.addr, tinfo0 := r.info0, tinfo1 := r.info1, tskid := 0 }

/-- Dispose of a workgroup: it stays halted with the record; the rest follows when its engines have finished
(R277). -/
def Wg.dispose (g : Wg) (r : TrapRec) : Wg :=
  let stop (w : Warp) : Warp :=
    { w.demote.haltAll [.fatal] with haltCause := r.cause, tqueue := [], skid := none }
  { g with dead := some (g.dead.getD r), warps := g.warps.map stop }

/-- The warp with a record in trap mode at the handler's address. What it has issued and not retired on the sprinter it issues again
after the handler. -/
def Warp.enterTrap (w : Warp) (tbase : Nat) (r : TrapRec) : Warp :=
  let w := w.discard.loadRecord r
  { w with threads := w.threads.map (Thread.enterHandler tbase), trapMode := true, kPark := false, emptyTimer := 0, heldCmd := [],
           answer := none, granted := [], skid := none }

/-- A queue entry for warp i: 8 slots, the one in service counted (R278); a full queue drops the entry and counts
it. -/
def Warp.enqueueTrap (w : Warp) (r : TrapRec) : Warp :=
  if w.tqueue.length + (if w.trapMode then 1 else 0) ≥ 8 then { w with tlost := min 255 (w.tlost + 1) }
  else { w with tqueue := w.tqueue ++ [r] }

/-- An imprecise trap for warp i: to the lowest live warp when every thread of it has exited (R274); discarded when
no warp is left. -/
def Wg.queueTrap (g : Wg) (i : Nat) (r : TrapRec) : Wg :=
  let fin := match g.warps[i]? with
    | none => true
    | some w => w.finished
  if fin then
    match g.lowestLive with
    | none => g
    | some j => g.onWarp j (fun w => w.enqueueTrap r)
  else g.onWarp i (fun w => w.enqueueTrap r)

/-- A TRACE_FULL notice with the entries that a workgroup has lost, R389: one at a time. One that finds the trap queue full is
dropped (R278), and the next one carries its entries too. -/
def Wg.tellTrace (g : Wg) : Wg :=
  let i := g.lowestLive.getD 0
  let r : TrapRec := { imp := true, cause := causeTraceFull, lanes := 0, epc := 0, addr := 0, info0 := word g.traceLost, info1 := 0 }
  let h := g.queueTrap i r
  let waiting (x : Wg) : Nat := ((x.warps[i]?).map (fun w => w.tqueue.length)).getD 0
  if g.traceNotice || g.traceLost = 0 then g
  else if waiting h = waiting g then h else { h with traceLost := 0, traceNotice := true }

/-- Deliver one record to warp i of a workgroup, R274: signal the other warps to halt, load the record, send every live
thread of the warp to TBASE in trap mode. TBASE = 0 discards a notice and disposes of the workgroup otherwise. A TRACE_FULL notice
is followed by the next, where more entries have been lost since (R389). -/
def Wg.deliver (g : Wg) (tbase i : Nat) (r : TrapRec) : Wg :=
  let told : Wg := if r.cause = causeTraceFull then { g with traceNotice := false } else g
  if r.kind = .fatal then g.dispose r
  else if tbase = 0 then (if r.kind = .notice then told else g.dispose r)
  else
    let h : Wg := { told with
      warps := g.warps.zipIdx.map (fun p => if p.2 = i then p.1.enterTrap tbase r else p.1.signal (.broadcast i)), broadcast := some i }
    if r.cause = causeTraceFull then h.tellTrace else h

/-- The oldest queued trap of warp i is delivered, R276. -/
def Wg.deliverNext (g : Wg) (tbase i : Nat) : Wg :=
  match g.warps[i]? with
  | none => g
  | some w =>
    match w.tqueue with
    | [] => g
    | r :: rest => (g.onWarp i (fun w => { w with tqueue := rest })).deliver tbase i r

/-- The record that a warp in trap mode handles. -/
def Warp.inService (w : Warp) : TrapRec :=
  { imp := field w.tcause 31 31 == 1, cause := field w.tcause 5 0, lanes := w.tlanes.toNat, epc := w.tepc, addr := w.taddr,
    info0 := w.tinfo0, info1 := w.tinfo1 }

/-- The higher-numbered warp whose precise trap was delivered in this very cycle, before that of warp i which it signalled (R279).
-/
def Wg.outrun (g : Wg) (i : Nat) (k : Skid) : Option Nat :=
  match g.broadcast with
  | none => none
  | some j =>
    let precise := ((g.warps[j]?).map (fun w => w.trapMode && w.inService.kind == .precise)).getD false
    if k.age = 0 && decide (i < j) && k.by_.contains (.broadcast j) && precise then some j else none

/-- A delivery taken back: the warp stands at its trapping instruction again with the trap in its queue, and what it has halted goes
on. -/
def Wg.standBack (g : Wg) (j : Nat) : Wg :=
  let back (t : Thread) : Thread := match t.saved with
    | none => t
    | some (pc, st) => { t with pc := pc, st := st, saved := none }
  let undo (q : Warp × Nat) : Warp :=
    if q.2 = j then
      { q.1 with threads := q.1.threads.map back, trapMode := false, tqueue := q.1.inService :: q.1.tqueue }.parkK
    else
      { q.1 with threads := q.1.threads.map (fun t => { t.unhalt (fun b => b == .broadcast j) with oneShot := t.oneShot }),
                 skid := q.1.skid.filter (fun k => !k.by_.all (fun b => b == .broadcast j)) }
  { g with warps := g.warps.zipIdx.map undo, broadcast := none }

/-- A precise trap raised by warp i, R275, R276: delivered at once in user mode; fatal in trap mode, the handler's
record kept (a double trap, flagged by IMP = 0 and trap mode). Results already issued commit in their time (R54, R284). A
warp in its skid stops at its trapping instruction, with the trap in its queue; but of two warps that trap in one cycle the
lower-numbered delivers first, and the other stops at its own (R279). -/
def Wg.takeTrap (g : Wg) (tbase i : Nat) (r : TrapRec) : Wg :=
  match g.warps[i]? with
  | none => g
  | some w =>
    if w.trapMode then { g.dispose r with double := true }
    else
      match w.skid with
      | none => g.deliver tbase i r
      | some k =>
        match g.outrun i k with
        | some j => (g.standBack j).deliver tbase i r
        | none => g.onWarp i (fun w => (w.enqueueTrap r).stopSkid k.by_ k.issued)

/-- A thread that RTE sends to TEPC while it waits goes on there, not after it, when the wait ends. -/
def WaitFor.redirected : WaitFor → WaitFor
  | .bar i _ => .bar i 0
  | .conv _ => .conv 0
  | .catchStep _ => .catchStep 0
  | w => w

def TState.redirected : TState → TState
  | .live (.parked w) => .live (.parked w.redirected)
  | .halted (.parked w) c => .halted (.parked w.redirected) c
  | st => st

/-- Return from trap mode, R236: threads of TLANES resume at TEPC, the others at their recorded PC, each in its
recorded state; the halts of this trap's broadcast end; a queued trap is delivered next. -/
def Wg.returnFromTrap (g : Wg) (tbase i : Nat) : Wg :=
  let back (w : Warp) (q : Thread × Nat) : Thread :=
    let t := q.1
    if t.isExited then t
    else
      let (pc, st) := t.saved.getD (t.pc, .live .ready)
      let moved := bitNat w.tlanes.toNat q.2 = 1
      { t with pc := if moved then w.tepc else pc, st := if moved then st.redirected else st, saved := none, oneShot := true,
               retry := false, begun := false }
  let mine (t : Thread) : Thread := t.unhalt (fun b => b == .broadcast i)
  let ret (p : Warp × Nat) : Warp :=
    let w := p.1
    if p.2 = i then { w with threads := w.threads.zipIdx.map (back w), trapMode := false }.parkK
    else
      let w := { w with threads := w.threads.map mine }
      let still := w.ownHalt || w.threads.any (fun t => t.haltedBy HaltBy.isBroadcast)
      { w with haltCause := if w.haltCause = causeSibHalt && !still then 0 else w.haltCause }
  let g : Wg := { g with warps := g.warps.zipIdx.map ret, broadcast := none }
  g.deliverNext tbase i

end Sys2Proof.Machine
end

