-- ==== Sys2Proof/Machine/Slice.lean ====
section
/-! DEFINITION. The slices of the four dies: homes, die clocks, the causal order of writes and the values the dies
hold (R259 to R263, R308 to R310, R312). -/

namespace Sys2Proof.Machine

/-- Bytes of device memory homed at one die, R361. -/
def homeSpan : Nat := 0x2400000000

/-- A location of device memory is a physical address under a key slot (R404; log entry 34): the slot times 2^52 and the
address. -/
def keySpan : Nat := 2 ^ 52

/-- A location of device memory; host and peer locations lie above it (R348). -/
def isDevice (loc : Nat) : Bool := decide (loc < 2 ^ 64) && decide (loc % keySpan < 4 * homeSpan)

def homeDie (loc : Nat) : Nat := loc % keySpan / homeSpan

/-- A location in host memory (target 1) or in a peer part (target 2), R348. -/
def remoteLoc (tgt addr : Nat) : Nat := tgt * 2 ^ 64 + addr

/-- The physical address of a location of device memory, and its key slot; other locations have none. -/
def physical (loc : Nat) : Nat := if loc < 2 ^ 64 then loc % keySpan else loc

def keySlot (loc : Nat) : Nat := if loc < 2 ^ 64 then loc / keySpan else 0

/-- A physical address under a key slot. -/
def underKey (slot addr : Nat) : Nat := slot * keySpan + addr

def locTarget (loc : Nat) : Nat := loc / 2 ^ 64

def lineOf (loc : Nat) : Nat := loc / 128

/-- The physical line of a line. -/
def plainLine (line : Nat) : Nat := lineOf (physical (128 * line))

/-- The slice index of R308. -/
def sliceOf (loc : Nat) : Nat :=
  Nat.xor (Nat.xor (bitsNat loc 11 7) (bitsNat loc 16 12)) (bitsNat loc 21 17)

/-- Slice that serves a line. -/
def lineSlice (line : Nat) : Nat := sliceOf (128 * line)

/-- Serial-number comparison modulo 2^32, R260. -/
def serialLe (a b : Nat) : Bool := decide ((b + 2 ^ 32 - a % 2 ^ 32) % 2 ^ 32 < 2 ^ 31)

def vcLe (a b : List Nat) : Bool :=
  (List.range 4).all (fun i => serialLe (nth a i 0) (nth b i 0))

/-- w is before w', R261. -/
def Stamp.before (w w' : Stamp) : Bool := vcLe w.vc w'.vc && w != w'

/-- Whether a write with stamp w replaces a value written with stamp c, R261. -/
def Stamp.replaces (w c : Stamp) : Bool :=
  c.before w || (!w.before c && w != c && decide (w.die < c.die))

def Copy.empty : Copy := ⟨[], 0, false, false, [], []⟩

/-- Apply the bytes of a write under R261, byte by byte, so that byte-masked writes converge too (log entry 20). -/
def Copy.apply (c : Copy) (st : Stamp) (bytes : List (Nat × Byte)) : Copy :=
  let wins (o : Nat) : Bool := match lookupKey o c.stamps with
    | none => true
    | some s => st.replaces s
  let bs := bytes.filter (fun b => wins b.1)
  { c with
    data := bs.foldl (fun d b => insertKey b.1 b.2 d) c.data,
    dirty := bs.foldl (fun m b => m ||| 2 ^ (b.1 / 4)) c.dirty,
    stamps := bs.foldl (fun t b => insertKey b.1 st t) c.stamps }

def Part.die (p : Part) (d : Nat) : Die := nth p.dies d Die.reset

def Part.copy? (p : Part) (d line : Nat) : Option Copy := lookupKey line (p.die d).copies

/-- Whether die d holds the line: the home die always does. -/
def Part.holds (p : Part) (d line : Nat) : Bool :=
  homeDie (line * 128) == d || (p.copy? d line).isSome

def Die.onCopy (x : Die) (line : Nat) (f : Copy → Copy) : Die :=
  { x with copies := insertKey line (f ((lookupKey line x.copies).getD Copy.empty)) x.copies }

/-- A forward window of its home die lies over the line, R312. -/
def Part.windowOver (p : Part) (line : Nat) : Bool :=
  (p.die (homeDie (line * 128))).windows.any (fun w => match w with
    | none => false
    | some x => decide (x.base ≤ physical (line * 128)) && decide (physical (line * 128) < x.limit))

/-- Bring-up, test and recovery service, R401. -/
def Part.testService (p : Part) : Bool := field p.mgmt.mcstat 28 28 == 1

/-- A write to the line stays in its slice. -/
def Part.inWindow (p : Part) (line : Nat) : Bool := p.testService && p.windowOver line

/-- A write to the line is refused: a forward window lies over it in normal service (R373). -/
def Part.refused (p : Part) (line : Nat) : Bool := !p.testService && p.windowOver line

/-- Advance the clock of die d by one write of its own, R260. -/
def Die.tickClock (x : Die) (d : Nat) : Die :=
  { x with vc := setNth x.vc d ((nth x.vc d 0 + 1) % 2 ^ 32) }

/-- The sharer set of a line as the slice of die d knows it, R310. -/
def Part.sharersAt (p : Part) (d line : Nat) : List Nat := ((p.copy? d line).map (·.sharers)).getD []

/-- A die's outgoing writes are held while 2^30 of them stand unapplied at some die, R260. -/
def Part.outgoingFull (p : Part) (d : Nat) : Bool :=
  p.dies.any (fun x => decide (2 ^ 30 ≤ (nth (p.die d).vc d 0 + 2 ^ 32 - nth x.vc d 0) % 2 ^ 32))

/-- A line of a die is poisoned in its slice, R406; at the home, in memory too. -/
def Part.poisonedAt (p : Part) (d line : Nat) : Bool := (p.die d).poison.contains (plainLine line)

/-- The line is poisoned at its home. -/
def Part.poisoned (p : Part) (line : Nat) : Bool := p.poisonedAt (homeDie (line * 128)) line

/-- The mark of a line at a die. -/
def Die.setPoison (x : Die) (line : Nat) (on : Bool) : Die :=
  let rest := x.poison.filter (· != plainLine line)
  { x with poison := if on then rest ++ [plainLine line] else rest }

/-- A write of the whole line clears the mark, a partial one leaves it, R406. -/
def Die.cleanse (x : Die) (line : Nat) (bytes : List (Nat × Byte)) : Die :=
  if bytes.length = 128 then x.setPoison line false else x

/-- A write originated at die d, R259, R260, R310: applied there (a die that lacks the line keeps the bytes until its fill
comes, R309), and sent to every other die, with data to the home and to the sharer set as the die knows it, as a clock-only
notice to the others. -/
def Part.originateNow (p : Part) (d line : Nat) (bytes : List (Nat × Byte)) (source : Option (Nat × Nat)) (ack : Option Nat) :
    Part :=
  let p := p.onDie d (fun x => x.tickClock d)
  let home := homeDie (line * 128)
  let known := p.sharersAt d line
  let lacks := !p.holds d line
  let pin := p.inWindow line
  let update (e : Nat) : Update :=
    let data := e == home || known.contains e
    { id := p.nextCommand, line := line, bytes := if data then bytes else [], stamp := ⟨d, (p.die d).vc⟩, notice := !data,
      source := source, ack := ack, sharers := if d = home then some known else none }
  let p := { p with nextCommand := p.nextCommand + 1 }
  let p := p.onDie d (fun x => (x.cleanse line bytes).onCopy line (fun c =>
    { c.apply ⟨d, x.vc⟩ bytes with pinned := c.pinned || pin, stale := c.stale || lacks }))
  (List.range 4).foldl (fun p e => if e = d then p else p.onDie e (fun x => { x with inbox := x.inbox ++ [update e] })) p

/-- A write of die d: one that finds the die's outgoing writes held waits, after those that wait there already (R260). -/
def Part.originate (p : Part) (d line : Nat) (bytes : List (Nat × Byte)) (source : Option (Nat × Nat)) (ack : Option Nat) : Part :=
  if p.outgoingFull d || p.heldWrites.any (fun h => h.die == d) then
    { p with heldWrites := p.heldWrites ++ [⟨d, line, bytes, source, ack⟩] }
  else p.originateNow d line bytes source ack

/-- The writes that wait leave as far as their dies may send. -/
def Part.sendHeld (p : Part) : Part :=
  let go (p : Part) (h : HeldWrite) : Part := p.originate h.die h.line h.bytes h.source h.ack
  if p.heldWrites.isEmpty then p else p.heldWrites.foldl go { p with heldWrites := [] }

/-! ### Counts of copy-backs, R304 -/

/-- The count of a core's copy-backs of a round at a slice. The slices tell rounds apart by parity, of which at most two are
open; the model by number. -/
def roundKey (core round slice : Nat) : Nat := (round * 256 + core) * 32 + slice

def countOf (key : Nat) (t : List (Nat × Nat)) : Nat := (lookupKey key t).getD 0

def addCount (key n : Nat) (t : List (Nat × Nat)) : List (Nat × Nat) := insertKey key (countOf key t + n) t

/-- Bytes of a location on as offsets within their lines: (line, offsets and bytes), for up to n lines. -/
def splitLines : Nat → Nat → List Byte → List (Nat × List (Nat × Byte))
  | 0, _, _ => []
  | fuel + 1, loc, bs =>
    if bs.isEmpty then []
    else
      let room := 128 - loc % 128
      (lineOf loc, (bs.take room).zipIdx.map (fun b => (loc % 128 + b.2, b.1))) ::
        splitLines fuel (loc + room) (bs.drop room)

/-- An MSI-X message leaves for the host, R369. -/
def Part.announce (p : Part) (a : Announce) : Part := { p with msix := p.msix ++ [a] }

/-- A write performed at the home slices by a request of a core, or by one of the others that write there. -/
def Part.homeWriteBy (p : Part) (source : Option (Nat × Nat)) (loc : Nat) (bs : List Byte) : Part :=
  (splitLines (bs.length / 128 + 2) loc bs).foldl
    (fun p l => p.originate (homeDie (l.1 * 128)) l.1 l.2 source none) p

/-- A write at the home slices as the part's own writers, engines, the host and peers make it. -/
def Part.homeWrite (p : Part) (loc : Nat) (bs : List Byte) : Part := p.homeWriteBy none loc bs

/-- The key pair of a slot; slot 0 and an empty slot have none (R404). -/
def Part.keyAt (p : Part) (slot : Nat) : Option Nat := lookupKey slot p.mgmt.keys

/-- A read of a line under its slot finds it as it was written: under the same key, or in plain (R404). -/
def Part.readable (p : Part) (line : Nat) : Bool :=
  let slot := keySlot (128 * line)
  lookupKey (plainLine line) p.sealed == p.keyAt slot && (slot == 0 || (p.keyAt slot).isSome)

/-- The byte that the memory controllers read of a location: as it was written, or what another key makes of the line (R404). -/
def State.memByte (s : State) (loc : Nat) : Byte :=
  let line := lineOf (physical loc)
  if s.part.readable (lineOf loc) then s.dram.read (physical loc)
  else Config.otherKey (lookupKey line s.part.sealed) (s.part.keyAt (keySlot loc)) (physical loc)
      ((List.range 128).map (fun i => s.dram.read (128 * line + i)))

/-- Memory with a whole line as it reads: a line is one data unit of the cipher, so a write of some of its bytes fixes them all
(R404). -/
def State.settleLine (s : State) (line : Nat) : Memory :=
  if s.part.readable line then s.dram
  else s.dram.writeN (128 * plainLine line) ((List.range 128).map (fun i => s.memByte (line * 128 + i)))

/-- Some bytes of a line are written to memory under its slot; under an empty slot nothing is. -/
def State.writeMemory (s : State) (line : Nat) (bytes : List (Nat × Byte)) : State :=
  let slot := keySlot (128 * line)
  let at_ := plainLine line
  let write : Memory := bytes.foldl (fun m b => m.write (128 * at_ + b.1) b.2) (s.settleLine line)
  match s.part.keyAt slot with
  | some k => { s with dram := write, part := { s.part with sealed := insertKey at_ k s.part.sealed } }
  | none => if slot = 0 then { s with dram := write, part := { s.part with sealed := eraseKey at_ s.part.sealed } } else s

/-- The byte of device memory that its home die holds: its slice's copy over the memory (R262). -/
def State.homeByte (s : State) (loc : Nat) : Byte :=
  match s.part.copy? (homeDie loc) (lineOf loc) with
  | none => s.memByte loc
  | some c => (lookupKey (loc % 128) c.data).getD (s.memByte loc)

def State.homeRead (s : State) (loc n : Nat) : List Byte :=
  (List.range n).map (fun i => s.homeByte (loc + i))

/-- A little-endian word or double word of device memory as its home holds it. -/
def State.homeNat (s : State) (loc n : Nat) : Nat := leNat (s.homeRead loc n)

/-- The byte die d would serve: its own copy, none where it holds none or a stale one (R309, R310). -/
def State.dieByte (s : State) (d loc : Nat) : Option Byte :=
  if homeDie loc = d then some (s.homeByte loc)
  else match s.part.copy? d (lineOf loc) with
    | none => none
    | some c => if c.stale then none else lookupKey (loc % 128) c.data

/-- The stamps of the latest writes behind a range of bytes of a line, at the home (R262). -/
def Part.homeStamps (p : Part) (loc n : Nat) : List Stamp :=
  match p.copy? (homeDie loc) (lineOf loc) with
  | none => []
  | some c => (List.range n).filterMap (fun i => lookupKey ((loc + i) % 128) c.stamps)

/-- Die d has applied every write up to a clock, R262. -/
def Part.applied (p : Part) (d : Nat) (vc : List Nat) : Bool := vcLe vc (p.die d).vc

/-- A write or notice may be applied at die e, R260. -/
def Part.deliverable (p : Part) (e : Nat) (u : Update) : Bool :=
  let vc := (p.die e).vc
  nth u.stamp.vc u.stamp.die 0 == (nth vc u.stamp.die 0 + 1) % 2 ^ 32 &&
    (List.range 4).all (fun f => f == u.stamp.die || serialLe (nth u.stamp.vc f 0) (nth vc f 0))

/-- Apply a delivered write or notice at die e, R260, R261, R309, R310. -/
def Die.receive (x : Die) (home : Bool) (pin : Bool) (u : Update) : Die :=
  let x := { x with vc := setNth x.vc u.stamp.die (nth u.stamp.vc u.stamp.die 0),
                    inbox := x.inbox.filter (fun v => v.id != u.id) }
  let x := if home || (lookupKey u.line x.copies).isSome then x.cleanse u.line u.bytes else x
  let have_ := home || (lookupKey u.line x.copies).isSome
  let learn (c : Copy) : Copy := { c with sharers := u.sharers.getD c.sharers }
  if !have_ then x
  else if u.notice then x.onCopy u.line (fun c => learn { c with stale := true })
  else x.onCopy u.line (fun c => learn { c.apply u.stamp u.bytes with pinned := c.pinned || pin })

/-! ### Forward windows, R312 -/

/-- The consumer core of the forward window over a line. -/
def Part.consumer (p : Part) (line : Nat) : Option Nat :=
  ((p.die (homeDie (line * 128))).windows.filterMap id).findSome? (fun w =>
    if w.base ≤ physical (line * 128) ∧ physical (line * 128) < w.limit then some w.core else none)

/-- A read of a core is the first one of its pinned line by the window's consumer. -/
def Part.consumes (p : Part) (core line : Nat) : Bool :=
  p.consumer line == some core && ((p.copy? (homeDie (line * 128)) line).map (·.pinned)).getD false

/-- After such a read the line leaves the slices without a write to memory. -/
def Part.consume (p : Part) (core line : Nat) : Part :=
  if p.consumes core line then
    { p with dies := p.dies.map (fun x => { x with copies := eraseKey line x.copies, clean := x.clean.filter (· != line) }) }
  else p

/-- A home line that a slice serves is held there, clean where it was not held (R308). -/
def Part.serve (p : Part) (line : Nat) : Part :=
  let held (x : Die) : Bool := x.clean.contains line || ((lookupKey line x.copies).map (fun c => !c.data.isEmpty)).getD false
  p.onDie (homeDie (line * 128)) (fun x => if held x then x else { x with clean := x.clean ++ [line] })

end Sys2Proof.Machine
end

