-- ==== Sys2Proof/Machine/Watch.lean ====
section
/-! DEFINITION. Watch predicates (R238 to R241, R375, R444), the cluster trace buffers they write to (R384 to R389),
the events of the debug channel (R383) and of the wake recorder (R392). -/

namespace Sys2Proof.Machine

/-! ### Fields of a definition, R239 -/

def Predicate.word (d : Predicate) (i : Nat) : Word := nth d.words i 0
def Predicate.kind (d : Predicate) : Nat := field (d.word 0) 3 0
def Predicate.access (d : Predicate) : Nat := field (d.word 0) 7 4
def Predicate.action (d : Predicate) : Nat := field (d.word 0) 10 8
def Predicate.launchScope (d : Predicate) : Bool := field (d.word 0) 11 11 == 1
def Predicate.all (d : Predicate) : Bool := field (d.word 0) 12 12 == 1
def Predicate.cmp (d : Predicate) : Nat := field (d.word 0) 15 13
def Predicate.signed (d : Predicate) : Bool := field (d.word 0) 16 16 == 1
def Predicate.reg (d : Predicate) : Nat := field (d.word 0) 22 17
def Predicate.condEn (d : Predicate) : Bool := field (d.word 0) 23 23 == 1
def Predicate.addr (d : Predicate) : Nat := (d.word 1).toNat + 2 ^ 32 * field (d.word 2) 24 0
def Predicate.len (d : Predicate) : Nat := (d.word 3).toNat
def Predicate.bmask (d : Predicate) : Nat := field (d.word 4) 15 0
def Predicate.fexc (d : Predicate) : Nat := field (d.word 4) 21 16
def Predicate.value (d : Predicate) : Word := d.word 5
def Predicate.lanes (d : Predicate) : Nat := (d.word 6).toNat
def Predicate.thresh (d : Predicate) : Nat := max 1 (field (d.word 7) 23 0)

/-- The word mask of the bytes of an aligned word whose BMASK bits are set, R240. -/
def Predicate.wordMask (d : Predicate) (a : Nat) : Nat :=
  (List.range 4).foldl (fun m i => if d.bmask.testBit ((a / 4 * 4 + i) % 16) then m + 255 * 2 ^ (8 * i) else m) 0

/-- The comparison of a definition, both sides masked where R240 asks. -/
def Predicate.compare (d : Predicate) (masked : Bool) (a : Nat) (w : Word) : Bool :=
  let m := if masked || d.cmp = 6 then d.wordMask a else 2 ^ 32 - 1
  let x := w.toNat &&& m
  let y := d.value.toNat &&& m
  let lt := if d.signed then decide (toSigned 32 x < toSigned 32 y) else decide (x < y)
  match d.cmp with
  | 0 => x == y
  | 1 => x != y
  | 2 => lt
  | 3 => lt || x == y
  | 4 => !lt && x != y
  | 5 => !lt
  | 6 => x == y
  | _ => false

/-- The bytes an access of one lane touches, with their values where they are known. -/
structure LaneAccess where
  lane : Nat
  bytes : List (Nat × Byte)

/-- The aligned word of an access that holds byte address a; bytes it does not touch read 0. -/
def LaneAccess.wordAt (x : LaneAccess) (a : Nat) : Word :=
  word (leNat ((List.range 4).map (fun i => (x.bytes.lookup (a / 4 * 4 + i)).getD 0)))

/-- The lowest byte address of an access that meets the address part of a definition, R240. -/
def Predicate.hitsByte (d : Predicate) (x : LaneAccess) : Option Nat :=
  if !d.lanes.testBit x.lane then none
  else minList? ((x.bytes.map (·.1)).filter (fun a =>
    decide (d.addr ≤ a) && decide (a < d.addr + d.len) && d.bmask.testBit (a % 16)))

/-- The lowest matching byte and its word, for kinds 2 and 3. -/
def Predicate.matchAccess (d : Predicate) (x : LaneAccess) : Option (Nat × Word) :=
  if !d.lanes.testBit x.lane then none
  else
    let as := (x.bytes.map (·.1)).filter (fun a =>
      decide (d.addr ≤ a) && decide (a < d.addr + d.len) && d.bmask.testBit (a % 16)
        && (d.kind != 3 || d.compare true a (x.wordAt a)))
    (minList? as).map (fun a => (a, x.wordAt a))

/-- The workgroup in a slot passes the SCOPE of a predicate. -/
def Core.inScope (k : Core) (d : Predicate) (slot : Nat) : Bool :=
  match d.owner with
  | none => false
  | some o => o == slot || (d.launchScope &&
      match k.wg? o, k.wg? slot with
      | some a, some b => a.launch == b.launch
      | _, _ => false)

/-- Count a match; the answer tells whether the action is taken (R241). -/
def Predicate.hit (d : Predicate) : Predicate × Bool :=
  let c := min (2 ^ 32 - 1) (d.count + 1)
  if d.action = 0 then ({ d with count := c, fired := true }, false)
  else if c ≥ d.thresh then ({ d with count := 0, fired := true }, true)
  else ({ d with count := c, fired := true }, false)

/-- Entries a ring has: none unless its size is a power of two in its range (R443). -/
def ringCap (size hi : Nat) : Nat :=
  if 64 ≤ size ∧ size ≤ hi ∧ 2 ^ size.log2 = size then size else 0

/-! ### Trace buffers -/

/-- An entry of 32 bytes, R386. -/
def traceEntry (time pc launch lanes kind core b26 b27 : Nat) (last : Word) : List Byte :=
  leBytes 8 time ++ leBytes 8 pc ++ leBytes 4 launch ++ leBytes 4 lanes ++
    [BitVec.ofNat 8 kind, BitVec.ofNat 8 core, BitVec.ofNat 8 b26, BitVec.ofNat 8 b27] ++ leBytes 4 last.toNat

def Cluster.enabled (x : Cluster) : Bool := field x.trctl 31 31 == 1 && x.powered && x.gate.isNone
def Cluster.spt (x : Cluster) : Bool := field x.trctl 30 30 == 1
def Cluster.ringFull (x : Cluster) : Bool := decide (ringCap x.trsize (2 ^ 24) ≤ x.trwr - x.trrd)

/-- An imprecise record. -/
def impTrap (cause addr : Nat) (info0 info1 : Word) : TrapRec :=
  { imp := true, cause := cause, lanes := 0, epc := 0, addr := addr, info0 := info0, info1 := info1 }

/-- A trace entry produced on a core for a workgroup: the buffer is to take it, where it takes any (R384, R385). -/
def Part.trace (p : Part) (core slot : Nat) (entry : List Byte) : Part :=
  { p with clusters := modifyNth p.clusters (clusterOf core) (fun x =>
      if x.enabled then { x with offered := x.offered ++ [(core, slot, entry)] } else x) }

/-- An entry of the workgroup is lost, R389. -/
def Wg.loseTrace (g : Wg) : Wg := { g with traceLost := g.traceLost + 1 : Wg }.tellTrace

/-- Entries that a trace buffer holds, R384. -/
def traceSize : Nat := 2048

/-- The buffer of a cluster takes the oldest entry of one of its cores; where it and the ring are full the entry is lost. -/
def Part.accept (p : Part) (c core : Nat) : Part :=
  match p.clusters[c]? with
  | none => p
  | some x =>
    match x.offered.find? (fun e => e.1 == core) with
    | none => p
    | some e =>
      let x' := { x with offered := x.offered.erase e }
      if x.buffer.length < traceSize then { p with clusters := setNth p.clusters c { x' with buffer := x.buffer ++ [e.2.2] } }
      else if x.ringFull then
        { p with clusters := setNth p.clusters c { x' with trlost := min (2 ^ 32 - 1) (x.trlost + 1) } }.onWg core e.2.1 Wg.loseTrace
      else p

/-- A cycle of the trace buffers: each takes one entry of each of its cores, in ascending order; one that is off drops them. -/
def Part.takeEntries (p : Part) : Part :=
  (p.clusters.zipIdx.filter (fun x => !x.1.offered.isEmpty)).foldl (fun p x =>
    if x.1.enabled then (List.range 8).foldl (fun p i => p.accept x.2 (8 * x.2 + i)) p
    else { p with clusters := modifyNth p.clusters x.2 (fun y => { y with offered := [] }) }) p

/-! ### Debug events and the wake recorder -/

/-- A debug event of 32 bytes about a launch into its ring, R383; one that finds the ring full is counted. -/
def Part.debugRecord (p : Part) (launch : Nat) (w : WarpRef) (lanes kind byte21 value : Nat) : Part :=
  let e := leBytes 8 p.gtime ++ leBytes 4 launch ++ leBytes 2 w.core ++ leBytes 1 w.slot ++ leBytes 1 w.warp ++
    leBytes 4 lanes ++ leBytes 1 kind ++ leBytes 1 byte21 ++ leBytes 2 0 ++ leBytes 8 value
  let m := p.mgmt
  let cap := ringCap m.devsize (2 ^ 16)
  if cap ≤ m.devwr - m.devrd then p.onMgmt (fun m => { m with devlost := m.devlost + 1 })
  else ((p.homeWrite (m.devbase + 32 * (m.devwr % cap)) e).onMgmt (fun m => { m with devwr := m.devwr + 1 })).announce .event

/-- A debug event about a warp of a resident workgroup. -/
def Part.debugEvent (p : Part) (w : WarpRef) (lanes kind byte21 value : Nat) : Part :=
  p.debugRecord (((p.wg? w.core w.slot).map (·.launch)).getD 0) w lanes kind byte21 value

/-- Every thread of a workgroup has stopped or exited. -/
def Wg.allStopped (g : Wg) : Bool :=
  g.warps.all (fun w => w.threads.all (fun t => t.isExited || t.isHalted))

/-- Answers to some HALT commands, each of which gets its own (R381): 4 complete, 7 refused. -/
def Part.answerHalts (p : Part) (launch n : Nat) (w : WarpRef) (lanes kind pc : Nat) : Part :=
  (List.range n).foldl (fun p _ => p.debugRecord launch w lanes kind 0 pc) p

/-- HALT complete is told, once for each command, when every thread has stopped or exited. -/
def Part.tellHalt (p : Part) (w : WarpRef) (lanes : List Nat) (pc : Nat) : Part :=
  match p.wg? w.core w.slot with
  | none => p
  | some g =>
    if g.haltReq && g.allStopped then
      (p.onWg w.core w.slot (fun g => { g with haltsDue := 0 })).answerHalts g.launch g.haltsDue w (maskOf lanes) 4 pc
    else p

/-- A workgroup that leaves its core for good answers the HALT commands it still owes: as complete where every thread has stopped,
else as refused (log entry 22). -/
def Part.closeHalts (p : Part) (core slot : Nat) (g : Wg) : Part :=
  p.answerHalts g.launch g.haltsDue ⟨core, slot, 0⟩ 0 (if g.allStopped then 4 else 7) 0

/-- A warp whose skid is over may be the last of its workgroup to stop. -/
def Part.tellSkid (p : Part) (r : WarpRef) : Part :=
  match p.warp? r with
  | none => p
  | some w =>
    if w.skid.isSome then p
    else p.tellHalt r (w.lanesWhere Thread.isHalted) (((w.threads.find? Thread.isHalted).map (·.pc)).getD 0)

/-- An event of a die's wake recorder, R392, R393. -/
def Part.wakeEvent (p : Part) (d code source : Nat) (arg : Word) : Part :=
  p.onDie d (fun x =>
    if x.wrFreeze then { x with wrMissed := x.wrMissed + 1 }
    else { x with wake := insertKey (x.wrCount % 4096) ⟨p.gtime, code, source, arg⟩ x.wake,
                  wrCount := (x.wrCount + 1) % 2 ^ 32 })

/-! ### Taking the actions -/

/-- Strength of an action: halt workgroup, trap, halt warp, halt thread (R241). -/
def actionRank : Nat → Nat
  | 5 => 4
  | 2 => 3
  | 4 => 2
  | 3 => 1
  | _ => 0

def strongest (a : Option Stop) (b : Stop) : Option Stop :=
  match a with
  | none => some b
  | some x => if actionRank b.action > actionRank x.action then some b else some x

/-- Count a match; the answer tells whether the action is taken (R241). A match under a definition that has been changed since
acts as that definition asks, and the new one does not count it (R244, log entry 44). -/
def Match.count (m : Match) (ps : List Predicate) : List Predicate × Bool :=
  match ps[m.pred]? with
  | none => (ps, m.by_.hit.2)
  | some d =>
    if d.words == m.by_.words && d.owner == m.by_.owner then (setNth ps m.pred d.hit.1, d.hit.2) else (ps, m.by_.hit.2)

/-- Count the matches of one issue of a group, write every record, and find the strongest stop, R241. `pc` is the PC of records
of code and format kinds. -/
def Part.evalMatches (p : Part) (w : WarpRef) (group : List Nat) (pc : Nat) (ms : List Match) : Part × Option Stop :=
  ms.foldl (fun acc m =>
    let (p, stop) := acc
    let d := m.by_
    let (ps, act) := m.count (((p.core? w.core).map (·.preds)).getD [])
    let p := p.onCore w.core (fun k => { k with preds := ps })
    if !act then (p, stop)
    else if d.action = 1 then
      let launch := match p.wg? w.core w.slot with
        | some g => g.launch
        | none => 0
      (p.trace w.core (d.owner.getD w.slot)
        (traceEntry p.gtime (if d.kind = 2 || d.kind = 3 then m.addr else pc) launch (maskOf group) 3 w.core
          (w.warp + 16 * m.pred) d.kind m.value), stop)
    else (p, strongest stop ⟨d.action, d.kind, m⟩)) (p, none)

/-- Enabled predicates in scope for the workgroup in a slot, as issues of this cycle meet them (R244). -/
def Core.activePreds (k : Core) (slot : Nat) : List (Nat × Predicate) :=
  ((k.oldPreds.getD k.preds).zipIdx.filter (fun q => q.1.enabled && k.inScope q.1 slot)).map (fun q => (q.2, q.1))

/-- The value of a register after every outstanding write to it (R240, code condition); an issue waits until it is known. -/
def Warp.newest (w : Warp) (lane r : Nat) : Word :=
  let old := match w.lane? lane with
    | some t => nth t.v r 0
    | none => 0
  (((w.hits lane (.v r)).filterMap (fun h => h.value)).getLast?).getD old

/-- Matches of code predicates at an issue, R240, by the lanes that come to it. -/
def codeMatches (k : Core) (slot : Nat) (w : Warp) (pc : Nat) (group : List Nat) : List Match :=
  (k.activePreds slot).filterMap (fun q =>
    let d := q.2
    if d.kind != 1 || d.addr != pc then none
    else
      let ls := group.filter (fun l => d.lanes.testBit l && !((w.lane? l).map (·.oneShot)).getD false)
      let conds := ls.map (fun l => d.compare false 0 (w.newest l d.reg))
      let ok := !ls.isEmpty && (!d.condEn || (if d.all then conds.all id else conds.any id))
      if ok then some ⟨q.1, d, ls, 0, 0⟩ else none)

/-- Matches of data and value predicates by the performed lanes of an access, R240: `bit` is 0 for loads, 1 for
stores, 2 for atomics; `spad` tells scratchpad addresses. Lanes under one-shot suppression are not evaluated. -/
def accessMatches (preds : List (Nat × Predicate)) (bit : Nat) (spad : Bool) (xs : List LaneAccess) : List Match :=
  preds.filterMap (fun q =>
    let d := q.2
    if (d.kind != 2 && d.kind != 3) || !d.access.testBit bit || d.access.testBit 3 != spad then none
    else
      let hits := xs.filterMap (fun x => (d.matchAccess x).map (fun h => (x.lane, h)))
      match hits with
      | [] => none
      | h :: _ => some ⟨q.1, d, hits.map (·.1), h.2.1, h.2.2⟩)

/-- Some lane of a load meets the address part of an enabled load predicate, R241: the warp is held until the value
is delivered. -/
def loadWatched (preds : List (Nat × Predicate)) (spad : Bool) (xs : List LaneAccess) : Bool :=
  preds.any (fun q =>
    (q.2.kind == 2 || q.2.kind == 3) && q.2.access.testBit 0 && q.2.access.testBit 3 == spad
      && xs.any (fun x => (q.2.hitsByte x).isSome))

/-- Matches of format predicates by the flags that lanes raise, R240. -/
def formatMatches (preds : List (Nat × Predicate)) (pc : Nat) (raised : List (Nat × Flags)) : List Match :=
  preds.filterMap (fun q =>
    let d := q.2
    let inRange := d.len == 0 || (decide (d.addr ≤ pc) && decide (pc < d.addr + d.len))
    let hits := raised.filter (fun r => d.lanes.testBit r.1 && (fexcOf r.2 &&& d.fexc) != 0)
    if d.kind = 4 && inRange && !hits.isEmpty
      then some ⟨q.1, d, hits.map (·.1), 0, word (fexcOf (orFlags (hits.map (·.2))) &&& d.fexc)⟩ else none)

/-- The trap record of a stop, R241. -/
def Stop.record (st : Stop) (lanes : List Nat) (epc : Nat) : TrapRec :=
  { imp := false, cause := if st.kind = 1 then causeCodeBreak else causeWatch, lanes := maskOf lanes, epc := epc,
    addr := st.m.addr, info0 := word (st.m.pred + 16 * st.kind), info1 := st.m.value }

/-- A warp that has nothing left to issue ends its skid, R279. -/
def Warp.endSkid (w : Warp) : Warp :=
  match w.skid with
  | none => w
  | some k => if w.nextPc.isNone then w.stopSkid k.by_ k.issued else w

/-- Some threads of a warp, all of them, or the warp with its workgroup halt for a watch, R241. -/
def Warp.watchHalt (w : Warp) (lanes : List Nat) : Warp :=
  { w.demote.onLanes lanes (fun t => t.halt .watch) with ownHalt := true }

/-- Take a stop, R241: `stopLanes` are the lanes a trap names, `epc` its resume PC. A warp in its skid ends it after its turn. -/
def Part.takeStop (p : Part) (tbase : Nat) (w : WarpRef) (st : Stop) (stopLanes : List Nat) (epc : Nat) : Part :=
  let told (p : Part) : Part := (p.debugEvent w (maskOf st.m.lanes) (st.action - 2) st.m.pred epc).tellHalt w st.m.lanes epc
  match st.action with
  | 2 => p.onWg w.core w.slot (fun g => g.takeTrap tbase w.warp (st.record stopLanes epc))
  | 3 => told (p.onWarp w (fun x => x.watchHalt st.m.lanes))
  | 4 => told (p.onWarp w (fun x => x.watchHalt allLanes))
  | 5 =>
    let stop (q : Warp × Nat) : Warp := if q.2 = w.warp then q.1.watchHalt allLanes else q.1.signal .watch
    told (p.onWg w.core w.slot (fun g => { g with warps := g.warps.zipIdx.map stop }))
  | _ => p

/-- The results of some outstanding writes of a warp commit, R54, and format predicates are tested by the flags that their lanes
raise (R240, R375): the stop comes after the commit, where every lane stands at its next PC. The trap of a warp that has been halted
meanwhile waits in its queue (R279). -/
def Part.commitResults (p : Part) (tbase : Nat) (r : WarpRef) (ids : List Nat) : Part :=
  match p.warp? r with
  | none => p
  | some w =>
    let raising := w.pend.filter (fun e => ids.contains e.id && !e.raised.isEmpty)
    let p := p.onWarp r (fun w => ids.foldl Warp.commitEntry w)
    raising.foldl (fun p e =>
      let next := ((p.warp? r).bind (fun w => (w.lane? (e.group.headD 0)).map (·.pc))).getD 0
      match p.evalMatches r e.group e.pc (formatMatches e.watch e.pc e.raised) with
      | (p, none) => p
      | (p, some st) =>
        if st.action = 2 && w.anyHalted then p.onWarp r (fun w => w.enqueueTrap (st.record e.group next))
        else (p.takeStop tbase r st e.group next).onWarp r Warp.endSkid) p

end Sys2Proof.Machine
end

