-- ==== Sys2Proof/Machine/Settle.lean ====
section
/-! DEFINITION. What follows at once when threads of a workgroup arrive, exit, halt or resume: rendezvous (R124),
barriers (R168 to R170), and the deadlocks the part reports. -/

namespace Sys2Proof.Machine

/-- Handler address of a workgroup's job. -/
def Part.tbaseOf (p : Part) (g : Wg) : Nat :=
  match p.job? g.job with
  | none => 0
  | some j => j.tbase

/-- The lanes of a warp parked on empty lines at their lowest PC, that PC, and the first line (R135). -/
def Warp.onLines (w : Warp) : Option (Nat × List Nat × Nat) :=
  let waits (t : Thread) : Option Nat := match t.st with
    | .live (.parked (.lines _ _ ls)) => some (ls.headD 0)
    | _ => none
  match minList? ((w.threads.filter (fun t => (waits t).isSome)).map (·.pc)) with
  | none => none
  | some pc =>
    let lanes := w.lanesWhere (fun t => (waits t).isSome && t.pc == pc)
    some (pc, lanes, ((w.threads.filterMap (fun t => if t.pc = pc then waits t else none)).headD 0))

/-- Some thread of the warp waits on empty lines, halted or not. -/
def Warp.awaitsLines (w : Warp) : Bool :=
  w.threads.any (fun t => match t.st with
    | .live (.parked (.lines _ _ _)) => true
    | .halted (.parked (.lines _ _ _)) _ => true
    | _ => false)

/-! ### CONV, R124 -/

/-- A state is the park at a CONV. -/
def TState.atConv : TState → Bool
  | .live (.parked (.conv _)) => true
  | _ => false

/-- A thread has arrived at the CONV of a PC: it is parked there, or is recorded as parked there while its warp runs a
handler (R276). A halted thread has not arrived. -/
def Thread.convAt (t : Thread) (pc : Nat) : Bool :=
  (t.st.atConv && t.pc == pc) || (t.saved.map (fun q => q.2.atConv && q.1 == pc)).getD false

/-- A thread parked on a condition goes on: at the instruction after it, for conditions that record its size. -/
def wakeSize : WaitFor → Nat
  | .bar _ z => z
  | .conv z => z
  | .catchStep z => z
  | _ => 0

/-- End a wait at a PC that meets a condition. -/
def TState.wake (p : WaitFor → Bool) (pc : Nat) (st : TState) : Nat × TState :=
  match st with
  | .live (.parked w) => if p w then (pc + wakeSize w, .live .ready) else (pc, st)
  | .halted (.parked w) c => if p w then (pc + wakeSize w, .halted .ready c) else (pc, st)
  | _ => (pc, st)

/-- End the waits of a thread that meet a condition, recorded ones included. -/
def Thread.wake (t : Thread) (p : WaitFor → Bool) : Thread :=
  let q := t.st.wake p t.pc
  { t with pc := q.1, st := q.2, saved := t.saved.map (fun r => r.2.wake p r.1) }

def WaitFor.isConv : WaitFor → Bool
  | .conv _ => true
  | _ => false

/-- A state is a wait at a CONV, also under a halt. -/
def TState.inConv : TState → Bool
  | .live (.parked w) => w.isConv
  | .halted (.parked w) _ => w.isConv
  | _ => false

/-- Some thread of the warp waits at the CONV of a PC, halted and recorded ones included. -/
def Warp.convWaits (w : Warp) (pc : Nat) : Bool :=
  w.threads.any (fun t => (t.st.inConv && t.pc == pc) || (t.saved.map (fun q => q.2.inConv && q.1 == pc)).getD false)

/-- Every thread of a recorded set has exited or arrived at its PC. -/
def Warp.convDone (w : Warp) (pc mask : Nat) : Bool :=
  w.threads.zipIdx.all (fun q => bitNat mask q.2 == 0 || q.1.isExited || q.1.convAt pc)

/-- End the waits of a thread at the CONVs of some PCs. -/
def Thread.pastConv (t : Thread) (pcs : List Nat) : Thread :=
  let go (pc : Nat) (st : TState) : Nat × TState := if pcs.contains pc && st.atConv then st.wake WaitFor.isConv pc else (pc, st)
  let q := go t.pc t.st
  { t with pc := q.1, st := q.2, saved := t.saved.map (fun r => go r.1 r.2) }

/-- Release every rendezvous that is complete. A set at which no thread waits any more is forgotten. -/
def Warp.settleConv (w : Warp) : Warp :=
  let done := w.conv.filter (fun r => w.convDone r.1 r.2)
  { w with threads := w.threads.map (fun t => t.pastConv (done.map (·.1))),
           conv := w.conv.filter (fun r => !done.contains r && w.convWaits r.1) }

/-- The lowest PC at which threads wait at a CONV that cannot complete: nothing of the warp can run any more. -/
def Warp.convStuck (w : Warp) : Option Nat :=
  let idle (t : Thread) : Bool := t.isExited || match t.st with
    | .live (.parked p) => p.isConv
    | _ => false
  if w.threads.all idle then
    minList? ((w.threads.filter (fun t => !t.isExited)).map (·.pc))
  else none

/-! ### Barriers, R169, R170 -/

/-- Arrived flag of a thread at a barrier: its flag stands and it is not halted. -/
def Barrier.has (b : Barrier) (w l : Nat) (t : Thread) : Bool :=
  b.arrived.contains (w * 32 + l) && !t.isHalted

/-- Warp w has arrived at a barrier: every thread that is not exited has. -/
def Barrier.warpArrived (b : Barrier) (i : Nat) (w : Warp) : Bool :=
  w.threads.zipIdx.all (fun q => q.1.isExited || b.has i q.2 q.1)

def WaitFor.isBar (id : Nat) : WaitFor → Bool
  | .bar i _ => i == id
  | _ => false

/-- Commit what SBCAST has written to other warps of the workgroup, R166. -/
def Wg.commitForeign (g : Wg) : Wg :=
  { g with warps := g.warps.map (fun w => w.commitWhere (fun e => e.foreign)) }

/-- Flip barrier id when the arrived warps number its count; the warps that it lets go see what SBCAST has written to them. -/
def Wg.settleBar (g : Wg) (id : Nat) : Wg :=
  let b := nth g.bars id Barrier.start
  match b.count with
  | none => g
  | some n =>
    let there := (g.warps.zipIdx.filter (fun q => b.warpArrived q.2 q.1)).map (·.2)
    if there.length < n then g
    else
      let g := g.commitForeign
      { g with
        bars := setNth g.bars id ⟨!b.phase, none, b.arrived.filter (fun a => !there.contains (a / 32))⟩,
        warps := g.warps.map (fun w => { w with threads := w.threads.map (fun t => t.wake (WaitFor.isBar id)) }) }

/-- Barriers named by the parked threads of a warp. -/
def Warp.parkedBars (w : Warp) : List Nat :=
  (w.threads.filterMap (fun t => match t.st with
    | .live (.parked (.bar i _)) => some i
    | _ => none)).eraseDups

/-- A warp whose live threads are all parked at more than one barrier: the lowest PC at which they wait. -/
def Warp.barStuck (w : Warp) : Option Nat :=
  let idle (t : Thread) : Bool := t.isExited || match t.st with
    | .live (.parked _) => true
    | _ => false
  if w.threads.all idle && decide (1 < w.parkedBars.length) then
    minList? ((w.threads.filter (fun t => !t.isExited)).map (·.pc))
  else none

/-! ### Settling -/

/-- Report a deadlock of warp i: a precise trap of the threads that wait at a PC, which issue it again after RTE. -/
def Wg.stuckTrap (g : Wg) (tbase i cause pc info : Nat) : Wg :=
  match g.warps[i]? with
  | none => g
  | some w =>
    let lanes := w.lanesWhere (fun t => !t.isExited && t.pc == pc)
    let ready (w : Warp) : Warp :=
      { w.onLanes lanes (fun t => { t with st := .live .ready }) with conv := w.conv.filter (fun q => q.1 != pc) }
    (g.onWarp i ready).takeTrap tbase i
      { imp := false, cause := cause, lanes := maskOf lanes, epc := pc, addr := 0, info0 := word info, info1 := 0 }

/-- Settle warp i: rendezvous first, then the deadlocks of R124 and R170. A BAR_MISUSE whose lowest waiting PC is at no BAR reports
barrier 0: DESIGN CHOICE, log entry 19. -/
def Wg.settleWarp (tbase : Nat) (g : Wg) (i : Nat) : Wg :=
  let g := g.onWarp i Warp.settleConv
  match g.warps[i]? with
  | none => g
  | some w =>
    match w.convStuck with
    | some pc => g.stuckTrap tbase i causeConvBad pc 0
    | none =>
      match w.barStuck with
      | none => g
      | some pc =>
        let id := (w.threads.filterMap (fun t => match t.st with
          | .live (.parked (.bar j _)) => if t.pc = pc then some j else none
          | _ => none)).headD 0
        g.stuckTrap tbase i causeBarMisuse pc id

/-- Settle a workgroup: its barriers, then its warps in order. -/
def Wg.settle (g : Wg) (tbase : Nat) : Wg :=
  let g := (List.range 16).foldl Wg.settleBar g
  (List.range g.warps.length).foldl (Wg.settleWarp tbase) g

def Part.settle (p : Part) (core slot : Nat) : Part :=
  p.onWg core slot (fun g => g.settle (p.tbaseOf g))

end Sys2Proof.Machine
end

