-- ==== Sys2Proof/Machine/Issue.lean ====
section
/-! DEFINITION. Issuing one instruction for the group of a warp: the checks that follow decoding (R55), safe points
(R249), code watches (R240), hazard-check mode (R251), traps and waits, and what every issue does to the PCs, the
control bits and the pass-over counts (R13, R50 to R53). -/

namespace Sys2Proof.Machine

/-! ### Control-register access, R230, R231 -/

inductive CsrMode where
  | never | user | trapOnly
  deriving DecidableEq, Repr

/-- Read and Write columns of R231; none for a number that is not listed. -/
def csrAccess (n : Nat) : Option (CsrMode × CsrMode) :=
  if n ≤ 0x00D then
    some (.trapOnly, if n = 0 || (decide (4 ≤ n) && decide (n ≤ 9)) then .never else .trapOnly)
  else if 0x010 ≤ n && n ≤ 0x012 then some (.user, .user)
  else if 0x100 ≤ n && n ≤ 0x1BF then some (.user, .never)
  else if 0x200 ≤ n && n ≤ 0x27F then some (.user, .never)
  else if 0x280 ≤ n && n ≤ 0x283 then some (.user, .trapOnly)
  else if n = 0x284 then some (.user, .never)
  else if (0x300 ≤ n && n ≤ 0x311) || (0x320 ≤ n && n ≤ 0x342) then some (.user, .trapOnly)
  else if n = 0x400 || n = 0x402 || n = 0x403 || (0x410 ≤ n && n ≤ 0x41F) || n = 0x420 || n = 0x421 then
    some (.user, .never)
  else if 0x430 ≤ n && n ≤ 0x436 then some (.user, .never)
  else none

/-! ### The issue at hand -/

/-- The warp at the focus, its issuing group, and the instruction it issues. -/
structure Ctx where
  ref : WarpRef
  g : Wg
  w : Warp
  pc : Nat
  group : List Nat
  parts : Parts
  tbase : Nat

def Ctx.f (c : Ctx) : Base := c.parts.base
def Ctx.x (c : Ctx) : Ext := c.parts.ext
def Ctx.size (c : Ctx) : Nat := sizeOf c.parts
def Ctx.next (c : Ctx) : Nat := c.pc + c.size

/-- The context of an instruction issued at the focus; none when no group can issue there. -/
def State.ctx? (s : State) (pts : Parts) : Option Ctx :=
  let r := s.part.focus
  match s.part.wg? r.core r.slot with
  | none => none
  | some g =>
    match g.warps[r.warp]? with
    | none => none
    | some w =>
      match w.nextPc with
      | none => none
      | some pc => some ⟨r, g, w, pc, w.groupAt pc, pts, s.part.tbaseOf g⟩

/-- The guard of a lane instruction, R49. -/
def Ctx.laneGuard (c : Ctx) (oracle l : Nat) : Bool :=
  c.w.preg oracle l c.x.gp.toNat != c.x.n

/-- The guard of a uniform instruction, R49. -/
def Ctx.warpGuard (c : Ctx) (oracle : Nat) : Bool :=
  c.w.qreg oracle c.x.gp.toNat != c.x.n

/-- The lanes that act: the participants of a lane instruction (R49, R117), or the participating lanes of a uniform
one (R159). -/
def Ctx.acting (c : Ctx) (oracle : Nat) : List Nat :=
  if opUniform c.parts.op then (if c.warpGuard oracle then c.group else [])
  else c.group.filter (c.laneGuard oracle)

/-- What a body reads (R48: everything before anything is written). -/
def Ctx.env (c : Ctx) (s : State) : Env :=
  let o := s.part.oracle
  { v := fun l r => (c.w.vreg o l r).1, tag := fun l r => (c.w.vreg o l r).2, p := fun l r => c.w.preg o l r,
    s := fun r => c.w.sreg o r, q := fun r => c.w.qreg o r, fmt := c.g.fmt, group := c.group, acting := c.acting o }

/-! ### Traps raised by a body -/

/-- A precise trap of the instruction at hand: the lanes it names (none: its acting lanes), whether it resumes at the
next instruction, the record words, and the flags raised before it (R103). -/
structure TrapInfo where
  cause : Nat
  lanes : Option Nat := none
  after : Bool := false
  addr : Nat := 0
  info0 : Nat := 0
  info1 : Nat := 0
  flags : Flags := 0
  /-- Lanes of the group that have completed the instruction and moved on, where its other lanes trap. -/
  moved : List Nat := []
  deriving DecidableEq, Repr

def trapOf (cause : Nat) : TrapInfo := { cause := cause }

/-- What an instruction does at its issue: a precise trap; held at issue with no effect, or with a part of its
effect begun; its group parked at the instruction, which issues again; done, with the next PC of each lane of the
group; or all of the state it leads to. -/
inductive Act where
  | trap (t : TrapInfo)
  | trapState (s : State) (t : TrapInfo)
  | hold (why : Nat)
  | holdState (s : State) (why : Nat)
  | park (on : WaitFor)
  | done (s : State) (next : Nat → Nat)
  | stay (s : State)

/-- Base and extension words as TINFO0 and TINFO1 report them, R280. -/
def Parts.words (p : Parts) : Nat × Nat :=
  match p.form with
  | .short => ((encodeBase p.op p.base false).toNat, 0)
  | .long x => ((encodeBase p.op p.base true).toNat, (encodeExt x).toNat)
  | .imm v => ((encodeBase p.op p.base true).toNat, v.toNat)

/-- A precise trap of the whole issuing group. -/
def Ctx.groupTrap (c : Ctx) (t : TrapInfo) : TrapInfo :=
  { t with lanes := some (maskOf c.group) }

/-- A trap of a cause 0 to 3, with the instruction's words. -/
def Ctx.wordTrap (c : Ctx) (cause : Nat) : TrapInfo :=
  c.groupTrap { cause := cause, info0 := c.parts.words.1, info1 := c.parts.words.2 }

/-- The instruction at hand is one that HSTEP or the debug channel steps, R247. -/
def Part.stepping (p : Part) (r : WarpRef) : Bool :=
  match p.stepReq with
  | none => false
  | some q => q.live && q.w == r

/-- Commands of the debug channel that came before wait at the core, or a step is under way: an instruction that reaches other
halted threads waits for them, R382. -/
def Part.debugHolds (p : Part) (r : WarpRef) : Bool :=
  !p.stepping r && (p.debugQueue.any (fun d => d.w.core == r.core) || (p.stepReq.map (fun q => q.w.core == r.core)).getD false)

/-- Lanes of the group whose threads meet a condition. -/
def Ctx.lanesWhere (c : Ctx) (f : Thread → Bool) : List Nat := c.group.filter (fun l => ((c.w.lane? l).map f).getD false)

/-- Lanes that come to the instruction: the others have issued it before and wait on it. -/
def Ctx.fresh (c : Ctx) : List Nat := c.lanesWhere (fun t => !t.retry)

/-- Some lane has issued this instruction before and waits on it. -/
def Ctx.retried (c : Ctx) : Bool := !(c.lanesWhere (·.retry)).isEmpty

/-- The whole group has issued this instruction before and waits on it. -/
def Ctx.again (c : Ctx) : Bool := c.fresh.isEmpty

/-- The whole group is in the midst of this instruction. -/
def Ctx.midst (c : Ctx) : Bool := (c.lanesWhere (fun t => !t.begun)).isEmpty

/-- No predicate is evaluated for a lane that goes on after a watch stop, R240. -/
def Ctx.suppressed (c : Ctx) (l : Nat) : Bool := ((c.w.lane? l).map (·.oneShot)).getD false

/-- The writes outstanding are covered by a K, R37. -/
def Warp.cover (w : Warp) : Warp := { w with pend := w.pend.map (fun e => { e with covered := true }) }

/-- The pass-over counts at an issue of a group, R13: the other ready threads are passed over once more. -/
def Warp.passOver (w : Warp) (group : List Nat) : Warp :=
  let step (q : Thread × Nat) : Thread :=
    if group.contains q.2 then { q.1 with passed := 0 } else if q.1.isReady then { q.1 with passed := q.1.passed + 1 } else q.1
  { w with threads := w.threads.zipIdx.map step }

/-- What an issue costs its warp, R51, R52, R335: one instruction a cycle and, on the herd, the GAP interval and the pending Y.
An instruction that waited and goes on has had both at its first issue (DEDUCED, log entry 38). -/
def Warp.spend (w : Warp) (now : Nat) (f : Base) (again : Bool) : Warp :=
  let fast := w.sprint.isSome || again
  { w with lastIssue := now, holdWhy := none, gapEnd := now + 1 + (if fast then 0 else f.gap.toNat),
           yPend := if again then w.yPend else f.y && w.sprint.isNone }

/-- What an instruction of a warp that completes leaves of its control bits: its place in the program order, a park by K (R50),
and what it covers under the rules of R37. An instruction with K ends every wait that rule (a) still asks for: a DESIGN CHOICE,
since the rule names GAP alone (log entry 38). -/
def Warp.complete (w : Warp) (f : Base) : Warp :=
  let w := if f.k then w.cover else w
  { w with seq := w.seq + 1,
           kPark := w.sprint.isNone && (f.k || w.kPark) && !w.pend.isEmpty,
           recent := if f.k then [] else
             (w.recent.map (fun h => { h with left := h.left - (1 + f.gap.toNat) })).filter (fun h => decide (0 < h.left)) }

/-- Threads of some lanes that have executed their instruction stand at their next PCs (R12, R156). -/
def Warp.moveOn (w : Warp) (lanes : List Nat) (next : Nat → Nat) : Warp :=
  let step (q : Thread × Nat) : Thread :=
    if lanes.contains q.2 then
      { q.1 with pc := if q.1.isExited then q.1.pc else next q.2, oneShot := false, yielded := false, retry := false, begun := false }
    else q.1
  { w with threads := w.threads.zipIdx.map step }

/-- The pipe of the instruction has been taken in this cycle (R335) by a warp. -/
def Core.takePipe (k : Core) (uniform promoted : Bool) (slot warp : Nat) : Core :=
  let by_ : Nat := if promoted then 2 else 1
  { k with pipes := if uniform then (k.pipes.1, by_) else (by_, k.pipes.2), went := k.went ++ [(slot, warp)] }

/-- The instruction at hand issues on its pipe. -/
def Ctx.usePipe (c : Ctx) (p : Part) : Part :=
  p.onCore c.ref.core (fun k => k.takePipe (opUniform c.parts.op) c.w.sprint.isSome c.ref.slot c.ref.warp)

/-- An issue of the group as its warp counts it: one that is in the midst of its instruction issues no second time (R13). -/
def Ctx.count (c : Ctx) (w : Warp) (now : Nat) : Warp := (if c.midst then w else w.passOver c.group).spend now c.f c.again

/-- The warp has issued and its group has yet to go on. -/
def Ctx.spent (c : Ctx) (p : Part) : Part :=
  c.usePipe (p.onWarp c.ref (fun w => c.count w p.now))

/-- Take a precise trap, R273 to R276: flags raised before it are ORed in. Lanes that have completed the instruction stand at the
next one: the whole group under a trap that resumes there, the lanes that do not trap under one of R281. -/
def State.raise (s : State) (c : Ctx) (t : TrapInfo) : State :=
  let lanes := t.lanes.getD (maskOf (c.acting s.part.oracle))
  let rec_ : TrapRec :=
    { imp := false, cause := t.cause, lanes := lanes, epc := if t.after then c.next else c.pc, addr := t.addr,
      info0 := word t.info0, info1 := word t.info1 }
  let pass (w : Warp) : Warp :=
    let w := if t.moved.isEmpty then w else (w.complete c.f).moveOn t.moved (fun _ => c.next)
    { w with fstat := w.fstat ||| t.flags }
  -- a stepped instruction that traps has no effect but its flags and its trap in the queue (R97, R247)
  let p := if s.part.stepping c.ref then s.part.onWarp c.ref (fun w => { w with fstat := w.fstat ||| t.flags }.enqueueTrap rec_)
    else (c.spent (s.part.onWarp c.ref pass)).onWg c.ref.core c.ref.slot (fun g => g.takeTrap c.tbase c.ref.warp rec_)
  { s with part := { p with oracle := p.oracle + 1 } }

/-! ### Checks after decoding, R55 -/

/-- PARTITION of one field, R22. -/
def Use.partition (u : Use) (g : Wg) (r : BitVec 6) (w : BitVec 2) : Option Nat :=
  match u.file with
  | .v => if r.toNat + u.count w > g.nregs then some r.toNat else none
  | .tile => if r.toNat ≥ g.ntiles then some r.toNat else none
  | _ => none

/-- The v register that the item of HREAD or HWRITE names, R246. -/
def Ctx.itemReg (c : Ctx) : Option Nat :=
  let item := mBits c.x 7 0
  if (c.parts.op = .hread || c.parts.op = .hwrite) && decide (item < 0x80) then some (item % 64) else none

/-- check_declared of R55: R22, the item of HREAD and HWRITE (R246), and the warp of SBCAST (R166). Of several fields that
reach past the declared count the trap names the first of D, A, B and C, by the lowest register of its group: a DESIGN
CHOICE (log entry 13). -/
def Ctx.declared (c : Ctx) : Option Nat :=
  let s := c.parts.shape
  (s.d.partition c.g c.f.d c.x.wd).orElse fun _ =>
  (s.a.partition c.g c.f.a c.x.wa).orElse fun _ =>
  (s.b.partition c.g c.f.b c.x.wb).orElse fun _ =>
  (s.c.partition c.g c.x.c c.x.wc).orElse fun _ =>
  (c.itemReg.filter (fun r => decide (c.g.nregs ≤ r))).orElse fun _ =>
  if c.parts.op = .sbcast && !mBit c.x 4 && decide (c.g.warps.length ≤ mBits c.x 3 0) then some (mBits c.x 3 0)
  else none

/-- FSTAT, the one register with W1C fields that software writes (R96, R233). -/
def csrFstat : Nat := 0x010

/-- Control registers that CSRR or CSRW names: a pair names two (R233). -/
def Ctx.csrs (c : Ctx) : List Nat :=
  let n := mBits c.x 11 0
  if c.parts.op = .csrr && c.x.wd == 1 then [n, n + 1] else [n]

/-- check_privilege of R55, R230. -/
def Ctx.privileged (c : Ctx) : Bool :=
  match c.parts.op with
  | .rte => true
  | .hread => true
  | .hwrite => true
  | .hstep => true
  | .hres => true
  | .csrr => c.csrs.any (fun n => match csrAccess n with
    | some (.trapOnly, _) => true
    | _ => false)
  | .csrw => match csrAccess (mBits c.x 11 0) with
    | some (_, .trapOnly) => true
    | _ => false
  | _ => false

/-- The checks of R55 after alignment: PARTITION, CSR_BAD, PRIV. -/
def Ctx.decodeTrap (c : Ctx) : Option TrapInfo :=
  match c.declared with
  | some r => some (c.groupTrap { cause := causePartition, info0 := r })
  | none =>
    let csr := mBits c.x 11 0
    let isCsr := c.parts.op = .csrr || c.parts.op = .csrw
    let setClr := c.parts.op = .csrw && mBits c.x 13 12 != 0 && csr == csrFstat
    if isCsr && ((c.csrs.any (fun n => (csrAccess n).isNone)) || setClr) then
      some (c.groupTrap { cause := causeCsrBad, info0 := csr })
    else if c.privileged && !c.w.trapMode then some (c.wordTrap causePriv)
    else if c.parts.op = .csrw && (csrAccess csr).map (·.2) == some .never then some (c.wordTrap causePriv)
    else none

/-! ### Hazard-check mode, R251 -/

/-- Registers of a field as targets. -/
def Use.targets (u : Use) (r : BitVec 6) (w : BitVec 2) : List Target :=
  let rs := (List.range (u.count w)).map (fun i => r.toNat + i)
  match u.file with
  | .v => rs.map Target.v
  | .s => rs.map Target.s
  | .p => if r.toNat = 7 then [] else [.p r.toNat]
  | .q => if r.toNat = 7 then [] else [.q r.toNat]
  | _ => []

def Target.ofWarp : Target → Bool
  | .s _ => true
  | .q _ => true
  | _ => false

/-- A target by the lanes that use it. -/
def onLanesOf (lanes : List Nat) (t : Target) : List (Nat × Target) :=
  if t.ofWarp then (if lanes.isEmpty then [] else [(warpLane, t)]) else lanes.map (fun l => (l, t))

/-- Every field of an instruction. -/
def Ctx.uses (c : Ctx) : List (Use × BitVec 6 × BitVec 2) :=
  let s := c.parts.shape
  [(s.d, c.f.d, c.x.wd), (s.a, c.f.a, c.x.wa), (s.b, c.f.b, c.x.wb), (s.c, c.x.c, c.x.wc)]

/-- Registers an instruction reads, its guard and a branch condition included. -/
def Ctx.readsOf (c : Ctx) (acting : List Nat) : List (Nat × Target) :=
  let fields := c.uses.filter (fun u => u.1.reads)
  let fields := if c.parts.op = .v2s then fields.filter (fun u => u.1.file != .v) else fields
  let g := c.x.gp.toNat
  let guard := if g = 7 then [] else onLanesOf c.group (if opUniform c.parts.op then .q g else .p g)
  let cond := match c.parts.op with
    | .brc => if c.f.d.toNat % 8 = 7 then [] else onLanesOf c.group (.p (c.f.d.toNat % 8))
    | .sbrc => if c.f.d.toNat % 8 = 7 then [] else onLanesOf c.group (.q (c.f.d.toNat % 8))
    | _ => []
  guard ++ cond ++ fields.flatMap (fun u => (u.1.targets u.2.1 u.2.2).flatMap (onLanesOf acting))

/-- Registers an instruction writes. -/
def Ctx.writesOf (c : Ctx) (acting : List Nat) : List (Nat × Target) :=
  (c.uses.filter (fun u => u.1.writes)).flatMap (fun u => (u.1.targets u.2.1 u.2.2).flatMap (onLanesOf acting))

def Target.fileCode : Target → Nat
  | .v _ => 0
  | .s _ => 1
  | .p _ => 2
  | .q _ => 3

def Target.number : Target → Nat
  | .v r => r
  | .s r => r
  | .p r => r
  | .q r => r

def hazardTrap (rule : Nat) (t : Target) (pc : Nat) : TrapInfo :=
  { cause := causeHazard, info0 := t.number + 64 * t.fileCode + 256 * rule, info1 := pc }

/-- The PC of the outstanding variable-latency write to a register that no K has covered, another warp's apart. -/
def Warp.openWrite (w : Warp) (l : Nat) (t : Target) : Option Nat :=
  (w.pend.find? (fun e => e.due.isNone && !e.foreign && !e.covered &&
    e.lanes.any (fun x => x.lane == l && x.targets.contains t))).map (·.pc)

/-- The first break of rules (a), (b), (c) by the instruction at hand. -/
def Ctx.hazard (c : Ctx) (acting : List Nat) : Option TrapInfo :=
  if !c.w.hchk then none
  else
    let a := (c.readsOf acting).findSome? (fun r =>
      (c.w.recent.find? (fun h => decide (0 < h.left) && h.targets.contains r)).map
        (fun h => hazardTrap 1 r.2 h.pc))
    let b := (c.readsOf acting).findSome? (fun r => (c.w.openWrite r.1 r.2).map (hazardTrap 2 r.2))
    let d := (c.writesOf acting).findSome? (fun r => (c.w.openWrite r.1 r.2).map (hazardTrap 3 r.2))
    (a.orElse fun _ => b).orElse fun _ => d

/-! ### Safe points, R249, R387, R388 -/

/-- A pending CANCEL trap that some lanes may take, with the state once it is taken. -/
def Ctx.cancelled (c : Ctx) (s : State) (lanes : List Nat) : Option (State × TrapInfo) :=
  match c.g.cancelTrap, c.w.trapMode || s.part.stepping c.ref with
  | some level, false =>
    some ({ s with part := s.part.onWg c.ref.core c.ref.slot (fun g => { g with cancelTrap := none }) },
      { cause := causeCancel, lanes := some (maskOf lanes), info0 := level })
  | _, _ => none

/-- The stops that land on the safe point before a t-marked instruction, of the lanes that come to it: a CANCEL trap, a halt
request, a live dump. None when the instruction goes on to issue. -/
def Ctx.safeStop (c : Ctx) (s : State) : Option State :=
  if !c.f.t || c.again || s.part.stepping c.ref then none
  else
    match c.cancelled s c.fresh with
    | some (s, t) => some (s.raise c t)
    | none =>
      let fresh := c.fresh.filter (fun l => !((c.w.lane? l).map (·.reqDone)).getD false)
      if c.g.haltReq && !fresh.isEmpty then
        let p := s.part.onWarp c.ref (fun w =>
          { w.demote.onLanes fresh (fun t => { t.halt .request with reqDone := true, safePc := c.pc }) with
            haltCause := causeHaltReq })
        some { s with part := p.tellHalt c.ref fresh c.pc }
      else if c.g.dump.isSome then
        some { s with part := s.part.onWarp c.ref (fun w =>
          w.demote.onLanes c.fresh (fun t => { t.halt .dump with safePc := c.pc })) }
      else none

/-- Records of a t-marked issue by the lanes that come to it: the PC of the safe point passed, a safe-point trace record, an armed
sample. -/
def Ctx.passSafePoint (c : Ctx) (s : State) : State :=
  if !c.f.t || c.again then s
  else
    let p := s.part.onWarp c.ref (fun w => w.onLanes c.fresh (fun t => { t with safePc := c.pc }))
    let x := nth p.clusters (clusterOf c.ref.core) Cluster.reset
    let entry (kind : Nat) (last : Word) : List Byte :=
      traceEntry p.gtime c.pc c.g.launch (maskOf c.fresh) kind c.ref.core c.ref.warp 0 last
    let p := if x.spt then p.trace c.ref.core c.ref.slot (entry 1 0) else p
    let armed := match (p.core? c.ref.core).bind (·.sample) with
      | some m => m.armed
      | none => none
    let p := match armed with
      | some v =>
        (p.trace c.ref.core c.ref.slot (entry 2 (word v))).onCore c.ref.core
          (fun k => { k with sample := k.sample.map (fun m => { m with armed := none }) })
      | none => p
    { s with part := p }

/-! ### Before the instruction acts -/

/-- What keeps the instruction from its issue: a check of R55, a stop at a safe point, a hazard. That the checks come before the
stop is a DESIGN CHOICE (log entry 38). -/
def Ctx.before (c : Ctx) (s : State) : Option State :=
  match c.decodeTrap with
  | some t => some (s.raise c t)
  | none =>
    match c.safeStop s with
    | some s' => some s'
    | none => (c.hazard (c.acting s.part.oracle)).map (fun t => s.raise c t)

/-- The part with the matches of code predicates counted and recorded, R240, and the stop they lead to. -/
def Ctx.codeWatch (c : Ctx) (s : State) : Part × Option Stop :=
  let ms := match s.part.core? c.ref.core with
    | none => []
    | some k => codeMatches k c.ref.slot c.w c.pc c.fresh
  s.part.evalMatches c.ref c.group c.pc ms

/-- The state in which the instruction acts: its matches counted, its safe point passed. -/
def Ctx.counted (c : Ctx) (s : State) : State := c.passSafePoint { s with part := (c.codeWatch s).1 }

/-! ### The sprinter's window, R337 -/

/-- Loads, whose data meet watch predicates at their issue. -/
def opLoads (op : Op) : Bool :=
  match op with
  | .ld => true
  | .lds => true
  | _ => false

/-- Instructions the sprinter may perform before their retirement: those that only write registers, and LD, LDS and PREF
(R150). -/
def opEarly (op : Op) : Bool :=
  (opTiming op).latency.isSome || opLoads op || op = .pref

/-- A code predicate stands at the PC of the instruction, or it is a safe point: the sprinter evaluates the one and comes to the
other as the instruction retires (R376, R387). -/
def Ctx.marked (c : Ctx) (s : State) : Bool :=
  c.f.t || ((s.part.core? c.ref.core).map (fun k => (k.activePreds c.ref.slot).any (fun q => q.2.kind == 1 && q.2.addr == c.pc))).getD false

/-- The instruction stands once it has issued, also where its warp leaves the sprinter before it retires: it is not performed early,
its watches have been evaluated or suppressed, or hazard-check mode has counted it. -/
def Ctx.firm (c : Ctx) (s : State) : Bool :=
  !opEarly c.parts.op || c.marked s || c.w.hchk || !(c.lanesWhere (fun t => t.oneShot || t.yielded || t.retry)).isEmpty

/-- The instruction is ahead of the retirement of others of its promoted warp. -/
def Ctx.early (c : Ctx) : Bool := !c.w.window.isEmpty

/-- An instruction that has no result takes its place in the window behind others. -/
def Ctx.enter (c : Ctx) (w : Warp) (now : Nat) : Warp :=
  if c.early && !w.pend.any (fun e => e.id == c.w.seq && !e.foreign) then
    { w with pend := w.pend ++ [{ id := c.w.seq, pc := c.pc, foreign := false, due := some now, lanes := [], flags := 0, firm := false,
                                  group := c.group }] }
  else w

/-! ### What every issue does -/

/-- An issue that is done: the effects stand in s; the warp moves on and the free-value counter advances. -/
def Ctx.finish (c : Ctx) (s : State) (next : Nat → Nat) : State :=
  let go (w : Warp) : Warp := ((c.count (c.enter w s.part.now) s.part.now).complete c.f).moveOn c.group next
  let p := c.usePipe (s.part.onWarp c.ref go)
  { s with part := { p with oracle := p.oracle + 1 } }

/-- A group parks at its instruction. The empty-wait timer starts when the warp comes to park on empty lines (R300). -/
def Warp.park (w : Warp) (group : List Nat) (on : WaitFor) : Warp :=
  let lines := match on with
    | .lines _ _ _ => true
    | _ => false
  { w.onLanes group (fun t => { t with st := .live (.parked on), retry := true, begun := false }) with
    emptyTimer := if lines && !w.awaitsLines then 0 else w.emptyTimer }

/-- A group parked at its instruction; a deadlock that this makes is reported (R170). That a wait on empty lines and a LOCK park the
group alone is a DESIGN CHOICE (log entry 38). -/
def Ctx.parkAt (c : Ctx) (s : State) (on : WaitFor) : State :=
  let p := (c.spent s.part).onWarp c.ref (fun w => w.park c.group on)
  { s with part := { p.settle c.ref.core c.ref.slot with oracle := p.oracle + 1 } }

/-- A warp held at issue for a stall reason of R340 tries again in the next cycle (log entry 2). -/
def Ctx.held (c : Ctx) (s : State) (why : Nat) : State :=
  let p := s.part.onWarp c.ref (fun w => { w with gapEnd := max w.gapEnd (s.part.now + 1), holdWhy := some why })
  { s with part := { p with oracle := p.oracle + 1 } }

/-- The group's instruction has issued in part and waits at issue to go on. -/
def Ctx.begun (c : Ctx) (s : State) (why : Nat) : State :=
  let p := if c.midst then s.part else c.spent s.part
  c.held { s with part := p.onWarp c.ref (fun w => w.onLanes c.group (fun t => { t with retry := true, begun := true })) } why

/-- The state an act leads to, from the state before the issue and the one in which it is counted. -/
def Ctx.resolve (c : Ctx) (before s : State) : Act → State
  | .trap t => s.raise c t
  | .trapState s' t => s'.raise c t
  | .hold why => c.held before why
  | .holdState s' why => c.begun s' why
  | .park on => c.parkAt s on
  | .done s' next => c.finish s' next
  | .stay s' => s'

/-! ### Instructions held by an FMTSET, R95 -/

/-- Threads of the warp wait at a PC for an instruction that has issued. -/
def Warp.waitsAt (w : Warp) (pc : Nat) : Bool :=
  w.threads.any (fun t => t.pc == pc && t.retry && !t.isHalted && !t.isExited)

/-- Instructions that name an entry by an index field, a record, a layout or an operand pair. -/
def opIndexed : Op → Bool
  | .cvt | .tagset | .qblk | .ld | .st | .lds | .sts | .atom | .atoms | .red | .stmc | .pref | .discard | .flush | .lock
  | .unlock | .bufset | .mma | .tzero | .tld | .tst | .topk | .cpy | .cpyo | .cpym | .cpyc | .cpyr | .tbinit | .tbexp
  | .tbarv | .tbwait => true
  | _ => false

/-- Commands dispatched and not complete of the core that are the workgroup's, in MT order. -/
def Core.tileCmds (k : Core) (slot : Nat) : List TileCmd :=
  (k.running.toList ++ k.arrayQueue).filter (fun x => x.w.slot == slot)

/-- The tag a tile will have when the commands dispatched before have run. -/
def Ctx.tagAhead (c : Ctx) (s : State) (t : Nat) : Byte :=
  let k := (s.part.core? c.ref.core).getD Core.reset
  (k.tileCmds c.ref.slot).foldl (fun g x => if x.d = t then x.outTag.getD g else g) (nth c.g.tiles t Tile.start).tag

/-- The instruction reads or writes a tag or an index that names entry i. -/
def Ctx.namesFormat (c : Ctx) (s : State) (i : Nat) : Bool :=
  let regTag (u : Use × BitVec 6 × BitVec 2) : Bool :=
    match u.1.file with
    | .v => (List.range (u.1.count u.2.2)).any (fun k =>
        c.group.any (fun l => tagIndex (c.w.vreg s.part.oracle l (u.2.1.toNat + k)).2 == i))
    | .tile => tagIndex (c.tagAhead s u.2.1.toNat) == i
    | _ => false
  match c.parts.op with
  | .movi => c.f.a.toNat == i
  | .mov => (uniformB c.x && mBits c.x 4 0 == i) || c.uses.any regTag
  | .fmtset => mBits c.x 4 0 == i
  | .fmtget => mBits c.x 4 0 == i
  | op => opIndexed op || c.uses.any regTag

/-- An FMTSET or CPDSET issued before holds the instruction; a CPDSET waits for each of them, since what they install decides which
entries use its table. -/
def Ctx.fmtHeld (c : Ctx) (s : State) : Bool :=
  !c.retried && c.g.fmtWait.any (fun q =>
    (q.1 != c.ref.warp || q.2.1 != c.pc) && ((c.g.warps[q.1]?).map (fun w => w.waitsAt q.2.1)).getD false
      && (q.2.2.any (c.namesFormat s) || c.parts.op = .cpdset))

/-! ### Values that have not returned, and the sprinter's window -/

/-- Some lane is to see an outstanding write whose value has not returned. -/
def Ctx.unreturned (c : Ctx) (oracle : Nat) : Bool :=
  c.w.pend.any (fun e => e.lanes.any (fun l => !l.known)) &&
    (c.readsOf (c.acting oracle)).any (fun r => match c.w.seen? oracle r.1 r.2 with
      | some ⟨_, _, none, _⟩ => true
      | _ => false)

/-- Some register that the condition of a code predicate reads at this PC has not returned, R240. -/
def Ctx.condUnknown (c : Ctx) (s : State) : Bool :=
  c.w.pend.any (fun e => e.lanes.any (fun l => !l.known)) &&
    match s.part.core? c.ref.core with
    | none => false
    | some k => (k.activePreds c.ref.slot).any (fun q => q.2.kind == 1 && q.2.addr == c.pc && q.2.condEn &&
        c.group.any (fun l => q.2.lanes.testBit l && ((c.w.hits l (.v q.2.reg)).getLast?.map (fun h => h.value.isNone)).getD false))

/-- The sprinter has no room for another instruction, R337: 64 of a warp, 192 of a core, 48 loads. Stores leave it as they
retire. -/
def Ctx.windowFull (c : Ctx) (s : State) : Bool :=
  let all := ((s.part.core? c.ref.core).map (fun k => k.slots.flatMap (fun g => match g with
    | none => []
    | some g => g.warps.flatMap Warp.window))).getD []
  c.w.sprint.isSome && (decide (64 ≤ c.w.window.length) || decide (192 ≤ all.length)
    || ((opTiming c.parts.op).latency.isNone && decide (48 ≤ (all.filter (fun e => e.due.isNone)).length)))

/-- The stall reason of R340 for which an instruction is held at issue before anything else: faulted lanes of the warp that have
no place in the operand log (R281), a code condition that has not returned, a result that a format predicate is to see (R240), the
sprinter's window, an instruction that waits for its retirement. In a skid the sprinter performs nothing early (log entry 8). -/
def Ctx.heldFirst (c : Ctx) (s : State) : Option Nat :=
  let waits := ((s.part.core? c.ref.core).map (fun k => k.oplog.any (fun e => e.w == c.ref && e.fault == 0))).getD false
  if waits then some 12
  else if c.condUnknown s || c.w.pend.any (fun e => !e.raised.isEmpty) then some 15
  else if c.windowFull s then some 14
  else if c.early && (!opEarly c.parts.op || c.marked s || c.w.skid.isSome) then some 15
  else none

/-- The same for one that could act: an FMTSET (R95), a value that it is to see. -/
def Ctx.heldLast (c : Ctx) (s : State) : Bool := c.fmtHeld s || c.unreturned s.part.oracle

/-- An act that a program sees before its instruction retires: all but results and holds. -/
def Act.loud : Act → Bool
  | .done _ _ => false
  | .hold _ => false
  | _ => true

/-- The act counts or records a match of a watch predicate of a core. -/
def Act.watched (a : Act) (core : Nat) (s : State) : Bool :=
  match a with
  | .done t _ => (t.part.core? core).map (·.preds) != (s.part.core? core).map (·.preds) || t.part.clusters != s.part.clusters
  | _ => false

/-- Instructions that run through the steps of R129. -/
def opGlobal : Op → Bool
  | .ld | .st | .atom | .red | .stmc | .pref | .discard | .flush => true
  | _ => false

/-- A failure of a check of steps 1 to 4 of R129: of the record, a format or width, the alignment or the bounds. -/
def TrapInfo.ofCheck (t : TrapInfo) : Bool :=
  [causeBufBad, causeFmtIllegal, causeFmtMismatch, causeFmtStale, causeFmtNotreg, causeStmcBad, causeMisalign, causeOob].contains t.cause
    || (t.cause == causeProt && t.info1 == 1)

/-- The failure of such a check by the instruction at hand, which comes before any watch evaluation (R241). -/
def Ctx.checkTrap (c : Ctx) (s : State) (body : Ctx → State → Act) : Option TrapInfo :=
  if !opGlobal c.parts.op then none
  else match body c s with
    | .trap t => if t.ofCheck then some t else none
    | _ => none

/-- The results of the instruction at hand stand, also where its warp leaves the sprinter before they commit: a load that has met a
watch predicate (R376), or of which some lanes trap. -/
def Part.stand (p : Part) (c : Ctx) : Part :=
  p.onWarp c.ref (fun w => { w with pend := w.pend.map (fun e => if e.id = c.w.seq ∧ !e.foreign then { e with firm := true } else e) })

/-- Issue an instruction at the focus. Where no group can issue there, nothing happens. An instruction of the sprinter that
would trap, wait or meet a watch predicate does so when it comes to retire (R150, R376). -/
def issue (pts : Parts) (s : State) (body : Ctx → State → Act) : Out :=
  match s.ctx? pts with
  | none => .next s
  | some c =>
    match c.heldFirst s with
    | some why => .next (c.held s why)
    | none =>
      match c.before s with
      | some s' => .next (if c.early then c.held s 15 else s')
      | none =>
        if c.heldLast s then .next (c.held s 15)
        else
          match c.checkTrap s body, (c.codeWatch s).2 with
          | some t, _ => .next (if c.early then c.held s 15 else (c.passSafePoint s).raise c t)
          | none, some st =>
            .next (if c.early then c.held s 15 else { s with part := (c.codeWatch s).1.takeStop c.tbase c.ref st c.group c.pc })
          | none, none =>
            let s1 := c.counted s
            let a := body c s1
            .next (if c.early && (a.loud || a.watched c.ref.core s1) then c.held s 15 else c.resolve s s1 a)

/-! ### Register results -/

/-- The pending writes of one lane: targets with values and tags. -/
def laneWrites (lane : Nat) (ws : List (Target × Word × Byte)) : PendLane :=
  { lane := lane, targets := ws.map (·.1), tags := ws.map (·.2.2), values := some (ws.map (·.2.1)), bytes := [],
    form := .words }

/-- Record the results of the instruction at hand as an outstanding write of its timing class (R54). -/
def Ctx.write (c : Ctx) (s : State) (lanes : List PendLane) (flags : Flags) : State :=
  let lat := (opTiming c.parts.op).latency
  let e : Pend := { id := c.w.seq, pc := c.pc, foreign := false, due := lat.map (fun l => s.part.now + l),
                    lanes := lanes, flags := flags, firm := c.firm s, group := c.group }
  let add (w : Warp) : Warp :=
    let w := w.addPend s.part.oracle e
    match lat with
    | none => w
    | some l => { w with recent := w.recent ++
        [⟨c.pc, lanes.flatMap (fun x => x.targets.map (fun t => (x.lane, t))), l⟩] }
  { s with part := s.part.onWarp c.ref add }

end Sys2Proof.Machine
end

