-- ==== Sys2Proof/Machine/Operands.lean ====
section
/-! DEFINITION. How lane instructions read their operands: register groups, the uniform operand, the tag checks of
R93 and the views of R102; and the issue of a lane compute instruction. -/

namespace Sys2Proof.Machine

/-- The results of a lane compute instruction: the writes of each lane, the flags raised, and by which lanes. -/
structure LaneOut where
  lanes : List PendLane
  flags : Flags
  raised : List (Nat × Flags)

abbrev LaneBody := Env → Except TrapInfo LaneOut

/-- Evaluate a list of lanes, the first trap deciding: which failure R93 reports where several lanes fail at different steps the
spec does not say; the model takes every step of the lowest lane first, DESIGN CHOICE, log entry 18. -/
def mapLanes {α : Type} (f : Nat → Except TrapInfo α) : List Nat → Except TrapInfo (List α)
  | [] => .ok []
  | l :: ls =>
    match f l with
    | .error t => .error t
    | .ok a =>
      match mapLanes f ls with
      | .error t => .error t
      | .ok as => .ok (a :: as)

/-- Every check of a list passes. -/
def allOk {α : Type} (f : α → Except TrapInfo Unit) : List α → Except TrapInfo Unit
  | [] => .ok ()
  | a :: as =>
    match f a with
    | .error t => .error t
    | .ok _ => allOk f as

/-- Registers of a group of 2^w. -/
def groupRegs (r : BitVec 6) (w : BitVec 2) : List Nat :=
  (List.range (2 ^ w.toNat)).map (fun i => r.toNat + i)

def Env.words (e : Env) (l : Nat) (rs : List Nat) : List Word := rs.map (e.v l)

def Env.tags (e : Env) (l : Nat) (rs : List Nat) : List Byte := rs.map (e.tag l)

/-- Field B of a lane instruction: v registers of the lane, or, under U, s registers (R46). -/
def Env.bWords (e : Env) (u : Bool) (l : Nat) (rs : List Nat) : List Word :=
  if u then rs.map e.s else rs.map (e.v l)

/-! ### Tag checks, R93 -/

/-- A format trap: register, 0 v, 1 tile, 2 index field, format index, and the failing tag (R280). -/
def fmtTrap (cause reg file idx : Nat) (tag : Byte) : TrapInfo :=
  { cause := cause, info0 := reg % 64 + 64 * file + 256 * idx, info1 := tag.toNat }

/-- Steps 1 to 3 of R93 for a v register's tag. -/
def checkTag (c : FmtCtx) (reg : Nat) (tag : Byte) : Except TrapInfo Entry :=
  let i := tagIndex tag
  let f := c.entry i
  if !tagValid tag || !f.valid then .error (fmtTrap causeFmtIllegal reg 0 i tag)
  else if tagGen tag != f.gen % 4 then .error (fmtTrap causeFmtStale reg 0 i tag)
  else if f.epw = 0 then .error (fmtTrap causeFmtNotreg reg 0 i tag)
  else .ok f

/-- Steps 1 to 3 for every register of a group. -/
def checkGroup (e : Env) (l : Nat) (rs : List Nat) : Except TrapInfo Unit :=
  allOk (fun r =>
    match checkTag e.fmt r (e.tag l r) with
    | .error t => .error t
    | .ok _ => .ok ()) rs

/-- Step 4 of R93 for every register of a group: its kind is one the instruction accepts. -/
def checkKinds (e : Env) (l : Nat) (accepts : Entry → Bool) (rs : List Nat) : Except TrapInfo Unit :=
  allOk (fun r =>
    let g := e.tag l r
    if accepts (e.fmt.entry (tagIndex g)) then .ok ()
    else .error (fmtTrap causeFmtMismatch r 0 (tagIndex g) g)) rs

/-- Every tag of a group equals a given one. -/
def checkEqual (e : Env) (l : Nat) (tag : Byte) (rs : List Nat) : Except TrapInfo Unit :=
  allOk (fun r =>
    let g := e.tag l r
    if g = tag then .ok () else .error (fmtTrap causeFmtMismatch r 0 (tagIndex g) g)) rs

def both (a b : Except TrapInfo Unit) : Except TrapInfo Unit :=
  match a with
  | .error t => .error t
  | .ok _ => b

/-- A format index given by an instruction field and installed as a tag: valid and register-capable (R106). -/
def checkIndexTag (c : FmtCtx) (i : Nat) : Except TrapInfo Entry :=
  let f := c.entry i
  if !f.valid then .error (fmtTrap causeFmtIllegal 0 2 i (c.tagOf i))
  else if f.epw = 0 then .error (fmtTrap causeFmtNotreg 0 2 i (c.tagOf i))
  else .ok f

def indexMismatch (c : FmtCtx) (i : Nat) : TrapInfo :=
  fmtTrap causeFmtMismatch 0 2 i (c.tagOf i)

/-! ### Views, R102 -/

def acceptsInteger (f : Entry) : Bool := f.kind == kindInteger || f.kind == kindRaw
def acceptsFloat (f : Entry) : Bool := f.kind == kindFloat

/-- Elements of the integer view are signed when SIGN is 1 and the entry is an integer one. -/
def Entry.isSigned (f : Entry) : Bool := f.kind == kindInteger && f.sign == 1

/-- The integer view of A, and of the further groups of v registers `more`: A's entry. Width 01 goes exactly with
EPW = 15. -/
def intView (e : Env) (l : Nat) (ra : List Nat) (more : List Nat) : Except TrapInfo Entry :=
  match checkGroup e l (ra ++ more) with
  | .error t => .error t
  | .ok _ =>
    match checkKinds e l acceptsInteger (ra ++ more) with
    | .error t => .error t
    | .ok _ =>
      let a := ra.headD 0
      let g := e.tag l a
      let f := e.fmt.entry (tagIndex g)
      if (f.epw == 15) != (ra.length == 2) then .error (fmtTrap causeFmtMismatch a 0 (tagIndex g) g) else .ok f

/-- The float view: float kinds with equal tags on every source that is not uniform: A's entry. -/
def floatView (e : Env) (l : Nat) (ra : List Nat) (more : List Nat) : Except TrapInfo Entry :=
  match checkGroup e l (ra ++ more) with
  | .error t => .error t
  | .ok _ =>
    match checkKinds e l acceptsFloat (ra ++ more) with
    | .error t => .error t
    | .ok _ =>
      let g := e.tag l (ra.headD 0)
      match checkEqual e l g (ra ++ more) with
      | .error t => .error t
      | .ok _ => .ok (e.fmt.entry (tagIndex g))

/-- Writes of a group of result registers with their tags. -/
def groupWrites (rd : List Nat) (ws : List Word) (tags : List Byte) : List (Target × Word × Byte) :=
  rd.zipIdx.map (fun p => (Target.v p.1, nth ws p.2 0, nth tags p.2 0))

/-- Results of lanes with flags, gathered. -/
def gather (xs : List (PendLane × Flags)) : LaneOut :=
  ⟨xs.map (·.1), orFlags (xs.map (·.2)), xs.map (fun x => (x.1.lane, x.2))⟩

/-- Flags that a lane raises. -/
def LaneOut.raisedBy (o : LaneOut) (l : Nat) : Flags := o.flags &&& orFlags ((o.raised.filter (fun q => q.1 == l)).map (·.2))

/-! ### Issue of a lane compute instruction -/

/-- Give the outstanding write of the instruction at hand the flags that its lanes raise, where a format predicate meets them: it is
tested as they commit, and the warp issues nothing before (R240, R375). -/
def Ctx.raiseFlags (c : Ctx) (s : State) (raised : List (Nat × Flags)) : State :=
  let preds := ((s.part.core? c.ref.core).map (fun k => k.activePreds c.ref.slot)).getD []
  if (formatMatches preds c.pc raised).isEmpty then s
  else { s with part := s.part.onWarp c.ref (fun w => { w with pend := w.pend.map (fun e =>
    if e.id = c.w.seq ∧ !e.foreign then { e with raised := raised, watch := preds } else e) }) }

/-- The act of a lane compute body: a trap (R103), an enabled floating trap (R97), or its results as an outstanding
write of its timing class. -/
def laneAct (body : LaneBody) (c : Ctx) (s : State) : Act :=
  match body (c.env s) with
  | .error t => .trap (if t.cause = causeIllField then c.wordTrap causeIllField else t)
  | .ok o =>
    match enabledTrap c.w.ften o.flags with
    | some cause => .trap { cause := cause, info1 := o.flags.toNat, flags := o.flags }
    | none =>
      let raised := ((c.acting s.part.oracle).filter (fun l => !c.suppressed l)).map (fun l => (l, o.raisedBy l))
      .done (c.raiseFlags (c.write s o.lanes o.flags) raised) (fun _ => c.next)

/-- Issue a lane compute instruction. -/
def issueLane (pts : Parts) (s : State) (body : LaneBody) : Out :=
  issue pts s (laneAct body)

end Sys2Proof.Machine
end

