-- ==== Sys2Proof/Machine/Translate.lean ====
section
/-! DEFINITION. Page tables and the outcome of translating one line (R347 to R350, R353), and instruction fetch
(R40 to R42, R350). -/

namespace Sys2Proof.Machine

/-- What an access asks of a leaf, R349. -/
inductive Access where
  | read | write | atomic | fetch
  deriving DecidableEq, Repr

/-- The outcome of translating one address, R350: its location, a denial with its cause and index word, or not
present with the reason of R354. -/
inductive Xlate where
  | ok (loc : Nat)
  | denied (cause info : Nat)
  | absent (reason : Nat)
  deriving DecidableEq, Repr

/-- Low VA bit and entries of each level, R347. -/
def tableLevels : List (Nat × Nat) :=
  [(48, 512), (39, 512), (30, 512), (21, 512), (16, 32)]

/-- A non-leaf entry with bits that only a leaf may hold, R348. -/
def badBranch (pte : Nat) : Bool :=
  bitsNat pte 63 53 != 0 || bitsNat pte 7 2 != 0

/-- A malformed leaf at a level, R348. -/
def badLeaf (level pte : Nat) : Bool :=
  decide (level < 3) || bitsNat pte 7 6 == 3 || (level == 3 && bitsNat pte 20 8 != 0)
    || (level == 4 && bitsNat pte 15 8 != 0)

/-- The walk over the remaining levels from a table, R347, R348: the leaf and the bytes its page spans, or the
reason why there is none; `held` gives the entry that the walk cache supplies for a span (R351). -/
def State.walk (s : State) (held : Nat → Option Nat) (va : Nat) : Nat → List (Nat × Nat) → Nat → Except Nat (Nat × Nat)
  | _, [], _ => .error 2
  | level, (low, n) :: ls, table =>
    let pte := (held (2 ^ low)).getD (s.homeNat (table + 8 * (va / 2 ^ low % n)) 8)
    if bitNat pte 0 = 0 then .error 1
    else if bitNat pte 52 = 1 then .error 2
    else if bitNat pte 1 = 1 then (if badLeaf level pte then .error 2 else .ok (pte, 2 ^ low))
    else if badBranch pte || level = 4 then .error 2
    else State.walk s held va (level + 1) ls (bitsNat pte 51 8 * 256)

/-- The entries of levels 0 to 3 that the same walk reads and that name a further table, each with the span it covers. -/
def State.branches (s : State) (held : Nat → Option Nat) (va : Nat) : List (Nat × Nat) → Nat → List (Nat × Nat)
  | [], _ => []
  | (low, n) :: ls, table =>
    let pte := (held (2 ^ low)).getD (s.homeNat (table + 8 * (va / 2 ^ low % n)) 8)
    if ls.isEmpty || bitNat pte 0 = 0 || bitNat pte 52 = 1 || bitNat pte 1 = 1 || badBranch pte then []
    else (2 ^ low, pte) :: State.branches s held va ls (bitsNat pte 51 8 * 256)

/-- A walk with no cache. -/
def noCache (_ : Nat) : Option Nat := none

def Part.context? (p : Part) (job : Nat) : Option TransCtx :=
  p.mgmt.contexts.find? (fun c => c.job == job)

/-- The leaf grants the access, R349. -/
def leafGrants (pte : Nat) : Access → Bool
  | .read => bitNat pte 2 == 1
  | .write => bitNat pte 3 == 1
  | .atomic => bitNat pte 4 == 1
  | .fetch => bitNat pte 5 == 1

/-- Location of an address in the page of a leaf, R348. -/
def leafLoc (pte span va : Nat) : Nat :=
  let tgt := bitsNat pte 7 6
  let addr := bitsNat pte 51 8 * 256 + va % span
  if tgt = 0 then underKey (bitsNat pte 63 53) addr else remoteLoc tgt addr

/-- The leaf of an address and the bytes its page spans as the tables of its job stand, or the reason why there is none. -/
def State.tableLeaf (s : State) (job va : Nat) : Except Nat (Nat × Nat) :=
  match s.part.context? job with
  | none => .error 3
  | some t => if 2 ^ 57 ≤ va then .error 1 else s.walk noCache va 0 tableLevels t.table

def TlbEntry.covers (e : TlbEntry) (job va : Nat) : Bool :=
  e.job == job && decide (e.va ≤ va) && decide (va < e.va + e.span)

/-- An entry that is held and that the access at hand uses, R352: whether it uses one that is held is a free value (log
entry 43). -/
def Part.heldEntry (p : Part) (job va : Nat) (ok : TlbEntry → Bool) : Option TlbEntry :=
  (p.tlb.zipIdx.find? (fun q => q.1.covers job va && ok q.1 && Config.freeBit (freeAt p.oracle (2 ^ 38 + q.2)))).map (·.1)

/-- A leaf that a TLB holds and that the access at hand uses. -/
def State.heldLeaf (s : State) (job va : Nat) : Option (Nat × Nat) :=
  if (s.part.context? job).isNone then none
  else (s.part.heldEntry job va (fun e => bitNat e.pte 1 == 1)).map (fun e => (e.pte, e.span))

/-- The entry of a span that a walk cache holds and that the walk at hand uses, R351. -/
def Part.cached (p : Part) (job va span : Nat) : Option Nat :=
  (p.heldEntry job va (fun e => bitNat e.pte 1 == 0 && e.span == span)).map (·.pte)

/-- The leaf of an address by a walk that may use the walk caches. -/
def State.walkLeaf (s : State) (job va : Nat) : Except Nat (Nat × Nat) :=
  match s.part.context? job with
  | none => .error 3
  | some t => if 2 ^ 57 ≤ va then .error 1 else s.walk (s.part.cached job va) va 0 tableLevels t.table

/-- The outcome of an access from a leaf, R350: its permission, then its key, then a page that reaches past device memory
(R361). -/
def State.leafOutcome (s : State) (va : Nat) (acc : Access) : Except Nat (Nat × Nat) → Xlate
  | .error r => .absent r
  | .ok (pte, span) =>
    let key := bitsNat pte 63 53
    if !leafGrants pte acc then .denied causeProt 0
    else if key != 0 && (s.part.keyAt key).isNone then .denied causeKeyBad key
    else if bitsNat pte 7 6 = 0 && decide (4 * homeSpan < bitsNat pte 51 8 * 256 + span) then .denied causeProt 0
    else .ok (leafLoc pte span va)

/-- Translate one address of a job, R350 to R352: by a translation that a TLB holds, or by a walk. -/
def State.translate (s : State) (job va : Nat) (acc : Access) : Xlate :=
  s.leafOutcome va acc (match s.heldLeaf job va with
    | some q => .ok q
    | none => s.walkLeaf job va)

/-- Translate afresh, as replays do (R352). -/
def State.retranslate (s : State) (job va : Nat) (acc : Access) : Xlate :=
  s.leafOutcome va acc (s.tableLeaf job va)

/-- An entry of an address is held from now on: once. -/
def Part.holdEntry (p : Part) (job va pte span : Nat) : Part :=
  let e : TlbEntry := ⟨job, va / span * span, span, pte⟩
  if p.tlb.contains e then p else { p with tlb := p.tlb ++ [e] }

/-- A TLB takes the translation of an address; one that is not present is never held (R351). -/
def Part.hold (p : Part) (job va : Nat) : Except Nat (Nat × Nat) → Part
  | .error _ => p
  | .ok (pte, span) => p.holdEntry job va pte span

/-- The entries above the leaf that the walk of an address reads. -/
def State.pathOf (s : State) (job va : Nat) : List (Nat × Nat) :=
  match s.part.context? job with
  | none => []
  | some t => if 2 ^ 57 ≤ va then [] else s.branches (s.part.cached job va) va tableLevels t.table

/-- The turn of a TLB and of the walk cache; the free-value counter advances, so that later accesses choose anew. -/
def State.holdLeaf (s : State) (job va : Nat) : State :=
  let p := (s.pathOf job va).foldl (fun p b => p.holdEntry job va b.2 b.1) s.part
  { s with part := { p.hold job va (s.walkLeaf job va) with oracle := s.part.oracle + 1 } }

/-- The TLBs and walk caches drop what an invalidate covers, R352: a range of a job, or all of it where the length is 0. -/
def Part.dropTlb (p : Part) (job va len : Nat) : Part :=
  { p with tlb := p.tlb.filter (fun e =>
      !(e.job == job && (len == 0 || (decide (e.va < va + len) && decide (va < e.va + e.span))))) }

/-- Fetch one word of a job's code: four bytes of one line, under X; none is CODE_FAULT (R42, R350). -/
def State.fetchWord (s : State) (job pc : Nat) : Option Word :=
  match s.translate job pc .fetch with
  | .ok loc => if isDevice loc && !s.part.poisoned (lineOf loc) then some (leWord (s.homeRead loc 4)) else none
  | _ => none

end Sys2Proof.Machine
end

