-- ==== Sys2Proof/Machine/Record.lean ====
section
/-! DEFINITION. Buffer records (R31 to R35), the addresses of the participants of a lane access (R129, R130, R132), and
the plan that translation makes of them. -/

namespace Sys2Proof.Machine

/-! ### Records, R32, R33 -/

/-- The fields of a buffer record, with the register it stands in. -/
structure Rec where
  reg : Nat
  base : Nat
  r : Bool
  w : Bool
  a : Bool
  oob : Nat
  extent : Nat
  stride : Nat
  fmt : Nat
  swz : Nat
  reserved : Bool
  deriving DecidableEq, Repr

/-- The record of four words. -/
def recOf (reg : Nat) (w0 w1 w2 w3 : Word) : Rec :=
  { reg := reg, base := w0.toNat + 2 ^ 32 * field w1 24 0, r := field w1 25 25 == 1, w := field w1 26 26 == 1,
    a := field w1 27 27 == 1, oob := field w1 29 28, extent := w2.toNat, stride := field w3 15 0,
    fmt := field w3 20 16, swz := field w3 24 21,
    reserved := field w3 31 25 != 0 || field w1 31 30 != 0 || decide (3 < field w3 24 21) || decide (1 < field w1 29 28) }

/-- The record in the quad s(r). -/
def Env.record (e : Env) (r : Nat) : Rec := recOf r (e.s r) (e.s (r + 1)) (e.s (r + 2)) (e.s (r + 3))

/-- Steps 1 to 3 of R33 pass. -/
def Rec.formOk (c : FmtCtx) (r : Rec) : Bool :=
  !r.reserved && !(r.stride == 0 && (c.entry r.fmt).kind != kindBlock)
    && (r.swz == 0 || r.base % 2 ^ (9 + r.swz) == 0)

/-- R33 with the permission an access asks for; the trap names the whole group (R280). -/
def Rec.check (c : FmtCtx) (r : Rec) (allowed : Rec → Bool) (group : List Nat) : Option TrapInfo :=
  if !r.formOk c then some { cause := causeBufBad, info0 := r.reg }
  else if !allowed r then some { cause := causeProt, info0 := maskOf group, info1 := 1 }
  else none

/-- Bytes from the base that are in bounds, R130. -/
def Rec.span (c : FmtCtx) (r : Rec) : Nat :=
  if r.stride = 0 then (r.extent + 255) / 256 * groupBytes (c.entry r.fmt) else r.extent * r.stride

/-- The swizzle of an offset, R34. -/
def Rec.swizzle (r : Rec) (off : Nat) : Nat :=
  if r.swz = 0 then off else off ^^^ (bitsNat off (8 + r.swz) (6 + r.swz) * 16)

/-- Address of an offset, R34. -/
def Rec.addr (r : Rec) (off : Nat) : Nat := r.base + r.swizzle off

/-- Bounds test of an access of n bytes at an index, R34, R130. -/
def Rec.inBounds (c : FmtCtx) (r : Rec) (index m n : Nat) : Bool :=
  decide (index < r.extent) && decide (index * r.stride + m + n ≤ r.span c)

/-! ### Parts of a lane access -/

/-- A run of bytes of one lane: its place in the lane's data, its virtual address and length. -/
structure Piece where
  lane : Nat
  off : Nat
  va : Nat
  len : Nat
  deriving DecidableEq, Repr

/-- Pieces of at most 16 bytes for an access of n bytes at an offset, each granule moved by its own offset. -/
def Rec.pieces (r : Rec) (lane off n : Nat) : List Piece :=
  if n ≤ 16 then [⟨lane, 0, r.addr off, n⟩]
  else (List.range ((n + 15) / 16)).map (fun k => ⟨lane, 16 * k, r.addr (off + 16 * k), min 16 (n - 16 * k)⟩)

/-- A piece cut at the end of its line (R35). -/
def Piece.split (q : Piece) : List Piece :=
  let room := 128 - q.va % 128
  if q.len ≤ room then [q] else [{ q with len := room }, ⟨q.lane, q.off + room, q.va + room, q.len - room⟩]

/-- Bytes of a byte range at an offset, byte by byte (R132, R144): consecutive bytes of one granule and one line stay
together. -/
def Rec.bytePieces (r : Rec) (lane place off n : Nat) : List Piece :=
  let ends (g : Nat) : Nat × Nat := (max off (16 * g), min (off + n) (16 * g + 16))
  let first := off / 16
  (List.range ((off + n + 15) / 16 - first)).flatMap (fun k =>
    let (a, b) := ends (first + k)
    if a < b then Piece.split ⟨lane, place + (a - off), r.addr a, b - a⟩ else [])

/-- A lane with its pieces and whether it is in bounds. -/
structure LanePieces where
  lane : Nat
  addr : Nat
  inb : Bool
  pieces : List Piece
  deriving DecidableEq, Repr

/-- The lowest address beyond the space that a lane would access (R34): of a lane with some element out of bounds, among its
elements that are in bounds. -/
def LanePieces.beyond (l : LanePieces) : Option Nat :=
  minList? (((if l.inb then [l.addr] else []) ++ l.pieces.map (·.va)).filter (fun a => decide (2 ^ 57 ≤ a)))

/-- Steps 3 and 4 of R129 on the lanes: an address beyond the space, a misaligned one, one out of bounds under
policy 0b00. `align` is 1 where no alignment is asked for. -/
def laneTrap (r : Rec) (align : Nat) (ls : List LanePieces) : Option TrapInfo :=
  let trap (cause : Nat) (bad : List LanePieces) : Option TrapInfo :=
    match minList? (bad.map (·.addr)) with
    | none => none
    | some a => some { cause := cause, addr := a, info0 := maskOf (bad.map (·.lane)) }
  let inb := ls.filter (·.inb)
  let far := ls.filterMap (fun l => l.beyond.map (fun a => { l with addr := a }))
  (trap causeXlate far).orElse fun _ =>
  (trap causeMisalign (inb.filter (fun l => l.addr % align != 0))).orElse fun _ =>
  if r.oob = 0 then trap causeOob (ls.filter (fun l => !l.inb)) else none

/-- The participants of an access of n bytes at v(index) under m (R129, R130); one out of bounds accesses nothing. -/
def accessLanes (c : FmtCtx) (r : Rec) (m n : Nat) (index : Nat → Nat) (acting : List Nat) : List LanePieces :=
  acting.map (fun l =>
    let off := index l * r.stride + m
    let inb := r.inBounds c (index l) m n
    ⟨l, r.addr off, inb, if inb then r.pieces l off n else []⟩)

/-! ### Translation of the pieces, R35, R350, R281 -/

/-- A piece whose line has translated. -/
structure Placed where
  piece : Piece
  loc : Nat
  deriving DecidableEq, Repr

structure Plan where
  ok : List Placed
  denied : List (Piece × Nat × Nat)
  absent : List (Piece × Nat)
  deriving DecidableEq, Repr

/-- Translate the pieces of in-bounds lanes. A lane with a denied piece is not performed at all (R281). -/
def State.plan (s : State) (job : Nat) (acc : Access) (ps : List Piece) : Plan :=
  let xs := ps.map (fun p => (p, s.translate job p.va acc))
  let denied := xs.filterMap (fun x => match x.2 with
    | .denied cause info => some (x.1, cause, info)
    | _ => none)
  let bad (l : Nat) : Bool := denied.any (fun d => d.1.lane == l)
  { ok := xs.filterMap (fun x => match x.2 with
      | .ok loc => if bad x.1.lane then none else some ⟨x.1, loc⟩
      | _ => none),
    denied := denied,
    absent := xs.filterMap (fun x => match x.2 with
      | .absent r => if bad x.1.lane then none else some (x.1, r)
      | _ => none) }

/-- The trap of the denied lanes, which alone stay at the instruction: cause and address of the lowest failing
address (R280, R281). -/
def Plan.trap (p : Plan) : Option TrapInfo :=
  match minList? (p.denied.map (fun d => d.1.va)) with
  | none => none
  | some a =>
    let lanes := maskOf (p.denied.map (fun d => d.1.lane))
    match p.denied.find? (fun d => d.1.va == a) with
    | none => none
    | some d => some { cause := d.2.1, lanes := some lanes, addr := a, info0 := lanes, info1 := d.2.2 }

/-- Virtual lines that did not translate, each with its reason. -/
def Plan.absentLines (p : Plan) : List (Nat × Nat) :=
  (p.absent.map (fun a => (a.1.va / 128 * 128, a.2))).eraseDups

/-- Physical lines of the pieces that translated. -/
def Plan.lines (p : Plan) : List Nat := (p.ok.map (fun q => lineOf q.loc)).eraseDups

/-- Physical words that the translated pieces touch. -/
def Plan.words (p : Plan) : List Nat :=
  (p.ok.flatMap (fun q => (List.range ((q.loc + q.piece.len + 3) / 4 - q.loc / 4)).map (fun i => q.loc / 4 + i))).eraseDups

/-- Address of a lane's access under R34, from its first piece. -/
def Plan.laneAddr (p : Plan) (l : Nat) : Nat :=
  let ps := p.ok.map (·.piece) ++ p.denied.map (·.1) ++ p.absent.map (·.1)
  ((ps.find? (fun q => q.lane == l && q.off == 0)).map (·.va)).getD 0

/-- The plan without what some lanes would do at lines that are not present. -/
def Plan.spare (p : Plan) (lanes : List Nat) : Plan := { p with absent := p.absent.filter (fun a => !lanes.contains a.1.lane) }

end Sys2Proof.Machine
end

