-- ==== Sys2Proof/Machine/Fault.lean ====
section
/-! DEFINITION. The fault service (R353, R354, R443) and the operand log (R281 to R283). -/

namespace Sys2Proof.Machine

/-! ### Rings of the management space -/

/-- Requester and access fields of a fault record, R354. -/
def accessBits : Access → Nat
  | .read => 1
  | .fetch => 1
  | .write => 2
  | .atomic => 4

/-- The 32 bytes of a fault record. -/
def faultBytes (va job requester id time : Nat) (acc : Access) (reason : Nat) (rep : Bool) : List Byte :=
  leBytes 8 va ++ leBytes 4 job ++ leBytes 2 requester ++
    leBytes 2 (accessBits acc + 16 * reason + (if rep then 256 else 0)) ++ leBytes 4 id ++ leBytes 4 0 ++ leBytes 8 time

/-- Write one record into the fault ring when it has room. -/
def Part.ringFault (p : Part) (bytes : List Byte) : Option Part :=
  let m := p.mgmt
  let cap := ringCap m.fltsize (2 ^ 16)
  if cap ≤ m.fltwr - m.fltrd then none
  else some (((p.homeWrite (m.fltbase + 32 * (m.fltwr % cap)) bytes).onMgmt (fun m => { m with fltwr := m.fltwr + 1 })).announce .fault)

/-- A record has gone to the ring; one that nothing waits on is over. -/
def FaultRec.written (r : FaultRec) (fs : List FaultRec) : List FaultRec :=
  if r.loose then fs.filter (fun x => x.id != r.id)
  else fs.map (fun x => if x.id = r.id then { x with ringed := true } else x)

/-- Records that walkers hold go to the ring, oldest first, while it has room. -/
def Part.flushFaults (p : Part) : Part :=
  (p.mgmt.faults.filter (fun r => !r.ringed)).foldl (fun p r =>
    match p.ringFault r.bytes with
    | none => p
    | some p => p.onMgmt (fun m => { m with faults := r.written m.faults })) p

/-- Post a not-present line: the record of its page, an old one or a new one. A line of a job without a context posts
a record that nothing waits for (R353). The answer is the fault id, 0 for a line abandoned at once. -/
def Part.postFault (p : Part) (die requester job va : Nat) (acc : Access) (reason : Nat) (rep : Bool) : Part × Nat :=
  let page := va / 65536
  let m := p.mgmt
  let loose := reason == 3
  let bytes := faultBytes (va / 128 * 128) job requester m.nextFault p.gtime acc reason rep
  match (if loose then none else m.faults.find? (fun r => !r.loose && r.die == die && r.job == job && r.page == page)) with
  | some r => (p, r.id)
  | none =>
    let r : FaultRec := ⟨m.nextFault, job, page, p.gtime, die, bytes, false, loose⟩
    ((p.onMgmt (fun m => { m with nextFault := m.nextFault + 1, faults := m.faults ++ [r] })).flushFaults,
      if loose then 0 else m.nextFault)

/-! ### Violations, R373 -/

/-- Where a request is refused: a slice by die and number, a Vexlink port, the host link. -/
inductive Gate where
  | slice (die n : Nat)
  | port (n : Nat)
  | host
  deriving DecidableEq, Repr

/-- An entry; one that overwrites an entry not yet read counts it lost. -/
def VLog.add (x : VLog) (e : List Byte) : VLog :=
  let k := x.written % 16
  { entries := insertKey k e x.entries, written := x.written + 1, read := x.read - bitNat x.read k * 2 ^ k,
    lost := if 16 ≤ x.written && bitNat x.read k = 0 then x.lost + 1 else x.lost }

/-- A refused request: address, requester, cause, and 1 read, 2 write or 4 atomic. -/
def Part.violation (p : Part) (g : Gate) (addr requester cause kind : Nat) : Part :=
  let e := leBytes 8 p.gtime ++ leBytes 8 (physical addr % 2 ^ 57) ++ leBytes 2 requester ++ leBytes 1 cause ++ leBytes 1 kind ++ List.replicate 12 0
  match g with
  | .slice d n => p.onDie d (fun x => { x with vlogs := insertKey n (((lookupKey n x.vlogs).getD VLog.reset).add e) x.vlogs })
  | .port n => p.onMgmt (fun m => { m with ports := modifyNth m.ports n (fun q => { q with vlog := q.vlog.add e }) })
  | .host => p.onMgmt (fun m => { m with hostVlog := m.hostVlog.add e })

/-- The home slice of a location refuses a request. -/
def Part.sliceViolation (p : Part) (loc requester kind : Nat) : Part :=
  p.violation (.slice (homeDie loc) (sliceOf loc)) loc requester causeProt kind

/-! ### The operand log, R281 to R283 -/

def logSize : Nat := 16

/-- Entries that hold a place in a core's operand log. -/
def Core.logged (k : Core) : Nat := (k.oplog.filter (fun e => e.fault != 0)).length

/-- A core's operand log has no place for another entry. -/
def Part.logFull (p : Part) (core : Nat) : Bool :=
  match p.core? core with
  | none => true
  | some k => decide (logSize ≤ k.logged) || k.oplog.any (fun e => e.fault == 0)

/-- A warp has an entry that names one of some virtual lines, R282. -/
def Part.logNames (p : Part) (r : WarpRef) (lines : List Nat) : Bool :=
  match p.core? r.core with
  | none => false
  | some k => k.oplog.any (fun e => e.w == r && lines.contains e.line)

/-- Queue an imprecise trap to a warp (R274, R278). -/
def Part.queueTrap (p : Part) (r : WarpRef) (t : TrapRec) : Part :=
  p.onWg r.core r.slot (fun g => g.queueTrap r.warp t)

/-- Close the parts of an outstanding write that lanes wait for: their registers keep their values (R283). -/
def Warp.closeLanes (w : Warp) (id : Nat) (lanes : List Nat) : Warp :=
  let cut (e : Pend) : Pend := { e with lanes := e.lanes.filter (fun l => !lanes.contains l.lane),
                                        late := e.late.filter (fun b => !lanes.contains b.1) }
  let pend := (w.pend.map (fun e => if e.id = id then cut e else e)).filter (fun e => e.id != id || !e.lanes.isEmpty)
  { w with pend := pend, kPark := w.kPark && !pend.isEmpty }

/-- Abandon lanes of an access that has left its warp: the outstanding write closes and an imprecise trap with the
address, the lane mask and the PC is queued (R280, R283). -/
def Part.abandonLanes (p : Part) (r : WarpRef) (pend : Option Nat) (lanes : List Nat) (cause addr info1 : Nat) : Part :=
  let p := match pend with
    | none => p
    | some id => p.onWarp r (fun w => w.closeLanes id lanes)
  p.queueTrap r (impTrap cause addr (word (maskOf lanes)) (word info1))

/-- The poisoned lines among some pieces close their lanes with an imprecise POISON each, R129, R281. -/
def Part.poisonLanes (p : Part) (r : WarpRef) (pend : Option Nat) (pc : Nat) (ps : List Placed) : Part :=
  ((ps.map (fun q => q.piece.va / 128 * 128)).eraseDups).foldl (fun p line =>
    p.abandonLanes r pend (((ps.filter (fun q => q.piece.va / 128 * 128 == line)).map (fun q => q.piece.lane)).eraseDups)
      causePoison line pc) p

/-- An imprecise LINK_DOWN for a request that can leave on no port, R367; the port it names is left open. -/
def Part.linkDown (p : Part) (r : WarpRef) (addr : Nat) : Part :=
  p.queueTrap r (impTrap causeLinkDown addr (word ((Config.freeWord (freeAt p.oracle 0)).toNat % 16)) 0)

/-- Lanes whose request can leave on no port fail at once. -/
def Part.cutLanes (p : Part) (r : WarpRef) (pend : Option Nat) (lanes : List Nat) (addr : Nat) : Part :=
  if lanes.isEmpty then p
  else
    let p := match pend with
      | none => p
      | some id => p.onWarp r (fun w => w.closeLanes id lanes)
    p.linkDown r addr

/-- The same for pieces of lanes, line by line (R35). -/
def Part.cutPieces (p : Part) (r : WarpRef) (pend : Option Nat) (ps : List Placed) : Part :=
  ((ps.map (fun q => q.piece.va / 128)).eraseDups).foldl (fun p line =>
    let mine := ps.filter (fun q => q.piece.va / 128 == line)
    p.cutLanes r pend ((mine.map (fun q => q.piece.lane)).eraseDups) ((minList? (mine.map (fun q => q.piece.va))).getD 0)) p

/-- An entry takes a place in the log and its fault goes to the fault service; where the log is full it waits for one (R281).
The line of a job without a context is abandoned at once (R353). -/
def Part.logEntry (p : Part) (job : Nat) (acc : Access) (e : LogEntry) : Part :=
  let core := e.w.core
  let add (p : Part) (id : Nat) : Part :=
    { p.onCore core (fun k => { k with oplog := k.oplog ++ [{ e with id := p.nextCommand, fault := id }] }) with
      nextCommand := p.nextCommand + 1 }
  if e.reason != 3 && p.logFull core then add p 0
  else
    let (p, id) := p.postFault (dieOf core) core job ((minList? (e.parts.map (·.va))).getD e.line) acc e.reason false
    if id = 0 then p.abandonLanes e.w e.pend ((e.parts.map (·.lane)).eraseDups) causeXlate e.line e.pc else add p id

/-- The data and format predicates of a core that accesses of a workgroup meet. -/
def Part.watching (p : Part) (core slot : Nat) : List (Nat × Predicate) :=
  match p.core? core with
  | none => []
  | some k => (k.activePreds slot).filter (fun q => decide (2 ≤ q.2.kind))

/-- The log entries of the not-present lines of an instruction, with the index of each lane and the words of the record (R149): of
destination j of an STMC the j-th. -/
def Part.logLines (p : Part) (c : Ctx) (plan : Plan) (acc : Access) (pend : Option Nat) (entry : Entry) (dest : Nat)
    (acquire : Option Nat) (data : Piece → List Byte) : Part :=
  let record := (List.range 4).map (fun i => c.w.sreg p.oracle (c.f.b.toNat + 4 * dest + i))
  let index (l : Nat) : Word := (c.w.vreg p.oracle l c.f.a.toNat).1
  plan.absentLines.foldl (fun p line =>
    let parts := (plan.absent.filter (fun a => a.1.va / 128 * 128 == line.1)).map (·.1)
    p.logEntry c.g.job acc
      { id := 0, w := c.ref, pc := c.pc, base := word c.parts.words.1, ext := word c.parts.words.2, record := record, line := line.1,
        fault := 0, reason := line.2, pend := pend, entry := entry,
        parts := parts.map (fun q => ⟨q.lane, index q.lane, q.off, q.va, q.len, data q, plan.laneAddr q.lane⟩), dest := dest,
        acquire := acquire, watch := p.watching c.ref.core c.ref.slot }) p

end Sys2Proof.Machine
end

