-- ==== Sys2Proof/Machine/L1.lean ====
section
/-! DEFINITION. The L1 of a core (R264 to R267, R301 to R303), release rounds (R304, R305) and the bytes a lane access
reads and writes. -/

namespace Sys2Proof.Machine

/-- The scopes .DV and .SY, whose synchronisation is performed at the home die and which need every die (R262). -/
def scopeWide (scope : Nat) : Bool := decide (3 ≤ scope)

/-! ### Lines, R301 -/

def L1Line.fresh (now : Nat) : L1Line := ⟨0, 0, 0, false, List.replicate 128 0, now, []⟩

/-- Byte o of the line is valid: its sector is filled or a store has written it. -/
def L1Line.has (x : L1Line) (o : Nat) : Bool := x.sectors.testBit (o / 32) || x.written.testBit o

def L1Line.byte (x : L1Line) (o : Nat) : Byte := nth x.data o 0

/-- The accesses of one instruction stand together. -/
def addOrigin (os : List Origin) (o : Origin) : List Origin :=
  if os.any (fun x => x.w == o.w && x.pc == o.pc) then
    os.map (fun x => if x.w = o.w ∧ x.pc = o.pc then { x with va := min x.va o.va, lanes := x.lanes ||| o.lanes } else x)
  else os ++ [o]

/-- A store of bytes into a line in a release round, R302, R304. -/
def L1Line.store (x : L1Line) (round : Bool) (o : Origin) (bytes : List (Nat × Byte)) : L1Line :=
  bytes.foldl (fun x b =>
    { x with data := setNth x.data b.1 b.2,
             written := if x.sectors.testBit (b.1 / 32) then x.written else x.written ||| 2 ^ b.1,
             dirty := x.dirty ||| 2 ^ (b.1 / 4) }) { x with round := round, origins := addOrigin x.origins o }

/-- A fill of one sector under the bytes already written, R267, R302. -/
def L1Line.fill (x : L1Line) (sector : Nat) (bytes : List Byte) : L1Line :=
  let put (x : L1Line) (b : Byte × Nat) : L1Line :=
    let o := 32 * sector + b.2
    if x.has o then x else { x with data := setNth x.data o b.1 }
  let x := bytes.zipIdx.foldl put x
  { x with sectors := x.sectors ||| 2 ^ sector }

/-- Words of a mask of 32. -/
def wordsOfMask (m : Nat) : List Nat := (List.range 32).filter (fun i => m.testBit i)

/-- The bytes a copy-back of some words sends: whole words where every byte is valid, the valid bytes otherwise. -/
def L1Line.packetBytes (x : L1Line) (words : List Nat) : List (Nat × Byte) :=
  words.flatMap (fun w => (List.range 4).filterMap (fun i =>
    if x.has (4 * w + i) then some (4 * w + i, x.byte (4 * w + i)) else none))

/-- The line with its clean words invalid, R303: dirty words keep their valid bytes. -/
def L1Line.dropClean (x : L1Line) : L1Line :=
  let keep := (wordsOfMask x.dirty).foldl (fun m w =>
    (List.range 4).foldl (fun m i => if x.has (4 * w + i) then m ||| 2 ^ (4 * w + i) else m) m) 0
  { x with sectors := 0, written := keep }

/-- The line after DISCARD.L1, R314: dirty and byte-valid bits go, and with them the sectors that hold a discarded word. -/
def L1Line.discard (x : L1Line) : L1Line :=
  let spoilt (i : Nat) : Bool := (wordsOfMask x.dirty).any (fun w => w / 8 == i)
  let keep := (List.range 4).foldl (fun m i => if x.sectors.testBit i && !spoilt i then m ||| 2 ^ i else m) 0
  { x with sectors := keep, written := 0, dirty := 0, origins := [] }

def Core.line? (k : Core) (line : Nat) : Option L1Line := lookupKey line k.l1

/-! ### Allocation, eviction and copy-back, R301, R303 -/

/-- Set of a line, log entry 11. -/
def l1Set (line : Nat) : Nat := line % 128

/-- Send words of a line as one packet of the current round, counted for its slice; the words are clean afterwards. -/
def Core.copyBackWords (k : Core) (line words : Nat) : Core :=
  match k.line? line with
  | none => k
  | some x =>
    let m := x.dirty &&& words
    if m = 0 then k
    else
      let pk : Packet := ⟨k.nextId, line, x.packetBytes (wordsOfMask m), k.round, none, 0, k.seen, x.origins⟩
      { k with packets := k.packets ++ [pk], sent := addCount (lineSlice line) 1 k.sent, nextId := k.nextId + 1,
               l1 := insertKey line { x with dirty := x.dirty - m, origins := if x.dirty = m then [] else x.origins } k.l1 }

def Core.copyBack (k : Core) (line : Nat) : Core := k.copyBackWords line (2 ^ 32 - 1)

def Core.copyBackAll (k : Core) : Core :=
  (k.l1.map (·.1)).foldl Core.copyBack k

/-- Make room for a line in its set: the least recently used of eight is copied back and leaves. -/
def Core.makeRoom (k : Core) (line : Nat) : Core :=
  let mates := k.l1.filter (fun p => l1Set p.1 == l1Set line)
  if mates.length < 8 then k
  else
    match minList? (mates.map (·.2.used)) with
    | none => k
    | some t =>
      match mates.find? (fun p => p.2.used == t) with
      | none => k
      | some v =>
        let k := k.copyBack v.1
        { k with l1 := eraseKey v.1 k.l1 }

/-- Touch a line, allocating it without a fill when it is absent. -/
def Core.touch (k : Core) (line : Nat) : Core :=
  let k := match k.line? line with
    | some _ => k
    | none => k.makeRoom line
  let x := (k.line? line).getD (L1Line.fresh 0)
  { k with l1 := insertKey line { x with used := k.l1Clock } k.l1, l1Clock := k.l1Clock + 1 }

/-- A plain store of bytes of one line. -/
def Core.store (k : Core) (line : Nat) (o : Origin) (bytes : List (Nat × Byte)) : Core :=
  let k := k.touch line
  match k.line? line with
  | none => k
  | some x => { k with l1 := insertKey line (x.store (k.round % 2 == 1) o bytes) k.l1 }

/-- Invalidate every clean word: an acquire at .CL or wider (R145, R303). -/
def Core.acquire (k : Core) : Core :=
  { k with l1 := (k.l1.map (fun p => (p.1, p.2.dropClean))).filter (fun p => p.2.dirty != 0) }

/-- Invalidate the clean words of one line. -/
def Core.forget (k : Core) (line : Nat) : Core :=
  match k.line? line with
  | none => k
  | some x => if x.dirty = 0 then { k with l1 := eraseKey line k.l1 } else { k with l1 := insertKey line x.dropClean k.l1 }

/-- Copy back and invalidate every line: a kernel boundary (R19, R303). -/
def Core.boundary (k : Core) : Core :=
  let k := k.copyBackAll
  { k with l1 := [] }

/-- The value of a byte the L1 holds. -/
def Core.l1Byte (k : Core) (loc : Nat) : Option Byte :=
  match k.line? (lineOf loc) with
  | none => none
  | some x => if x.has (loc % 128) then some (x.byte (loc % 128)) else none

/-- The line has dirty words in the L1, or a packet of it is on its way. -/
def Core.unsent (k : Core) (line : Nat) : Bool :=
  ((k.line? line).map (fun x => x.dirty != 0)).getD false || k.packets.any (fun q => q.line == line)

/-- A write of a line by a request of a core waits at some die. -/
def Part.unapplied (p : Part) (core d line : Nat) : Bool :=
  (p.die d).inbox.any (fun u => u.line == line && (u.source.map (·.1)) == some core)

/-- Own order (R145): every store of the core to the line has reached the home. -/
def Part.atHome (p : Part) (core line : Nat) : Bool :=
  match p.core? core with
  | none => true
  | some k => !k.unsent line && !p.unapplied core (homeDie (line * 128)) line

/-- Own order: every write of a line by requests of the core below a number has been applied at die d. -/
def Part.ownBefore (p : Part) (core n d line : Nat) : Bool :=
  match p.core? core with
  | none => true
  | some k => !k.packets.any (fun q => q.line == line && decide (q.id < n)) &&
      !(p.die d).inbox.any (fun u => u.line == line && (match u.source with
        | some (c, m) => c == core && decide (m < n)
        | none => false))

/-! ### The order of messages, R360, R362 -/

/-- The die that performs a packet of a core. -/
def Packet.die (q : Packet) (core : Nat) : Nat := q.direct.getD (dieOf core)

/-- The die that performs an atomic of a core: the home, but for an acquire load that reads the issuing die's copy (R262). -/
def AtomReq.die (a : AtomReq) (core : Nat) : Nat :=
  if a.op = 13 && (a.acquire.map scopeWide) == some false then dieOf core
  else homeDie (((a.lanes.head?).map (·.loc)).getD 0)

def AtomReq.line (a : AtomReq) : Nat := ((a.lanes.head?).map (fun l => lineOf l.loc)).getD 0

/-- Nothing that the core sent below a number to a slice is still on its way there: the L1 and the copy unit share its port. -/
def Core.portClear (k : Core) (core n die slice : Nat) : Bool :=
  let there (d line : Nat) : Bool := d == die && lineSlice line == slice
  !k.packets.any (fun q => decide (q.id < n) && there (q.die core) q.line)
    && !k.discards.any (fun q => decide (q.1 < n) && there (dieOf core) q.2.1)
    && !k.atoms.any (fun a => decide (a.id < n) && there (a.die core) a.line)
    && !k.fills.any (fun f => decide (f.id < n) && there (dieOf core) f.line)

/-- Nothing that die d sent to die h before a place in their order is still on its way. -/
def Part.crossClear (p : Part) (d h n : Nat) : Bool :=
  d == h || ((List.range 64).all (fun i => match p.core? (64 * d + i) with
      | none => true
      | some k => !k.packets.any (fun q => q.direct == some h && decide (q.sent < n))
          && !k.atoms.any (fun a => a.die (64 * d + i) == h && decide (a.sent < n)))
    && !(p.die h).lockSends.any (fun q => dieOf q.w.core == d && decide (q.sent < n))
    && !p.tbUpdates.any (fun u => dieOf u.w.core == d && homeDie u.addr == h && decide (u.id < n)))

/-- A request of a core may arrive at a slice: the n-th of the core, at a place in the order between the dies. -/
def Part.arrives (p : Part) (core n die line sent : Nat) : Bool :=
  (match p.core? core with
    | none => true
    | some k => k.portClear core n die (lineSlice line)) && p.crossClear (dieOf core) die sent

/-- Join a clock into what later fills of a core wait for. -/
def joinClock (a b : List Nat) : List Nat :=
  (List.range 4).map (fun i => if serialLe (nth a i 0) (nth b i 0) then nth b i 0 else nth a i 0)

def Core.see (k : Core) (vc : List Nat) : Core := { k with seen := joinClock k.seen vc }

/-! ### Fills -/

/-- Sectors of the pieces that are not valid in the L1: a load of one fills it, whether or not stores have written its bytes
(R302). -/
def Core.missing (k : Core) (ps : List Placed) : List (Nat × Nat) :=
  let valid (a : Nat) : Bool := ((k.line? (lineOf a)).map (fun x => x.sectors.testBit (a % 128 / 32))).getD false
  (ps.flatMap (fun q => (List.range q.piece.len).filterMap (fun i =>
    let a := q.loc + i
    if isDevice a && !valid a then some (lineOf a, a % 128 / 32) else none))).eraseDups

/-- Some byte of the pieces is not in the L1. -/
def Core.lacks (k : Core) (ps : List Placed) : Bool :=
  ps.any (fun q => (List.range q.piece.len).any (fun i => isDevice (q.loc + i) && (k.l1Byte (q.loc + i)).isNone))

/-- The request of a core for a sector that is on its way. -/
def Core.fill? (k : Core) (line sector : Nat) : Option FillReq := k.fills.find? (fun f => f.line == line && f.sector == sector)

/-- Ask the serving slice for sectors, once each. -/
def Core.ask (k : Core) (sent : Nat) (want : List (Nat × Nat)) : Core :=
  let fresh := want.filter (fun f => (k.fill? f.1 f.2).isNone)
  { k with fills := k.fills ++ fresh.zipIdx.map (fun f => ⟨k.nextId + f.2, f.1.1, f.1.2, sent⟩), nextId := k.nextId + fresh.length }

/-- Ask the serving slice for the missing sectors. -/
def Core.askFills (k : Core) (sent : Nat) (ps : List Placed) : Core := k.ask sent (k.missing ps)

/-- Ask for a line at the serving slice alone: an entry of the number 4. -/
def Core.askLine (k : Core) (sent line : Nat) : Core := k.ask sent [(line, 4)]

/-- Pieces whose data is poisoned where a load would read it: for an acquire at the slices, those of the home under .DV and .SY
(R262); else at those of the core's die, in sectors that the L1 does not hold. -/
def Part.poisonedPieces (p : Part) (core : Nat) (acquire : Option Nat) (ps : List Placed) : List Placed :=
  let k := (p.core? core).getD Core.reset
  let die (loc : Nat) : Nat := if acquire.any scopeWide then homeDie loc else dieOf core
  ps.filter (fun q => isDevice q.loc && p.poisonedAt (die q.loc) (lineOf q.loc) &&
    (acquire.isSome || (List.range q.piece.len).any (fun i => (k.l1Byte (q.loc + i)).isNone)))

/-! ### Own order and acquires at issue, R145, R282 -/

/-- The warp has a request that a later access must follow: an atomic or barrier step not yet performed on one of its physical
lines, a load not yet returned on one of its words, or, unless the access is a load, on one of its lines. (What an instruction
held at its issue has asked the host or a peer for is its own.) -/
def Part.lineBusy (p : Part) (r : WarpRef) (isLoad : Bool) (lines words : List Nat) : Bool :=
  let atoms : List AtomReq := match p.core? r.core with
    | none => []
    | some k => k.atoms.filter (fun a => a.w == r)
  let meets (a : Nat) : Bool := if isLoad then words.contains (a / 4) else lines.contains (lineOf a)
  let open_ (l : PendLane) : List Nat := l.bytes.filterMap (fun b => if b.got.isNone then b.loc else none)
  let loads : List Nat := match p.warp? r with
    | none => []
    | some w => w.pend.flatMap (fun e => e.lanes.flatMap open_)
  let remote (q : Remote) : Bool := q.w == r && (if q.kind = 1 then lines.contains (lineOf q.loc)
    else if q.kind = 8 then q.command.isNone && lines.contains (lineOf q.loc)
    else q.kind == 0 && q.pend.isSome && (List.range q.count).any (fun i => meets (q.loc + i)))
  let barrier (u : TbUpdate) : Bool := u.w == r && u.command.isNone && lines.contains (lineOf u.addr)
  atoms.any (fun a => a.lanes.any (fun l => lines.contains (lineOf l.loc))) || loads.any meets || p.mgmt.remotes.any remote
    || p.tbUpdates.any barrier

/-- An acquire of the warp is not yet performed. -/
def Part.acquiring (p : Part) (r : WarpRef) : Bool :=
  match p.core? r.core with
  | none => false
  | some k => k.atoms.any (fun a => a.w == r && a.acquire.isSome) || k.oplog.any (fun e => e.w == r && e.acquire.isSome)
      || p.mgmt.remotes.any (fun q => q.w == r && q.acquire.isSome)
      || (((p.warp? r).bind (·.lockWait)).bind (·.pend)).isSome

/-! ### Release rounds, R304, R305 -/

/-- The packets of a round are among those that a release answers for: its own round (R305), and older ones with stores of its warp
(R145). -/
def Release.answers (x : Release) (round : Nat) : Bool := round == x.round || x.older.contains round

/-- What a release still has to be answered for, R305: the packets that it answers for, the copy-backs
of its round at the slices, and at every die where it is wide, the writes that its warp has seen or made by other means. -/
def Part.roundDone (p : Part) (core : Nat) (x : Release) : Bool :=
  let d := dieOf core
  (match p.core? core with
    | none => true
    | some k => !k.packets.any (fun q => x.answers q.round)) &&
  x.sent.all (fun q =>
    let n := roundKey core x.round q.1
    decide (q.2 ≤ countOf n (p.die d).applied) && (!x.wide || decide (q.2 ≤ countOf n (p.die d).acked))) &&
  (if x.wide then p.dies.all (fun y => vcLe x.need y.vc) else p.applied d x.need) &&
  !x.flush && x.fences.isEmpty

/-- A write of a round has been performed: the releases that answer for the round answer for its clock. -/
def Core.owe (k : Core) (round : Nat) (vc : List Nat) : Core :=
  { k with releases := k.releases.map (fun x => if x.answers round then { x with need := joinClock x.need vc } else x) }

/-- Rounds of a core whose packets are on their way. -/
def Core.openRounds (k : Core) : List Nat := (k.packets.map (·.round)).eraseDups

/-- A warp stores in the current round of its core; rounds whose packets have all been performed are forgotten. -/
def Core.noteStore (k : Core) (w : Warp) : Warp :=
  { w with stored := (w.stored.filter (fun n => k.openRounds.contains n && n != k.round)) ++ [k.round] }

/-- Ports that reach a peer, R363. -/
def Part.route (p : Part) (dev : Nat) : List Nat := (p.mgmt.routes.filter (fun r => r.1 == dev)).map (·.2)

/-- The port on which a request to a peer leaves; none for the host, and where no port is left. -/
def Part.portOf (p : Part) (loc : Nat) : Option Nat :=
  if locTarget loc != 2 then none
  else
    let ports := p.route (loc / 2 ^ 40 % 2 ^ 12)
    if ports.isEmpty then none else ports[bitsNat loc 11 7 % ports.length]?

/-- What the lanes' requests have in common that leave as one, R35. -/
def Remote.message (q : Remote) : (Nat × WarpRef × Nat × Option Nat) × (Option Nat × Nat × Nat) :=
  ((q.kind, q.w, q.pc, q.pend), (q.command, q.issued, lineOf q.loc))

/-- Requests at the Vexlink engine of a die: those of its cores' instructions and engines for lines of peers that have no
answer yet (R35, R341). Inbound ones are served as they come. -/
def Part.vexMessages (p : Part) (d : Nat) : List ((Nat × WarpRef × Nat × Option Nat) × (Option Nat × Nat × Nat)) :=
  let mine := p.mgmt.remotes.filter (fun q => locTarget q.loc == 2 && dieOf q.w.core == d
    && !(q.kind == 0 && q.pend.isNone && q.op != 0))
  (mine.map Remote.message).eraseDups

def Part.vexLoad (p : Part) (d : Nat) : Nat := (p.vexMessages d).length

def vexQueueSize : Nat := 128

/-- The Vexlink engine has taken a request: it holds 128, and those that releases, lists and count-downs make beyond wait (R341). -/
def Part.vexTaken (p : Part) (q : Remote) : Bool :=
  locTarget q.loc != 2 || ((p.vexMessages (dieOf q.w.core)).take vexQueueSize).contains q.message

/-- The Vexlink engine of a die has no place for more requests. -/
def Part.vexFull (p : Part) (d n : Nat) : Bool := n != 0 && decide (vexQueueSize < p.vexLoad d + n)

/-- Every earlier access of the warp has been performed, those in the operand log included (R282). -/
def Part.performed (p : Part) (r : WarpRef) : Bool :=
  match p.core? r.core with
  | none => true
  | some k =>
    let open_ := match p.warp? r with
      | none => false
      | some w => w.pend.any (fun e => e.lanes.any (fun l => !l.known && l.form != .whole))
    !open_ && !k.atoms.any (fun a => a.w == r) && !k.oplog.any (fun e => e.w == r)
      && !p.mgmt.remotes.any (fun q => q.w == r && (decide (q.kind ≤ 1) || (q.kind == 8 && q.command.isNone)))
      && !p.tbUpdates.any (fun u => u.w == r && u.command.isNone)

/-- What a release waits for first: earlier accesses performed, flushes and discards complete (R145, R282). -/
def Part.quietOf (p : Part) (r : WarpRef) : Bool :=
  p.performed r &&
    (match p.core? r.core with
    | none => true
    | some k => !k.walkers.any (fun w => w.w == r) && !k.discards.any (fun d => d.2.2 == r))

/-- A remote request of a kind for a location, by an instruction of a warp. -/
def remoteReq (kind loc : Nat) (w : WarpRef) (pc : Nat) : Remote :=
  ⟨0, kind, loc, w, pc, none, none, none, 0, 0, 0, [], 0, none, 0, false⟩

/-- Send a remote request. -/
def Part.sendRemote (p : Part) (r : Remote) : Part :=
  let r := { r with id := p.nextCommand, issued := p.now }
  { p.onMgmt (fun m => { m with remotes := m.remotes ++ [r] }) with nextCommand := p.nextCommand + 1 }

/-- Close the round of a core for a release, R305: its dirty words leave, and what is sent later belongs to the next round. The
release answers for those of some rounds whose packets are on their way. -/
def Core.closeRound (k : Core) (vc : List Nat) (wide flush : Bool) (fences rounds : List Nat) : Core :=
  let k := k.copyBackAll
  let older := rounds.filter (fun n => n != k.round && k.openRounds.contains n)
  let x : Release := ⟨k.nextId, k.round, older, wide, flush, fences, none, k.sent, joinClock k.seen vc⟩
  { k with releases := k.releases ++ [x], round := k.round + 1, nextId := k.nextId + 1, sent := [] }

/-- Begin a release at .DV by no warp of its own, for a kernel boundary (R19) or a swap-out (R288): its number; none while two
rounds are unanswered. -/
def Part.beginRound (p : Part) (core : Nat) : Part × Option Nat :=
  match p.core? core with
  | none => (p, some 0)
  | some k =>
    if 2 ≤ k.releases.length then (p, none)
    else
      let k := k.closeRound (p.die (dieOf core)).vc true false [] k.openRounds
      (p.onCore core (fun _ => k), some (k.nextId - 1))

/-- A release of a core has been answered. -/
def Part.answered (p : Part) (core release : Nat) : Bool :=
  ((p.core? core).map (fun k => !k.releases.any (fun x => x.id == release))).getD true

/-- Begin a release at .CL or wider for a warp, R305: the dirty words of the core leave under a new round. At .SY the
flushing read and the fences are sent too, also where another release still awaits them (R270, R366). None while two rounds
are unanswered. -/
def Part.beginRelease (p : Part) (r : WarpRef) (pc scope : Nat) : Option Part :=
  match p.core? r.core with
  | none => none
  | some k =>
    if 2 ≤ k.releases.length then none
    else
      let flush := decide (scope = 4) && (k.hostDirty || k.releases.any (·.flush))
      let fences := if scope = 4 then (k.portsDirty ++ k.releases.flatMap (·.fences)).eraseDups else []
      let k1 := k.closeRound (p.die (dieOf r.core)).vc (scopeWide scope) flush fences (((p.warp? r).map (·.stored)).getD [])
      let id := k1.nextId - 1
      let k1 := { k1 with hostDirty := k.hostDirty && scope != 4, portsDirty := if scope = 4 then [] else k.portsDirty }
      let p := (p.onCore r.core (fun _ => k1)).onWarp r (fun w => { w with release := some ⟨pc, id, false⟩ })
      let p := if flush then p.sendRemote { remoteReq 6 (remoteLoc 1 0) r pc with command := some id } else p
      some (p.onMgmt (fun m => { m with ports := m.ports.zipIdx.map (fun q =>
        if fences.contains q.2 then { q.1 with fences := q.1.fences + 1 } else q.1) }))

/-- What a release does at issue: it is held until earlier accesses are performed, until its round is sent and until
the round is answered. -/
inductive Released where
  | hold
  | begun (p : Part)
  | done (p : Part)

/-- The latest release of a core completes without a query: its round sent nothing, and nothing else is outstanding (R305). -/
def Part.closeEmpty (p : Part) (r : WarpRef) : Option Part :=
  match (p.core? r.core).bind (fun k => k.releases.getLast?) with
  | none => none
  | some x =>
    if x.sent.isEmpty && p.roundDone r.core x then
      some ((p.onCore r.core (fun k => { k with releases := k.releases.dropLast })).onWarp r (fun w => { w with release := none }))
    else none

/-- A release that nothing keeps from starting. -/
def Part.startRelease (p : Part) (r : WarpRef) (pc scope : Nat) : Released :=
  if scope = 0 then .done p
  else
    match p.beginRelease r pc scope with
    | none => .hold
    | some p =>
      match p.closeEmpty r with
      | none => .begun p
      | some p => .done p

/-- A release at a scope by the instruction at hand (R145, R282). A finished one of another instruction is dropped. `quiet` tells
that every earlier access of the warp has been performed. -/
def Part.release (p : Part) (r : WarpRef) (pc scope : Nat) (quiet : Bool) : Released :=
  match (p.warp? r).bind (·.release) with
  | some x =>
    if x.done && x.pc == pc then .done (p.onWarp r (fun w => { w with release := none }))
    else if !x.done || !quiet then .hold
    else p.startRelease r pc scope
  | none => if !quiet then .hold else p.startRelease r pc scope

end Sys2Proof.Machine
end

