-- ==== Sys2Proof/Machine/LaneInt.lean ====
section
/-! DEFINITION. Integer and bit instructions, moves, selection and predicates of the lanes (R104 to R108, R114, R115). -/

namespace Sys2Proof.Machine

/-! ### Integer arithmetic, R104 -/

/-- An element code as an integer at the element's signedness. -/
def elemInt (f : Entry) (code : Nat) : Int :=
  if f.isSigned then toSigned f.width code else (code % 2 ^ f.width : Nat)

/-- An exact value fitted to an element: its code, the flags, and whether TRAPV traps. One that .SAT clamps sets ST alone (R103;
DEDUCED against the NX of R96, log entry 18). -/
def fitInt (f : Entry) (trapv sat : Bool) (v : Int) : Nat × Flags × Bool :=
  let w := f.width
  if v < intMin f.isSigned w || intMax f.isSigned w < v then
    if trapv then (wrapInt w v, 0, true)
    else if sat then (wrapInt w (if v < 0 then intMin f.isSigned w else intMax f.isSigned w), flagST, false)
    else (wrapInt w v, 0, false)
  else (wrapInt w v, 0, false)

/-- The results of one lane: result registers, flags, whether TRAPV traps. -/
structure IntLane where
  out : PendLane
  flags : Flags
  ovf : Bool

/-- One lane of an integer instruction, with the exact value of an element in terms of A's entry and the codes of
the elements of A, B and C. -/
def intLane (f : Base) (x : Ext) (useB useC : Bool) (op : Entry → Nat → Nat → Nat → Int) (e : Env) (l : Nat) :
    Except TrapInfo IntLane :=
  let ra := groupRegs f.a x.wa
  let rb := if useB then groupRegs f.b x.wb else []
  let rc := if useC then groupRegs x.c x.wc else []
  match intView e l ra ((if uniformB x then [] else rb) ++ rc) with
  | .error t => .error t
  | .ok ent =>
    let as := elemsOf ent (e.words l ra)
    let bs := elemsOf ent (e.bWords (uniformB x) l rb)
    let cs := elemsOf ent (e.words l rc)
    let rs := as.zipIdx.map (fun p =>
      fitInt ent (mBit x 2) (mBit x 1) (op ent p.1 (nth bs p.2 0) (nth cs p.2 0)))
    .ok ⟨laneWrites l (groupWrites (groupRegs f.d x.wd) (packElems ent (rs.map (·.1))) (e.tags l ra)),
      orFlags (rs.map (·.2.1)), rs.any (·.2.2)⟩

/-- An integer instruction: INT_OVF names the lanes that overflow. -/
def intBody (f : Base) (x : Ext) (useB useC : Bool) (op : Entry → Nat → Nat → Nat → Int) : LaneBody := fun e =>
  match mapLanes (intLane f x useB useC op e) e.acting with
  | .error t => .error t
  | .ok ls =>
    let bad := (ls.filter (·.ovf)).map (·.out.lane)
    if bad.isEmpty then .ok (gather (ls.map (fun r => (r.out, r.flags))))
    else .error { cause := causeIntOvf, info0 := maskOf bad }

def bodyIadd (f : Base) (x : Ext) : LaneBody :=
  intBody f x true false (fun t a b _ => elemInt t a + elemInt t b)

def bodyIsub (f : Base) (x : Ext) : LaneBody :=
  intBody f x true false (fun t a b _ => elemInt t a - elemInt t b)

/-- HI: the floor of the product divided by 2^w. -/
def bodyImul (f : Base) (x : Ext) : LaneBody :=
  intBody f x true false (fun t a b _ =>
    let v := elemInt t a * elemInt t b
    if mBit x 0 then Int.fdiv v (2 ^ t.width : Nat) else v)

def bodyImad (f : Base) (x : Ext) : LaneBody :=
  intBody f x true true (fun t a b c => elemInt t a * elemInt t b + elemInt t c)

def bodyIminmax (f : Base) (x : Ext) : LaneBody :=
  intBody f x true false (fun t a b _ =>
    if mBit x 0 then max (elemInt t a) (elemInt t b) else min (elemInt t a) (elemInt t b))

def bodyIabs (f : Base) (x : Ext) : LaneBody :=
  intBody f x false false (fun t a _ _ => ((elemInt t a).natAbs : Int))

/-- Shifts take their count modulo the width. -/
def bodyShl (f : Base) (x : Ext) : LaneBody :=
  intBody f x true false (fun t a b _ => elemInt t (a * 2 ^ (b % t.width) % 2 ^ t.width))

def bodyShr (f : Base) (x : Ext) : LaneBody :=
  intBody f x true false (fun t a b _ =>
    if mBit x 0 then elemInt t (wrapInt t.width (Int.fdiv (toSigned t.width a) (2 ^ (b % t.width) : Nat)))
    else elemInt t (a / 2 ^ (b % t.width)))

/-! ### Bit instructions, R105 -/

/-- A lane instruction under the bits view: the words of D from those of A, B and C, and their tags from A's. -/
def bitsBody (f : Base) (x : Ext) (op : Word → Word → Word → Word) (tagOf : Byte → Byte) : LaneBody := fun e =>
  .ok (gather (e.acting.map (fun l =>
    let ra := groupRegs f.a x.wa
    let bs := e.bWords (uniformB x) l (groupRegs f.b x.wb)
    let cs := e.words l (groupRegs x.c x.wc)
    let ws := (e.words l ra).zipIdx.map (fun p => op p.1 (nth bs p.2 0) (nth cs p.2 0))
    (laneWrites l (groupWrites (groupRegs f.d x.wd) ws ((e.tags l ra).map tagOf)), 0))))

def bodyAnd (f : Base) (x : Ext) : LaneBody := bitsBody f x (fun a b _ => a &&& b) id
def bodyOr (f : Base) (x : Ext) : LaneBody := bitsBody f x (fun a b _ => a ||| b) id
def bodyXor (f : Base) (x : Ext) : LaneBody := bitsBody f x (fun a b _ => a ^^^ b) id
def bodyAndn (f : Base) (x : Ext) : LaneBody := bitsBody f x (fun a b _ => a &&& ~~~b) id

/-- Funnel shift with b the high word: the high word of (b:a) << n, or the low word of (b:a) >> n. -/
def bodyShf (f : Base) (x : Ext) : LaneBody :=
  bitsBody f x (fun a b c =>
    let n := c.toNat % 32
    let ba := pairNat a b
    if mBit x 0 then word (ba / 2 ^ n) else word (ba * 2 ^ n / 2 ^ 32)) id

def bodyPopc (f : Base) (x : Ext) : LaneBody :=
  bitsBody f x (fun a _ _ => word (popCount 32 a.toNat)) (fun _ => tagUint32)

/-- Leading zeros, 32 for zero. -/
def leadingZeros (a : Nat) : Nat :=
  if a = 0 then 32 else 31 - a.log2

def bodyClz (f : Base) (x : Ext) : LaneBody :=
  bitsBody f x (fun a _ _ => word (leadingZeros a.toNat)) (fun _ => tagUint32)

/-- Bit i to bit 31 − i. -/
def reverseBits (a : Nat) : Nat :=
  (List.range 32).foldl (fun r i => r + bitNat a i * 2 ^ (31 - i)) 0

def bodyBrev (f : Base) (x : Ext) : LaneBody :=
  bitsBody f x (fun a _ _ => word (reverseBits a.toNat)) id

/-- Position and length of BFX and BFI. -/
def fieldPos (b : Word) : Nat := field b 4 0
def fieldLen (b : Word) : Nat := min (field b 13 8) (32 - fieldPos b)

def bodyBfx (f : Base) (x : Ext) : LaneBody :=
  bitsBody f x (fun a b _ =>
    let len := fieldLen b
    let v := a.toNat / 2 ^ fieldPos b % 2 ^ len
    if len = 0 then 0 else if mBit x 0 then wordOfInt (toSigned len v) else word v)
    (fun _ => if mBit x 0 then tagInt32 else tagUint32)

def bodyBfi (f : Base) (x : Ext) : LaneBody :=
  bitsBody f x (fun a b c =>
    let pos := fieldPos b
    let len := fieldLen b
    let old := a.toNat / 2 ^ pos % 2 ^ len
    word (a.toNat - old * 2 ^ pos + c.toNat % 2 ^ len * 2 ^ pos)) id

/-! ### Moves, selection and predicates, R106 to R108 -/

/-- NOP: every issue of it is a no-operation. -/
def bodyNop (_f : Base) (_x : Ext) : LaneBody := fun _ => .ok ⟨[], 0, []⟩

/-- The check of an FMT field that MOV, MOVI and TAGSET install, R106. -/
def checkInstall (c : FmtCtx) (i : Nat) (pair : Bool) : Except TrapInfo Entry :=
  match checkIndexTag c i with
  | .error t => .error t
  | .ok ent => if ent.epw = 15 && !pair then .error (indexMismatch c i) else .ok ent

/-- The act of every participant, when there is one, after a check of an index field. -/
def afterInstall (i : Nat) (pair : Bool) (k : Env → LaneOut) : LaneBody := fun e =>
  if e.acting.isEmpty then .ok ⟨[], 0, []⟩
  else
    match checkInstall e.fmt i pair with
    | .error t => .error t
    | .ok _ => .ok (k e)

def bodyMov (f : Base) (x : Ext) : LaneBody :=
  let rd := groupRegs f.d x.wd
  if uniformB x then
    let i := mBits x 4 0
    afterInstall i (x.wd == 1) (fun e => gather (e.acting.map (fun l =>
      (laneWrites l (groupWrites rd ((groupRegs f.b x.wb).map e.s) (rd.map (fun _ => e.fmt.tagOf i))), 0))))
  else fun e => .ok (gather (e.acting.map (fun l =>
    let ra := groupRegs f.a x.wa
    (laneWrites l (groupWrites rd (e.words l ra) (e.tags l ra)), 0))))

def bodyMovi (f : Base) (imm : Word) : LaneBody :=
  afterInstall f.a.toNat false (fun e => gather (e.acting.map (fun l =>
    (laneWrites l [(.v f.d.toNat, imm, e.fmt.tagOf f.a.toNat)], 0))))

def bodyIaddi (f : Base) (imm : Word) : LaneBody := fun e =>
  let a := f.a.toNat
  match mapLanes (fun l =>
    match intView e l [a] [] with
    | .error t => .error t
    | .ok ent =>
      let g := e.tag l a
      if ent.epw = 1 then .ok (laneWrites l [(.v f.d.toNat, e.v l a + imm, g)], (0 : Flags))
      else .error (fmtTrap causeFmtMismatch a 0 (tagIndex g) g)) e.acting with
  | .error t => .error t
  | .ok ls => .ok (gather ls)

def bodySel (f : Base) (x : Ext) : LaneBody := fun e =>
  .ok (gather (e.acting.map (fun l =>
    let ra := groupRegs f.a x.wa
    let rb := groupRegs f.b x.wb
    let rd := groupRegs f.d x.wd
    if e.p l x.c.toNat != mBit x 0 then (laneWrites l (groupWrites rd (e.words l ra) (e.tags l ra)), 0)
    else (laneWrites l (groupWrites rd (e.bWords (uniformB x) l rb)
      (if uniformB x then e.tags l ra else e.tags l rb)), 0))))

/-- The combining operator of R107. -/
def combine (op : Nat) (a b : Bool) : Bool :=
  match op with
  | 0 => a && b
  | 1 => a || b
  | _ => a != b

/-- A condition on the sign of a difference, R107, and whether it holds for an unordered pair. -/
def condHolds (cond : Nat) (c : Int) : Bool :=
  match cond with
  | 0 => c == 0
  | 1 => c != 0
  | 2 => decide (c < 0)
  | 3 => decide (c ≤ 0)
  | 4 => decide (0 < c)
  | 5 => decide (0 ≤ c)
  | 6 => true
  | _ => false

def condUnordered (cond : Nat) : Bool :=
  cond == 1 || cond == 7

/-- The predicate a comparison writes. -/
def setPredOf (f : Base) (x : Ext) (e : Env) (l : Nat) (r : Bool) : PendLane :=
  laneWrites l [(.p f.d.toNat, wordOfBool (combine (mBits x 5 4) r (e.p l x.c.toNat != mBit x 6)), 0)]

def bodyIset (f : Base) (x : Ext) : LaneBody := fun e =>
  let ra := groupRegs f.a x.wa
  let rb := groupRegs f.b x.wb
  match mapLanes (fun l =>
    match intView e l ra (if uniformB x then [] else rb) with
    | .error t => .error t
    | .ok ent =>
      let g := e.tag l f.a.toNat
      if ent.epw = 1 || ent.epw = 15 then
        let a := elemInt ent (elemOf ent (e.words l ra) 0)
        let b := elemInt ent (elemOf ent (e.bWords (uniformB x) l rb) 0)
        .ok (setPredOf f x e l (condHolds (mBits x 3 0) (a - b)), (0 : Flags))
      else .error (fmtTrap causeFmtMismatch f.a.toNat 0 (tagIndex g) g)) e.acting with
  | .error t => .error t
  | .ok ls => .ok (gather ls)

def bodyFset (f : Base) (x : Ext) : LaneBody := fun e =>
  let a := f.a.toNat
  let b := f.b.toNat
  match mapLanes (fun l =>
    match floatView e l [a] (if uniformB x then [] else [b]) with
    | .error t => .error t
    | .ok ent =>
      let g := e.tag l a
      if ent.epw = 1 then
        let va := decodeCode ent (e.v l a).toNat
        let vb := decodeCode ent (if uniformB x then e.s b else e.v l b).toNat
        let r := if va.isNan || vb.isNan then condUnordered (mBits x 3 0)
          else condHolds (mBits x 3 0) (va.cmp vb)
        .ok (setPredOf f x e l r, (0 : Flags))
      else .error (fmtTrap causeFmtMismatch a 0 (tagIndex g) g)) e.acting with
  | .error t => .error t
  | .ok ls => .ok (gather ls)

/-- The predicate fields of PLOP name p0 to p7. -/
def bodyPlop (f : Base) (x : Ext) : LaneBody := fun e =>
  .ok (gather (e.acting.map (fun l =>
    let n (b : Bool) : Nat := if b then 1 else 0
    let i := 4 * n (e.p l f.a.toNat) + 2 * n (e.p l f.b.toNat) + n (e.p l x.c.toNat)
    (laneWrites l [(.p f.d.toNat, wordOfBool (bitNat (mBits x 7 0) i == 1), 0)], 0))))

/-! ### Tags, R114, R115 -/

/-- INV installs a tag with VALID and INDEX 0 and a GEN of 0 (log entry 9). -/
def bodyTagset (f : Base) (x : Ext) : LaneBody :=
  let put (g : Env → Byte) (e : Env) : LaneOut := gather (e.acting.map (fun l =>
    let rd := groupRegs f.d x.wd
    (laneWrites l (groupWrites rd (e.words l (groupRegs f.a x.wa)) (rd.map (fun _ => g e))), 0)))
  if mBit x 5 then fun e => .ok (put (fun _ => 0) e)
  else afterInstall (mBits x 4 0) (x.wd == 1) (put (fun e => e.fmt.tagOf (mBits x 4 0)))

def bodyTagget (f : Base) (_x : Ext) : LaneBody := fun e =>
  .ok (gather (e.acting.map (fun l =>
    (laneWrites l [(.v f.d.toNat, word (e.tag l f.a.toNat).toNat, tagUint32)], 0))))

/-! ### The instructions -/

/-- NOP, R106. -/
def execNop (f : Base) (s : State) : Out :=
  issueLane ⟨.nop, f, .short⟩ s (bodyNop f Ext.absent)

/-- IADD, R104. -/
def execIadd (f : Base) (s : State) : Out :=
  issueLane ⟨.iadd, f, .short⟩ s (bodyIadd f Ext.absent)

/-- IADD_LONG, R104. -/
def execIaddLong (f : Base) (x : Ext) (s : State) : Out :=
  issueLane ⟨.iadd, f, .long x⟩ s (bodyIadd f x)

/-- ISUB, R104. -/
def execIsub (f : Base) (s : State) : Out :=
  issueLane ⟨.isub, f, .short⟩ s (bodyIsub f Ext.absent)

/-- ISUB_LONG, R104. -/
def execIsubLong (f : Base) (x : Ext) (s : State) : Out :=
  issueLane ⟨.isub, f, .long x⟩ s (bodyIsub f x)

/-- IMUL, R104. -/
def execImul (f : Base) (s : State) : Out :=
  issueLane ⟨.imul, f, .short⟩ s (bodyImul f Ext.absent)

/-- IMUL_LONG, R104. -/
def execImulLong (f : Base) (x : Ext) (s : State) : Out :=
  issueLane ⟨.imul, f, .long x⟩ s (bodyImul f x)

/-- IMAD, R104. -/
def execImad (f : Base) (x : Ext) (s : State) : Out :=
  issueLane ⟨.imad, f, .long x⟩ s (bodyImad f x)

/-- IMIN, R104. -/
def execImin (f : Base) (s : State) : Out :=
  issueLane ⟨.iminmax, f, .short⟩ s (bodyIminmax f Ext.absent)

/-- IMIN_IMAX_LONG, R104. -/
def execIminImaxLong (f : Base) (x : Ext) (s : State) : Out :=
  issueLane ⟨.iminmax, f, .long x⟩ s (bodyIminmax f x)

/-- IABS, R104. -/
def execIabs (f : Base) (s : State) : Out :=
  issueLane ⟨.iabs, f, .short⟩ s (bodyIabs f Ext.absent)

/-- IABS_LONG, R104. -/
def execIabsLong (f : Base) (x : Ext) (s : State) : Out :=
  issueLane ⟨.iabs, f, .long x⟩ s (bodyIabs f x)

/-- SHL, R104. -/
def execShl (f : Base) (s : State) : Out :=
  issueLane ⟨.shl, f, .short⟩ s (bodyShl f Ext.absent)

/-- SHL_LONG, R104. -/
def execShlLong (f : Base) (x : Ext) (s : State) : Out :=
  issueLane ⟨.shl, f, .long x⟩ s (bodyShl f x)

/-- SHR, R104. -/
def execShr (f : Base) (s : State) : Out :=
  issueLane ⟨.shr, f, .short⟩ s (bodyShr f Ext.absent)

/-- SHR_LONG, R104. -/
def execShrLong (f : Base) (x : Ext) (s : State) : Out :=
  issueLane ⟨.shr, f, .long x⟩ s (bodyShr f x)

/-- AND, R105. -/
def execAnd (f : Base) (s : State) : Out :=
  issueLane ⟨.and, f, .short⟩ s (bodyAnd f Ext.absent)

/-- AND_LONG, R105. -/
def execAndLong (f : Base) (x : Ext) (s : State) : Out :=
  issueLane ⟨.and, f, .long x⟩ s (bodyAnd f x)

/-- OR, R105. -/
def execOr (f : Base) (s : State) : Out :=
  issueLane ⟨.or, f, .short⟩ s (bodyOr f Ext.absent)

/-- OR_LONG, R105. -/
def execOrLong (f : Base) (x : Ext) (s : State) : Out :=
  issueLane ⟨.or, f, .long x⟩ s (bodyOr f x)

/-- XOR, R105. -/
def execXor (f : Base) (s : State) : Out :=
  issueLane ⟨.xor, f, .short⟩ s (bodyXor f Ext.absent)

/-- XOR_LONG, R105. -/
def execXorLong (f : Base) (x : Ext) (s : State) : Out :=
  issueLane ⟨.xor, f, .long x⟩ s (bodyXor f x)

/-- ANDN, R105. -/
def execAndn (f : Base) (s : State) : Out :=
  issueLane ⟨.andn, f, .short⟩ s (bodyAndn f Ext.absent)

/-- ANDN_LONG, R105. -/
def execAndnLong (f : Base) (x : Ext) (s : State) : Out :=
  issueLane ⟨.andn, f, .long x⟩ s (bodyAndn f x)

/-- SHF, R105. -/
def execShf (f : Base) (x : Ext) (s : State) : Out :=
  issueLane ⟨.shf, f, .long x⟩ s (bodyShf f x)

/-- POPC, R105. -/
def execPopc (f : Base) (s : State) : Out :=
  issueLane ⟨.popc, f, .short⟩ s (bodyPopc f Ext.absent)

/-- POPC_LONG, R105. -/
def execPopcLong (f : Base) (x : Ext) (s : State) : Out :=
  issueLane ⟨.popc, f, .long x⟩ s (bodyPopc f x)

/-- CLZ, R105. -/
def execClz (f : Base) (s : State) : Out :=
  issueLane ⟨.clz, f, .short⟩ s (bodyClz f Ext.absent)

/-- CLZ_LONG, R105. -/
def execClzLong (f : Base) (x : Ext) (s : State) : Out :=
  issueLane ⟨.clz, f, .long x⟩ s (bodyClz f x)

/-- BREV, R105. -/
def execBrev (f : Base) (s : State) : Out :=
  issueLane ⟨.brev, f, .short⟩ s (bodyBrev f Ext.absent)

/-- BREV_LONG, R105. -/
def execBrevLong (f : Base) (x : Ext) (s : State) : Out :=
  issueLane ⟨.brev, f, .long x⟩ s (bodyBrev f x)

/-- BFX, R105. -/
def execBfx (f : Base) (x : Ext) (s : State) : Out :=
  issueLane ⟨.bfx, f, .long x⟩ s (bodyBfx f x)

/-- BFI, R105. -/
def execBfi (f : Base) (x : Ext) (s : State) : Out :=
  issueLane ⟨.bfi, f, .long x⟩ s (bodyBfi f x)

/-- MOV, R106. -/
def execMov (f : Base) (s : State) : Out :=
  issueLane ⟨.mov, f, .short⟩ s (bodyMov f Ext.absent)

/-- MOV_LONG, R106. -/
def execMovLong (f : Base) (x : Ext) (s : State) : Out :=
  issueLane ⟨.mov, f, .long x⟩ s (bodyMov f x)

/-- MOVI, R106. -/
def execMovi (f : Base) (imm : Word) (s : State) : Out :=
  issueLane ⟨.movi, f, .imm imm⟩ s (bodyMovi f imm)

/-- IADDI, R106. -/
def execIaddi (f : Base) (imm : Word) (s : State) : Out :=
  issueLane ⟨.iaddi, f, .imm imm⟩ s (bodyIaddi f imm)

/-- SEL, R106. -/
def execSel (f : Base) (x : Ext) (s : State) : Out :=
  issueLane ⟨.sel, f, .long x⟩ s (bodySel f x)

/-- ISET, R107. -/
def execIset (f : Base) (x : Ext) (s : State) : Out :=
  issueLane ⟨.iset, f, .long x⟩ s (bodyIset f x)

/-- FSET, R107. -/
def execFset (f : Base) (x : Ext) (s : State) : Out :=
  issueLane ⟨.fset, f, .long x⟩ s (bodyFset f x)

/-- PLOP, R108. -/
def execPlop (f : Base) (x : Ext) (s : State) : Out :=
  issueLane ⟨.plop, f, .long x⟩ s (bodyPlop f x)

/-- TAGSET, R114. -/
def execTagset (f : Base) (x : Ext) (s : State) : Out :=
  issueLane ⟨.tagset, f, .long x⟩ s (bodyTagset f x)

/-- TAGGET, R115. -/
def execTagget (f : Base) (s : State) : Out :=
  issueLane ⟨.tagget, f, .short⟩ s (bodyTagget f Ext.absent)

/-- TAGGET_LONG, R115. -/
def execTaggetLong (f : Base) (x : Ext) (s : State) : Out :=
  issueLane ⟨.tagget, f, .long x⟩ s (bodyTagget f x)

end Sys2Proof.Machine
end

