-- ==== Sys2Proof/Machine/LaneFloat.lean ====
section
/-! DEFINITION. Float arithmetic, functions, dot products, conversion and quantisation of the lanes (R109 to R113,
R116). -/

namespace Sys2Proof.Machine

/-! ### Float arithmetic, R109 -/

/-- A source under its modifiers: the magnitude first, then the sign. -/
def modified (absBit negBit : Bool) (v : Val) : Val :=
  let v := if absBit then v.abs else v
  if negBit then v.negate else v

/-- One lane of a float instruction, with the code and flags of an element in terms of A's entry and the codes of
the elements of A, B and C. -/
def floatLane (f : Base) (x : Ext) (useB useC : Bool) (op : Entry → Nat → Nat → Nat → Nat × Flags) (e : Env)
    (l : Nat) : Except TrapInfo (PendLane × Flags) :=
  let ra := groupRegs f.a x.wa
  let rb := if useB then groupRegs f.b x.wb else []
  let rc := if useC then groupRegs x.c x.wc else []
  match floatView e l ra ((if uniformB x then [] else rb) ++ rc) with
  | .error t => .error t
  | .ok ent =>
    let as := elemsOf ent (e.words l ra)
    let bs := elemsOf ent (e.bWords (uniformB x) l rb)
    let cs := elemsOf ent (e.words l rc)
    let rs := as.zipIdx.map (fun p => op ent p.1 (nth bs p.2 0) (nth cs p.2 0))
    .ok (laneWrites l (groupWrites (groupRegs f.d x.wd) (packElems ent (rs.map (·.1))) (e.tags l ra)),
      orFlags (rs.map (·.2)))

def floatBody (f : Base) (x : Ext) (useB useC : Bool) (op : Entry → Nat → Nat → Nat → Nat × Flags) : LaneBody :=
  fun e =>
    match mapLanes (floatLane f x useB useC op e) e.acting with
    | .error t => .error t
    | .ok ls => .ok (gather ls)

/-- Round a value into an entry under RM and join the flags raised before. -/
def rounded (x : Ext) (ent : Entry) (r : Val × Flags) : Nat × Flags :=
  let (code, fl) := roundInto ent (modeOf (rmField x) ent) r.1
  (code, fl ||| r.2)

/-- Sources A, B and C of R109 under their modifiers. -/
def srcA (x : Ext) (ent : Entry) (code : Nat) : Val := modified (mBit x 4) (mBit x 3) (decodeCode ent code)
def srcB (x : Ext) (ent : Entry) (code : Nat) : Val := modified (mBit x 6) (mBit x 5) (decodeCode ent code)
def srcC (x : Ext) (ent : Entry) (code : Nat) : Val := modified (mBit x 8) (mBit x 7) (decodeCode ent code)

def bodyFadd (f : Base) (x : Ext) : LaneBody :=
  floatBody f x true false (fun t a b _ =>
    rounded x t ((srcA x t a).add (modeOf (rmField x) t) (srcB x t b)))

def bodyFmul (f : Base) (x : Ext) : LaneBody :=
  floatBody f x true false (fun t a b _ => rounded x t ((srcA x t a).mul (srcB x t b)))

/-- a × b + c rounded once; a NaN operand decides before an invalid product. -/
def fmaVal (mode : Nat) (a b c : Val) : Val × Flags :=
  if a.isNan || b.isNan || c.isNan then (.nan, 0)
  else
    match a.mul b with
    | (.nan, fl) => (.nan, fl)
    | (p, _) => p.add mode c

def bodyFfma (f : Base) (x : Ext) : LaneBody :=
  floatBody f x true true (fun t a b c =>
    rounded x t (fmaVal (modeOf (rmField x) t) (srcA x t a) (srcB x t b) (srcC x t c)))

/-- The order of FMIN and FMAX: −0 below +0. -/
def belowEq (a b : Val) : Bool :=
  let c := a.cmp b
  if c = 0 then a.neg || !b.neg else decide (c < 0)

/-- FMIN or FMAX of two codes, R109. -/
def minMaxCode (ent : Entry) (isMax nanp : Bool) (a b : Nat) : Nat :=
  let va := decodeCode ent a
  let vb := decodeCode ent b
  if va.isNan && vb.isNan then ent.nanCode
  else if va.isNan then (if nanp then ent.nanCode else b)
  else if vb.isNan then (if nanp then ent.nanCode else a)
  else if belowEq va vb then (if isMax then b else a) else (if isMax then a else b)

def bodyFminmax (f : Base) (x : Ext) : LaneBody :=
  floatBody f x true false (fun t a b _ => (minMaxCode t (mBit x 0) (mBit x 1) a b, 0))

/-! ### Functions, R110, R111 -/

def fnBody (fn : FloatFn) (f : Base) (x : Ext) : LaneBody :=
  floatBody f x false false (fun t a _ _ => rounded x t (fn.eval (decodeCode t a)))

def bodyFrcp (f : Base) (x : Ext) : LaneBody := fnBody .rcp f x
def bodyFrsq (f : Base) (x : Ext) : LaneBody := fnBody .rsq f x
def bodyFsqrt (f : Base) (x : Ext) : LaneBody := fnBody .sqrt f x
def bodyFexp2 (f : Base) (x : Ext) : LaneBody := fnBody .exp2 f x
def bodyFlog2 (f : Base) (x : Ext) : LaneBody := fnBody .log2 f x
def bodyFsin (f : Base) (x : Ext) : LaneBody := fnBody .sin f x
def bodyFcos (f : Base) (x : Ext) : LaneBody := fnBody .cos f x
def bodyFtanh (f : Base) (x : Ext) : LaneBody := fnBody .tanh f x

/-- An infinity or a NaN keeps its kind without the mapping and the flags of R84. -/
def bodyFrnd (f : Base) (x : Ext) : LaneBody :=
  floatBody f x false false (fun t a _ _ =>
    let v := decodeCode t a
    let (r, fl) := roundIntegral (modeOf (rmField x) t) v
    let (code, fl') := roundFloat t (modeOf (rmField x) t) r
    if v.isInf then (t.infCode v.neg, 0) else if v.isNan then (t.nanCode, 0) else (code, fl ||| fl'))

/-! ### Dot product, R112 -/

def sourceKindOk (t : Entry) : Bool := t.kind == kindInteger || t.kind == kindFloat

/-- One lane of FDOT. -/
def fdotLane (f : Base) (x : Ext) (e : Env) (l : Nat) : Except TrapInfo (PendLane × Flags) :=
  let ra := groupRegs f.a x.wa
  let rb := groupRegs f.b x.wb
  let vb := if uniformB x then [] else rb
  let c := x.c.toNat
  let gc := e.tag l c
  let ga := e.tag l f.a.toNat
  match checkGroup e l (ra ++ vb ++ [c]) with
  | .error t => .error t
  | .ok _ =>
    match both (checkKinds e l sourceKindOk (ra ++ vb)) (checkEqual e l ga (ra ++ vb)) with
    | .error t => .error t
    | .ok _ =>
      let ent := e.fmt.entry (tagIndex ga)
      let as := elemsOf ent (e.words l ra)
      let bs := elemsOf ent (e.bWords (uniformB x) l rb)
      let mismatch : TrapInfo := fmtTrap causeFmtMismatch c 0 (tagIndex gc) gc
      if ent.epw = 15 && ra.length = 1 then .error (fmtTrap causeFmtMismatch f.a.toNat 0 (tagIndex ga) ga)
      else if ent.kind = kindFloat then
        if mBit x 1 then .error (trapOf causeIllField)
        else if tagIndex gc != 3 then .error mismatch
        else
          let r := dotVals [ofFp32 (e.v l c)] ((as.zip bs).map (fun p => (decodeCode ent p.1, decodeCode ent p.2)))
          let (code, fl) := rounded x fp32 r
          .ok (laneWrites l [(.v f.d.toNat, word code, gc)], fl)
      else if tagIndex gc != 1 && tagIndex gc != 2 then .error mismatch
      else
        let ce := e.fmt.entry (tagIndex gc)
        let v := (as.zip bs).foldl (fun s p => s + elemInt ent p.1 * elemInt ent p.2) (elemInt ce (e.v l c).toNat)
        let (code, fl, _) := fitInt ce false (mBit x 1) v
        .ok (laneWrites l [(.v f.d.toNat, word code, gc)], fl)

def bodyFdot (f : Base) (x : Ext) : LaneBody := fun e =>
  match mapLanes (fdotLane f x e) e.acting with
  | .error t => .error t
  | .ok ls => .ok (gather ls)

/-! ### Conversion, R113 -/

/-- One lane of CVT into entry i. -/
def cvtLane (f : Base) (x : Ext) (e : Env) (i : Nat) (dst : Entry) (l : Nat) :
    Except TrapInfo (PendLane × Flags) :=
  let ra := groupRegs f.a x.wa
  let rd := groupRegs f.d x.wd
  let ga := e.tag l f.a.toNat
  match checkGroup e l ra with
  | .error t => .error t
  | .ok _ =>
    let ent := e.fmt.entry (tagIndex ga)
    match both (checkKinds e l (fun t => sourceKindOk t && t.kind == ent.kind) ra)
        (if ent.kind = kindFloat then checkEqual e l ga ra else .ok ()) with
    | .error t => .error t
    | .ok _ =>
      if elemCount ent ra.length != elemCount dst rd.length || (ent.epw = 15 && ra.length = 1) then
        .error (fmtTrap causeFmtMismatch f.a.toNat 0 (tagIndex ga) ga)
      else
        let rs := (elemsOf ent (e.words l ra)).map (fun c => rounded x dst (decodeCode ent c, 0))
        .ok (laneWrites l (groupWrites rd (packElems dst (rs.map (·.1))) (rd.map (fun _ => e.fmt.tagOf i))),
          orFlags (rs.map (·.2)))

/-- CVT: the FMT index is checked before the source tags, DESIGN CHOICE, log entry 18. -/
def bodyCvt (f : Base) (x : Ext) : LaneBody := fun e =>
  let i := mBits x 4 0
  if e.acting.isEmpty then .ok ⟨[], 0, []⟩
  else
    match checkIndexTag e.fmt i with
    | .error t => .error t
    | .ok dst =>
      if !sourceKindOk dst || (dst.epw = 15 && x.wd == 0) then .error (indexMismatch e.fmt i)
      else
        match mapLanes (cvtLane f x e i dst) e.acting with
        | .error t => .error t
        | .ok ls => .ok (gather ls)

/-! ### Quantisation across lanes, R116 -/

/-- The value a participant gives to QBLK. -/
def qblkValue (f : Base) (e : Env) (l : Nat) : Except TrapInfo (Nat × Val) :=
  let a := f.a.toNat
  let g := e.tag l a
  match checkTag e.fmt a g with
  | .error t => .error t
  | .ok ent =>
    if sourceKindOk ent && ent.epw == 1 then .ok (l, decodeCode ent (e.v l a).toNat)
    else .error (fmtTrap causeFmtMismatch a 0 (tagIndex g) g)

/-- QBLK: the FMT index is checked before the source tags, DESIGN CHOICE, log entry 18. -/
def bodyQblk (f : Base) (x : Ext) : LaneBody := fun e =>
  let i := mBits x 4 0
  let dst := e.fmt.entry i
  if e.acting.isEmpty then .ok ⟨[], 0, []⟩
  else if !dst.valid then .error (fmtTrap causeFmtIllegal 0 2 i (e.fmt.tagOf i))
  else if dst.kind != kindBlock then .error (indexMismatch e.fmt i)
  else
    match mapLanes (qblkValue f e) e.acting with
    | .error t => .error t
    | .ok vs =>
      let b := quantise e.fmt dst (modeOf (rmField x) dst) (allLanes.map (fun l => (vs.lookup l).getD (.zero false)))
      let odd := word (b.scale + 256 * (if isBX dst then b.micro else 0))
      .ok ⟨e.acting.map (fun l => laneWrites l
        [(.v f.d.toNat, word (nth b.codes l 0), tagUint32), (.v (f.d.toNat + 1), odd, tagUint32)]), b.flags, e.acting.map (fun l => (l, b.flags))⟩

/-! ### The instructions -/

/-- FADD, R109. -/
def execFadd (f : Base) (s : State) : Out :=
  issueLane ⟨.fadd, f, .short⟩ s (bodyFadd f Ext.absent)

/-- FADD_LONG, R109. -/
def execFaddLong (f : Base) (x : Ext) (s : State) : Out :=
  issueLane ⟨.fadd, f, .long x⟩ s (bodyFadd f x)

/-- FMUL, R109. -/
def execFmul (f : Base) (s : State) : Out :=
  issueLane ⟨.fmul, f, .short⟩ s (bodyFmul f Ext.absent)

/-- FMUL_LONG, R109. -/
def execFmulLong (f : Base) (x : Ext) (s : State) : Out :=
  issueLane ⟨.fmul, f, .long x⟩ s (bodyFmul f x)

/-- FFMA, R109. -/
def execFfma (f : Base) (x : Ext) (s : State) : Out :=
  issueLane ⟨.ffma, f, .long x⟩ s (bodyFfma f x)

/-- FMIN, R109. -/
def execFmin (f : Base) (s : State) : Out :=
  issueLane ⟨.fminmax, f, .short⟩ s (bodyFminmax f Ext.absent)

/-- FMIN_FMAX_LONG, R109. -/
def execFminFmaxLong (f : Base) (x : Ext) (s : State) : Out :=
  issueLane ⟨.fminmax, f, .long x⟩ s (bodyFminmax f x)

/-- FRCP, R110. -/
def execFrcp (f : Base) (s : State) : Out :=
  issueLane ⟨.frcp, f, .short⟩ s (bodyFrcp f Ext.absent)

/-- FRCP_LONG, R110. -/
def execFrcpLong (f : Base) (x : Ext) (s : State) : Out :=
  issueLane ⟨.frcp, f, .long x⟩ s (bodyFrcp f x)

/-- FRSQ, R110. -/
def execFrsq (f : Base) (s : State) : Out :=
  issueLane ⟨.frsq, f, .short⟩ s (bodyFrsq f Ext.absent)

/-- FRSQ_LONG, R110. -/
def execFrsqLong (f : Base) (x : Ext) (s : State) : Out :=
  issueLane ⟨.frsq, f, .long x⟩ s (bodyFrsq f x)

/-- FSQRT, R110. -/
def execFsqrt (f : Base) (s : State) : Out :=
  issueLane ⟨.fsqrt, f, .short⟩ s (bodyFsqrt f Ext.absent)

/-- FSQRT_LONG, R110. -/
def execFsqrtLong (f : Base) (x : Ext) (s : State) : Out :=
  issueLane ⟨.fsqrt, f, .long x⟩ s (bodyFsqrt f x)

/-- FEXP2, R110. -/
def execFexp2 (f : Base) (s : State) : Out :=
  issueLane ⟨.fexp2, f, .short⟩ s (bodyFexp2 f Ext.absent)

/-- FEXP2_LONG, R110. -/
def execFexp2Long (f : Base) (x : Ext) (s : State) : Out :=
  issueLane ⟨.fexp2, f, .long x⟩ s (bodyFexp2 f x)

/-- FLOG2, R110. -/
def execFlog2 (f : Base) (s : State) : Out :=
  issueLane ⟨.flog2, f, .short⟩ s (bodyFlog2 f Ext.absent)

/-- FLOG2_LONG, R110. -/
def execFlog2Long (f : Base) (x : Ext) (s : State) : Out :=
  issueLane ⟨.flog2, f, .long x⟩ s (bodyFlog2 f x)

/-- FSIN, R110. -/
def execFsin (f : Base) (s : State) : Out :=
  issueLane ⟨.fsin, f, .short⟩ s (bodyFsin f Ext.absent)

/-- FSIN_LONG, R110. -/
def execFsinLong (f : Base) (x : Ext) (s : State) : Out :=
  issueLane ⟨.fsin, f, .long x⟩ s (bodyFsin f x)

/-- FCOS, R110. -/
def execFcos (f : Base) (s : State) : Out :=
  issueLane ⟨.fcos, f, .short⟩ s (bodyFcos f Ext.absent)

/-- FCOS_LONG, R110. -/
def execFcosLong (f : Base) (x : Ext) (s : State) : Out :=
  issueLane ⟨.fcos, f, .long x⟩ s (bodyFcos f x)

/-- FTANH, R110. -/
def execFtanh (f : Base) (s : State) : Out :=
  issueLane ⟨.ftanh, f, .short⟩ s (bodyFtanh f Ext.absent)

/-- FTANH_LONG, R110. -/
def execFtanhLong (f : Base) (x : Ext) (s : State) : Out :=
  issueLane ⟨.ftanh, f, .long x⟩ s (bodyFtanh f x)

/-- FRND, R111. -/
def execFrnd (f : Base) (s : State) : Out :=
  issueLane ⟨.frnd, f, .short⟩ s (bodyFrnd f Ext.absent)

/-- FRND_LONG, R111. -/
def execFrndLong (f : Base) (x : Ext) (s : State) : Out :=
  issueLane ⟨.frnd, f, .long x⟩ s (bodyFrnd f x)

/-- FDOT, R112. -/
def execFdot (f : Base) (x : Ext) (s : State) : Out :=
  issueLane ⟨.fdot, f, .long x⟩ s (bodyFdot f x)

/-- CVT, R113. -/
def execCvt (f : Base) (x : Ext) (s : State) : Out :=
  issueLane ⟨.cvt, f, .long x⟩ s (bodyCvt f x)

/-- QBLK, R116. -/
def execQblk (f : Base) (x : Ext) (s : State) : Out :=
  issueLane ⟨.qblk, f, .long x⟩ s (bodyQblk f x)

end Sys2Proof.Machine
end

