-- ==== Sys2Proof/Machine/Scratch.lean ====
section
/-! DEFINITION. Scratchpad windows (R23, R30, R294 to R300) and atomic operations (R136, R137, R263). -/

namespace Sys2Proof.Machine

/-! ### Bytes of the scratchpad rows of a core, R294, R295 -/

def segBytes : Nat := 592

def Core.spadByte (k : Core) (a : Nat) : Byte := (lookupKey a k.spad).getD 0

def Core.spadRead (k : Core) (a n : Nat) : List Byte := (List.range n).map (fun i => k.spadByte (a + i))

/-- Write bytes for a job; each segment records the job that last wrote it. Bytes of value 0 are not listed. -/
def Core.spadWrite (k : Core) (job a : Nat) (bs : List Byte) : Core :=
  let put (t : List (Nat × Byte)) (q : Byte × Nat) : List (Nat × Byte) :=
    if q.1 = 0 then eraseKey (a + q.2) t else insertKey (a + q.2) q.1 t
  let segs := (List.range ((a + bs.length + segBytes - 1) / segBytes - a / segBytes)).map (fun i => a / segBytes + i)
  { k with spad := bs.zipIdx.foldl put k.spad,
           owners := if bs.isEmpty then k.owners else segs.foldl (fun t g => insertKey g job t) k.owners }

/-- Read window bytes of the workgroup in a slot. -/
def Part.winRead (p : Part) (core slot x n : Nat) : List Byte :=
  match p.core? core, p.wg? core slot with
  | some k, some g => k.spadRead (g.base + x) n
  | _, _ => List.replicate n 0

/-- Write window bytes of the workgroup in a slot. -/
def Part.winWrite (p : Part) (core slot x : Nat) (bs : List Byte) : Part :=
  match p.wg? core slot with
  | none => p
  | some g => p.onCore core (fun k => k.spadWrite g.job (g.base + x) bs)

/-- First byte of the command ring, R30. -/
def Wg.ringBase (g : Wg) : Nat := g.scratch - 512

/-! ### Full/empty lines, R299, R300 -/

def LineState.initial : LineState := ⟨true, 0⟩

def Wg.lineState (g : Wg) (l : Nat) : LineState := (lookupKey l g.lines).getD LineState.initial

/-- Set a line's state; a line in its reset state is not listed. -/
def Wg.setLine (g : Wg) (l : Nat) (x : LineState) : Wg :=
  { g with lines := if x = LineState.initial then eraseKey l g.lines else insertKey l x g.lines }

/-- Lines that some byte ranges touch. -/
def linesTouched (rs : List (Nat × Nat)) : List Nat :=
  (rs.flatMap (fun r => if r.2 = 0 then [] else
    (List.range ((r.1 + r.2 - 1) / 128 + 1 - r.1 / 128)).map (fun i => r.1 / 128 + i))).eraseDups

def Wg.emptyLines (g : Wg) (ls : List Nat) : List Nat := ls.filter (fun l => !(g.lineState l).full)

/-- Wake threads of a warp; the empty-wait timer is cleared when no thread is left parked on empty lines (R300). -/
def Warp.wakeOn (go : WaitFor → Bool) (w : Warp) : Warp :=
  let w : Warp := { w with threads := w.threads.map (fun t => t.wake go) }
  if w.awaitsLines then w else { w with emptyTimer := 0 }

/-- Threads that wait on lines of the window in a slot, all of which are full now, issue again. Windows are reached
from the cores of their cluster (R134). -/
def Part.wakeLines (p : Part) (core slot : Nat) : Part :=
  match p.wg? core slot with
  | none => p
  | some g =>
    let go : WaitFor → Bool
      | .lines c s ls => c == core && s == slot && (g.emptyLines ls).isEmpty
      | _ => false
    (List.range 8).foldl (fun p i => p.onCore (core / 8 * 8 + i) (fun k =>
      { k with slots := k.slots.map (Option.map (fun h =>
        { h with warps := h.warps.map (Warp.wakeOn go) })) })) p

/-! ### Bank charges, R296 to R298 -/

/-- Passes beyond the least of a request: distinct bank words, each charged to a bank. -/
def bankExtra (words : List (Nat × Nat)) : Nat :=
  let ws := words.eraseDups
  let load (b : Nat) : Nat := (ws.filter (fun w => w.2 == b)).length
  let passes := (List.range 37).foldl (fun m b => max m (load b)) 0
  passes - (ws.length + 36) / 37

/-- The bank words of lane accesses: rotation 0. -/
def laneWords (rs : List (Nat × Nat)) : List (Nat × Nat) :=
  rs.flatMap (fun r => if r.2 = 0 then [] else
    (List.range ((r.1 + r.2 - 1) / 16 + 1 - r.1 / 16)).map (fun i => (r.1 / 16 + i, (r.1 / 16 + i) % 37)))

/-- Charge a request to the issuing workgroup's BCONF. -/
def Part.charge (p : Part) (core slot n : Nat) : Part :=
  p.onWg core slot (fun g => { g with bconf := (g.bconf + n) % 2 ^ 64 })

/-! ### Atomic operations, R136 -/

/-- The types an operation accepts, by entry and index. -/
def atomAccepts (op idx : Nat) (f : Entry) : Bool :=
  let reg := f.epw == 1 || f.epw == 15
  if op = 6 || op = 7 then reg
  else if op = 3 || op = 4 || op = 5 then reg && acceptsInteger f
  else if 10 ≤ op then idx == 3
  else reg && f.kind == kindInteger

/-- Operand bytes that the width codes of D and C give, none for a combination the entry does not allow. -/
def atomBytes (op : Nat) (f : Entry) (wd : Option (BitVec 2)) (wc : BitVec 2) : Option Nat :=
  let is (d : BitVec 2) : Bool := match wd with
    | none => true
    | some x => x == d
  if op = 7 then
    (if f.epw = 1 && is 0 && wc == 1 then some 4 else if f.epw = 15 && is 1 && wc == 2 then some 8
      else if f.epw = 1 && is 2 && wc == 3 then some 16 else none)
  else if f.epw = 1 && is 0 && wc == 0 then some 4
  else if f.epw = 15 && is 1 && wc == 1 then some 8
  else none

/-- The value an operation stores, on numbers of n bytes; `v2` is the new value of a CAS. -/
def atomNew (f : Entry) (op n old v v2 : Nat) : Nat :=
  let w := 8 * n
  let below (a b : Nat) : Bool :=
    if f.kind == kindInteger && f.sign == 1 then decide (toSigned w a < toSigned w b) else decide (a < b)
  match op with
  | 0 => (old + v) % 2 ^ w
  | 1 => if below v old then v else old
  | 2 => if below old v then v else old
  | 3 => old &&& v
  | 4 => old ||| v
  | 5 => old ^^^ v
  | 6 => v
  | 7 => if old = v then v2 else old
  | 8 => if v ≤ old then 0 else old + 1
  | 9 => if old = 0 || v < old then v else old - 1
  | 10 => (roundFloat fp32 0 ((decodeCode fp32 old).add 0 (decodeCode fp32 v)).1).1
  | 11 => minMaxCode fp32 false false old v
  | _ => minMaxCode fp32 true false old v

/-- Words as one number, the lowest first. -/
def wordsNat (ws : List Word) : Nat := leNat (ws.flatMap (fun w => leBytes 4 w.toNat))

/-- Operand and new value of an operation from its operand words. -/
def atomOperand (op n : Nat) (ws : List Word) : Nat × Nat :=
  if op = 7 then (wordsNat (ws.take (n / 4)), wordsNat (ws.drop (n / 4))) else (wordsNat (ws.take (n / 4)), 0)

/-- Bytes of the operand of a request: a CAS carries two values. -/
def operandBytes (op : Nat) (ws : List Word) : Nat := if op = 7 then 2 * ws.length else 4 * ws.length

/-- Perform one atomic of a core's request on device memory at the home slice: the bytes it returns and the state after (R137,
R263); it reads the line as any access of the core does (R312). -/
def State.atomAt (s : State) (core request : Nat) (f : Entry) (op loc : Nat) (ws : List Word) : State × List Byte :=
  let n := operandBytes op ws
  let old := s.homeRead loc n
  let (v, v2) := atomOperand op n ws
  let p := s.part.consume core (lineOf loc)
  ({ s with part := p.homeWriteBy (some (core, request)) loc (leBytes n (atomNew f op n (leNat old) v v2)) }, old)

end Sys2Proof.Machine
end

