-- ==== Sys2Proof/Machine/ElemMem.lean ====
section
/-! DEFINITION. Elements of packed memory (R80, R87, R89, R132), the words a load makes of its bytes (R131), and the
outstanding loads of a warp. -/

namespace Sys2Proof.Machine

/-! ### Elements in memory -/

/-- Bytes of a little-endian bit stream that hold element i, from a first byte. -/
def streamRange (first width i : Nat) : Nat × Nat :=
  (first + i * width / 8, (i * width % 8 + width + 7) / 8)

/-- Bits of an element code in memory: sign and magnitude for BX. -/
def Entry.codeBits (f : Entry) : Nat := if isBX f then f.bxk + 1 else f.sbits

/-- Byte ranges that hold element e of packed data at offset 0: scale byte, micro byte and code for blocks. -/
def elemRanges (f : Entry) (e : Nat) : List (Nat × Nat) :=
  if f.kind = kindBlock then
    let g := e / 256 * groupBytes f
    let b := e % 256 / 32
    [(g + b, 1)] ++ (if isBX f then [(g + 8 + b, 1)] else []) ++ [streamRange (g + groupHead f) f.codeBits (e % 256)]
  else [streamRange 0 f.sbits e]

/-- Value of element e from the bytes of its ranges, in their order. -/
def elemValue (c : FmtCtx) (f : Entry) (e : Nat) (bs : List Byte) : Val × Flags :=
  let code (bits : Nat) (i : Nat) (x : List Byte) : Nat := leNat x / 2 ^ (i * bits % 8) % 2 ^ bits
  if f.kind = kindBlock then
    let scale := (nth bs 0 0).toNat
    if isBX f then
      let mu := (nth bs 1 0).toNat / 4 ^ (e % 32 / 8) % 4
      decodeBlockElem c f scale mu (code f.codeBits (e % 256) (bs.drop 2))
    else decodeBlockElem c f scale 0 (code f.codeBits (e % 256) (bs.drop 1))
  else (decodeCode f (code f.sbits e bs), 0)

/-- The FP32 word of a decoded element, with its flags (R92, R131). -/
def fp32Word (v : Val × Flags) : Word × Flags :=
  (word (roundFloat fp32 0 v.1).1, v.2)

/-! ### Words of a load -/

/-- Register words of a list of bytes, four each. -/
def bytesWords (bs : List Byte) : List Word := (chunks 4 bs.length bs).map leWord

/-- The elements of a decoding load from its bytes. -/
def decWords (c : FmtCtx) (f : Entry) : List (Option (Nat × Nat)) → List Byte → List (Word × Flags)
  | [], _ => []
  | none :: r, bs => (0, 0) :: decWords c f r bs
  | some (e, n) :: r, bs => fp32Word (elemValue c f e (bs.take n)) :: decWords c f r (bs.drop n)

def LoadForm.result (g : LoadForm) (bs : List Byte) : List Word × Flags :=
  match g with
  | .words => (bytesWords bs, 0)
  | .sub => ([leWord bs], 0)
  | .whole => ([], 0)
  | .dec c f es =>
    let r := decWords c f es bs
    (r.map (·.1), orFlags (r.map (·.2)))

/-! ### Filling outstanding loads -/

/-- The bytes that a lane awaits and a function gives by location, the bytes of each word together (R267, R272). -/
def PendLane.gives (x : PendLane) (f : Nat → Option Byte) (b : ByteSlot) : Option Byte :=
  let lacks (b : ByteSlot) : Option Nat := match b.got, b.loc with
    | none, some a => if (f a).isNone then some (a / 4) else none
    | _, _ => none
  match b.got, b.loc with
  | none, some a => if (x.bytes.filterMap lacks).contains (a / 4) then none else f a
  | _, _ => none

/-- Fill the bytes of a lane; one with every byte has its values. -/
def PendLane.fill (x : PendLane) (f : Nat → Option Byte) : PendLane × Flags :=
  if x.known || x.form == .whole then (x, 0)
  else
    let bs := x.bytes.map (fun b => match x.gives f b with
      | none => b
      | some v => { b with got := some v })
    let x := { x with bytes := bs }
    if bs.all (fun b => b.got.isSome) then
      let (ws, fl) := x.form.result (bs.filterMap (·.got))
      ({ x with values := some ws, bytes := [] }, fl)
    else (x, 0)

/-- Fill some lanes of an outstanding load. The replayed bytes that come, and the flags that replayed lanes raise, wait for the
watch predicates of their access (R444). -/
def Pend.fill (e : Pend) (which : PendLane → Bool) (f : Nat → Option Byte) : Pend :=
  if e.lanes.all PendLane.known then e
  else
    let rs := e.lanes.map (fun x => if which x then x.fill f else (x, 0))
    let come (x : PendLane) : List (Nat × Nat × Byte) :=
      if !which x || x.known then [] else x.bytes.filterMap (fun b => if b.late then (x.gives f b).map (fun v => (x.lane, b.va, v)) else none)
    let replayed (x : PendLane) : Bool := x.bytes.any (·.late)
    { e with lanes := rs.map (·.1), flags := e.flags ||| orFlags (rs.map (·.2)), late := e.late ++ e.lanes.flatMap come,
             raised := e.raised ++ (e.lanes.zip rs).filterMap (fun q => if replayed q.1 && q.2.2 != 0 then some (q.1.lane, q.2.2) else none) }

/-- Fill the outstanding loads of a warp. -/
def Warp.fillLoads (w : Warp) (f : Nat → Option Byte) : Warp :=
  { w with pend := w.pend.map (fun e => e.fill (fun _ => true) f) }

/-- Change one outstanding write. -/
def Warp.onPend (w : Warp) (id : Nat) (f : Pend → Pend) : Warp :=
  { w with pend := w.pend.map (fun e => if e.id = id then f e else e) }

/-- Change the lanes of one outstanding write. -/
def Warp.onPendLanes (w : Warp) (id : Nat) (f : PendLane → PendLane) : Warp :=
  w.onPend id (fun e => { e with lanes := e.lanes.map f })

/-- Give a lane of an outstanding write its values. -/
def Warp.answerLane (w : Warp) (id lane : Nat) (ws : List Word) : Warp :=
  w.onPendLanes id (fun l => if l.lane = lane then { l with values := some ws } else l)

/-- Give every lane of an outstanding write the same values. -/
def Warp.answerAll (w : Warp) (id : Nat) (ws : List Word) : Warp :=
  w.onPendLanes id (fun l => { l with values := some ws })

/-- Fill the bytes of one lane of an outstanding load. -/
def Warp.fillLane (w : Warp) (id lane : Nat) (f : Nat → Option Byte) : Warp :=
  w.onPend id (fun e => e.fill (fun x => x.lane == lane) f)

/-- Fill the outstanding loads of every warp of a core from a line of its L1. -/
def Core.fillLoads (k : Core) (f : Nat → Option Byte) : Core :=
  { k with slots := k.slots.map (Option.map (fun g => { g with warps := g.warps.map (fun w => w.fillLoads f) })) }

end Sys2Proof.Machine
end

