-- ==== Sys2Proof/Machine/LaneCross.lean ====
section
/-! DEFINITION. Cross-lane instructions, special registers and the rendezvous of a warp (R117 to R124). -/

namespace Sys2Proof.Machine

/-! ### SHFL, VOTE, MATCH, ELECT: R118 to R120, R122 -/

/-- Source position of SHFL within a segment, R118; none when it names no lane. -/
def shflSource (mode size off : Nat) (n : Word) : Option Nat :=
  match mode with
  | 0 => some (n.toNat % size)
  | 1 => some ((off + n.toNat) % size)
  | 2 =>
    let j : Int := off + n.toInt
    if 0 ≤ j && j < size then some j.toNat else none
  | _ =>
    let j := off ^^^ n.toNat
    if j < size then some j else none

def bodyShfl (f : Base) (x : Ext) : LaneBody := fun e =>
  let size := 32 / 2 ^ mBits x 4 2
  let ra := groupRegs f.a x.wa
  let rd := groupRegs f.d x.wd
  .ok (gather (e.acting.map (fun l =>
    let off := l % size
    let n := if uniformB x then e.s f.b.toNat else e.v l f.b.toNat
    let src := (shflSource (mBits x 1 0) size off n).map (fun j => l - off + j)
    let from_ := src.filter (fun j => e.acting.contains j)
    let k := from_.getD l
    (laneWrites l (groupWrites rd (e.words k ra) (e.tags k ra) ++ [(.p x.c.toNat, wordOfBool from_.isSome, 0)]), 0))))

/-- The test of VOTE on the masks of participants and of true votes, R119. -/
def voteTest (test all yes : Nat) : Bool :=
  match test with
  | 0 => yes == all
  | 1 => yes != 0
  | 2 => yes == 0 || yes == all
  | _ => popCount 32 yes % 2 == 1

def bodyVote (f : Base) (x : Ext) : LaneBody := fun e =>
  let yes := maskOf (e.acting.filter (fun l => e.p l f.a.toNat != mBit x 2))
  let r := voteTest (mBits x 1 0) (maskOf e.acting) yes
  let d := if mBit x 3 then popCount 32 yes else yes
  .ok (gather (e.acting.map (fun l =>
    (laneWrites l ((if mBit x 4 then [] else [(Target.v f.d.toNat, word d, tagUint32)]) ++
      [(.p x.c.toNat, wordOfBool r, 0)]), 0))))

def bodyMatchLanes (f : Base) (x : Ext) : LaneBody := fun e =>
  let ra := groupRegs f.a x.wa
  .ok (gather (e.acting.map (fun l =>
    let g := e.acting.filter (fun k => e.words k ra == e.words l ra)
    let d := match mBits x 1 0 with
      | 0 => maskOf g
      | 1 => (minList? g).getD l
      | 2 => (g.filter (fun k => decide (k < l))).length
      | _ => if g.length = e.acting.length then maskOf e.acting else 0
    (laneWrites l [(.v f.d.toNat, word d, tagUint32)], 0))))

def bodyElect (f : Base) (x : Ext) : LaneBody := fun e =>
  let chosen := if mBit x 0 then e.acting.foldl max 0 else (minList? e.acting).getD 0
  .ok (gather (e.acting.map (fun l =>
    (laneWrites l ([(.p f.d.toNat, wordOfBool (l == chosen), 0)] ++
      (if mBit x 1 then [(Target.v x.c.toNat, word chosen, tagUint32)] else [])), 0))))

/-! ### REDUX, R121 -/

/-- The participants whose values lane t combines. -/
def reduxSet (mode : Nat) (acting : List Nat) (t : Nat) : List Nat :=
  acting.filter (fun k => mode == 0 || decide (k < t) || (mode == 1 && k == t))

/-- An integer reduction of exact values at the entry's signedness; the code and flags. -/
def reduxInt (ent : Entry) (op : Nat) (sat : Bool) (vs : List Int) : Nat × Flags :=
  let code (v : Int) : Nat := wrapInt 32 v
  match op with
  | 0 =>
    let (c, fl, _) := fitInt ent false sat vs.sum
    (c, fl)
  | 1 => (code (vs.foldl min (intMax ent.isSigned 32)), 0)
  | 2 => (code (vs.foldl max (intMin ent.isSigned 32)), 0)
  | 3 => (vs.foldl (fun a v => a &&& code v) (2 ^ 32 - 1), 0)
  | 4 => (vs.foldl (fun a v => a ||| code v) 0, 0)
  | _ => (vs.foldl (fun a v => a ^^^ code v) 0, 0)

/-- A float reduction of element codes. -/
def reduxFloat (x : Ext) (ent : Entry) (op : Nat) (cs : List Nat) : Nat × Flags :=
  match op with
  | 6 =>
    if cs.isEmpty then rounded x ent (.zero true, 0)
    else rounded x ent (sumVals (cs.map (decodeCode ent)))
  | _ =>
    match cs with
    | [] => rounded x ent (.inf (op == 8), 0)
    | c :: r =>
      let m := r.foldl (minMaxCode ent (op == 8) false) c
      (if (decodeCode ent m).isNan then ent.nanCode else m, 0)

/-- The tag check of one participant of REDUX: every one holds one element of the kind of the operation, and, for a
float operation, the tag of the lowest. -/
def reduxCheck (f : Base) (isFloat : Bool) (e : Env) (tag : Byte) (l : Nat) : Except TrapInfo Unit :=
  let a := f.a.toNat
  let g := e.tag l a
  match checkTag e.fmt a g with
  | .error t => .error t
  | .ok ent =>
    let ok := ent.epw == 1 && (if isFloat then acceptsFloat ent && g == tag else acceptsInteger ent)
    if ok then .ok () else .error (fmtTrap causeFmtMismatch a 0 (tagIndex g) g)

def bodyRedux (f : Base) (x : Ext) : LaneBody := fun e =>
  let a := f.a.toNat
  let op := mBits x 3 0
  let tag := e.tag (e.acting.headD 0) a
  let ent := e.fmt.entry (tagIndex tag)
  match mapLanes (reduxCheck f (decide (6 ≤ op)) e tag) e.acting with
  | .error t => .error t
  | .ok _ =>
    .ok (gather (e.acting.map (fun l =>
      let cs := (reduxSet (mBits x 6 5) e.acting l).map (fun k => (e.v k a).toNat)
      let (code, fl) := if op < 6 then reduxInt ent op (mBit x 4) (cs.map (elemInt ent)) else reduxFloat x ent op cs
      (laneWrites l [(.v f.d.toNat, word code, tag)], fl))))

/-! ### Special registers, R27, R123 -/

/-- Special register i as a thread of lane l reads it. -/
def specialReg (c : Ctx) (now l i : Nat) : Nat :=
  match i with
  | 0 => l
  | 1 => c.ref.warp
  | 2 => c.g.x
  | 3 => c.g.y
  | 4 => c.g.z
  | 5 => c.ref.slot
  | 6 => c.g.launch
  | 7 => c.ref.core
  | 8 => clusterOf c.ref.core
  | 9 => dieOf c.ref.core
  | 10 => now % 2 ^ 64
  | 11 => now / 4 % 2 ^ 64
  | 12 => if c.g.drain then 1 else 0
  | 13 => if c.g.cancel then 1 else 0
  | _ => 0

/-- A pair takes both halves of one sample. -/
def bodyS2v (f : Base) (x : Ext) (c : Ctx) (s : State) : Act :=
  laneAct (fun e => .ok (gather (e.acting.map (fun l =>
    let v := specialReg c s.part.now l f.a.toNat
    let d := f.d.toNat
    (laneWrites l (if x.wd = 1 then [(.v d, word v, tagInt64), (.v (d + 1), word (v / 2 ^ 32), tagInt64)]
      else [(.v d, word v, tagUint32)]), 0))))) c s

/-! ### CONV, R124 -/

/-- The group arrives: every participant parks at the instruction and goes on when the set has arrived. Threads of the group whose
guard is false go on and are not held against the set: DEDUCED from R49 against R124, log entry 18. -/
def bodyConv (f : Base) (x : Ext) (c : Ctx) (s : State) : Act :=
  let o := s.part.oracle
  let acting := c.acting o
  let m := if uniformB x then (c.w.sreg o f.b.toNat).toNat else 2 ^ 32 - 1
  if acting.isEmpty then .done s (fun _ => c.next)
  else if acting.any (fun l => bitNat m l == 0) then .trap (trapOf causeConvBad)
  else if c.w.conv.any (fun r => r.1 == c.pc && r.2 != m && c.w.convWaits r.1) then .trap (trapOf causeConvBad)
  else
    let park (w : Warp) : Warp :=
      { w.onLanes acting (fun t => { t with st := .live (.parked (.conv c.size)) }) with
        conv := (c.pc, m) :: w.conv.filter (fun r => r.1 != c.pc) }
    let s := c.finish { s with part := s.part.onWarp c.ref park } (fun l => if acting.contains l then c.pc else c.next)
    .stay { s with part := s.part.settle c.ref.core c.ref.slot }

/-! ### The instructions -/

/-- SHFL, R118. -/
def execShfl (f : Base) (x : Ext) (s : State) : Out :=
  issueLane ⟨.shfl, f, .long x⟩ s (bodyShfl f x)

/-- VOTE, R119. -/
def execVote (f : Base) (x : Ext) (s : State) : Out :=
  issueLane ⟨.vote, f, .long x⟩ s (bodyVote f x)

/-- MATCH, R120. -/
def execMatchLanes (f : Base) (s : State) : Out :=
  issueLane ⟨.matchLanes, f, .short⟩ s (bodyMatchLanes f Ext.absent)

/-- MATCH_LONG, R120. -/
def execMatchLanesLong (f : Base) (x : Ext) (s : State) : Out :=
  issueLane ⟨.matchLanes, f, .long x⟩ s (bodyMatchLanes f x)

/-- REDUX, R121. -/
def execRedux (f : Base) (x : Ext) (s : State) : Out :=
  issueLane ⟨.redux, f, .long x⟩ s (bodyRedux f x)

/-- ELECT, R122. -/
def execElect (f : Base) (s : State) : Out :=
  issueLane ⟨.elect, f, .short⟩ s (bodyElect f Ext.absent)

/-- ELECT_LONG, R122. -/
def execElectLong (f : Base) (x : Ext) (s : State) : Out :=
  issueLane ⟨.elect, f, .long x⟩ s (bodyElect f x)

/-- S2V, R123. -/
def execS2v (f : Base) (s : State) : Out :=
  issue ⟨.s2v, f, .short⟩ s (bodyS2v f Ext.absent)

/-- S2V_LONG, R123. -/
def execS2vLong (f : Base) (x : Ext) (s : State) : Out :=
  issue ⟨.s2v, f, .long x⟩ s (bodyS2v f x)

/-- CONV, R124. -/
def execConv (f : Base) (s : State) : Out :=
  issue ⟨.conv, f, .short⟩ s (bodyConv f Ext.absent)

/-- CONV_LONG, R124. -/
def execConvLong (f : Base) (x : Ext) (s : State) : Out :=
  issue ⟨.conv, f, .long x⟩ s (bodyConv f x)

end Sys2Proof.Machine
end

