-- ==== Sys2Proof/Machine/LaneMem.lean ====
section
/-! DEFINITION. Lane loads and stores of global memory (R127 to R133, R145, R149), and what every global access shares. -/

namespace Sys2Proof.Machine

/-! ### What every global access shares -/

/-- Byte offset of R127. -/
def byteOff (x : Ext) (hi lo : Nat) : Nat := 4 * mBits x hi lo

/-- A format index of a record or field that is valid; the trap of steps 1 and 4 of R93 otherwise. -/
def indexTrap (c : FmtCtx) (i : Nat) (ok : Entry → Bool) : Option TrapInfo :=
  let f := c.entry i
  if !f.valid then some (fmtTrap causeFmtIllegal 0 2 i (c.tagOf i))
  else if ok f then none else some (indexMismatch c i)

/-- What keeps a global access at issue before it has any effect: an acquire not yet performed, a line of the operand
log, an earlier access of the warp to the line (R145, R282), or a full queue of the Vexlink engine (R341). -/
def Part.accessHold (p : Part) (r : WarpRef) (isLoad : Bool) (ps : List Piece) (plan : Plan) : Option Nat :=
  if p.acquiring r then some 13
  else if p.logNames r (ps.map (fun q => q.va / 128 * 128)) then some 13
  else if p.lineBusy r isLoad plan.lines plan.words then some 13
  else if p.vexFull (dieOf r.core) (((plan.ok.filter (fun q => locTarget q.loc == 2)).map (fun q => lineOf q.loc)).eraseDups).length then some 12
  else none

/-- Lanes that the record of a stop names, R241: the matching ones, or the group for a format stop. -/
def Ctx.stopLanes (c : Ctx) (st : Stop) : List Nat := if st.kind = 4 then c.group else st.m.lanes

/-- End an access: the lanes of `stay` keep the instruction's PC, the others go on. Then the stop of a watch and the
trap of denied lanes, which the results of the other lanes outlast; where both are traps, the watch record waits behind the other
(R278, DEDUCED, log entry 12). -/
def Ctx.conclude (c : Ctx) (s : State) (stay : List Nat) (stop : Option Stop) (epc : Nat) (trap : Option TrapInfo) : Act :=
  let take (s : State) (st : Stop) : State := { s with part := s.part.takeStop c.tbase c.ref st (c.stopLanes st) epc }
  match trap, stop with
  | none, none => .done s (fun l => if stay.contains l then c.pc else c.next)
  | none, some st => .stay (take (c.finish s (fun l => if stay.contains l then c.pc else c.next)) st)
  | some t, stop =>
    let s := { s with part := s.part.stand c }
    let t := { t with moved := c.group.filter (fun l => !stay.contains l) }
    match stop with
    | none => .trapState s t
    | some st =>
      if st.action = 2 then
        let s := s.raise c t
        .stay { s with part := s.part.onWarp c.ref (fun w => { w with tqueue := w.tqueue ++ [st.record (c.stopLanes st) epc] }) }
      else .trapState (take s st) t

/-- Lanes of an access that predicates see (R240). -/
def Ctx.seen (c : Ctx) (xs : List LaneAccess) : List LaneAccess := xs.filter (fun x => !c.suppressed x.lane)

/-- Count the matches of an access and find the stop it leads to. -/
def Ctx.watch (c : Ctx) (p : Part) (bit : Nat) (spad : Bool) (xs : List LaneAccess) : Part × Option Stop :=
  match p.core? c.ref.core with
  | none => (p, none)
  | some k =>
    let ms := accessMatches (k.activePreds c.ref.slot) bit spad (c.seen xs)
    (if ms.isEmpty || bit != 0 then p else p.stand c).evalMatches c.ref c.group c.pc ms

/-- The predicates that a load meets: those of its issue, which one held for its value keeps (R244). -/
def Ctx.loadPreds (c : Ctx) (p : Part) : List (Nat × Predicate) :=
  match c.w.watchAt.filter (fun q => c.retried && q.1 == c.pc) with
  | some q => q.2
  | none => p.watching c.ref.core c.ref.slot

/-- A load held at issue for its value keeps the predicates of its issue. -/
def Ctx.keepPreds (c : Ctx) (s : State) : State :=
  let preds := c.loadPreds s.part
  { s with part := s.part.onWarp c.ref (fun w => { w with watchAt := some (c.pc, preds) }) }

/-- The same for a load: its data, and for a decoding one the flags that lanes raise (R240). -/
def Ctx.watchLoad (c : Ctx) (p : Part) (xs : List LaneAccess) (raised : List (Nat × Flags)) : Part × Option Stop :=
  let preds := c.loadPreds p
  let ms := preds.flatMap (fun q => accessMatches [q] 0 false (c.seen xs) ++
    formatMatches [q] c.pc (raised.filter (fun r => !c.suppressed r.1)))
  (if ms.isEmpty then p else p.stand c).evalMatches c.ref c.group c.pc ms

/-- Some lane of a load meets a watch by address (R241). -/
def Ctx.loadHeld (c : Ctx) (p : Part) (xs : List LaneAccess) : Bool := loadWatched (c.loadPreds p) false (c.seen xs)

/-- A release ordered before the access of the instruction at hand, R145. -/
def Ctx.releaseFirst (c : Ctx) (s : State) (needed : Bool) (scope : Nat) (go : State → Act) : Act :=
  if !needed then go s
  else
    match s.part.release c.ref c.pc scope (s.part.quietOf c.ref) with
    | .hold => .hold 13
    | .begun p => .holdState { s with part := p } 13
    | .done p => go { s with part := p }

/-! ### LD, R131, R132 -/

/-- Lanes, pieces and load forms of LD. -/
structure LoadLane where
  at_ : LanePieces
  form : LoadForm

/-- Bytes per lane of LD, ST and their scratchpad forms: whole registers, or one or two bytes. -/
def accessBytes (sub regs : Nat) : Nat :=
  match sub with
  | 0 => 4 * regs
  | n => n

/-- The elements of one lane of a decoding load: pieces, and for each register its element. -/
def decLane (c : FmtCtx) (r : Rec) (f : Entry) (m index regs lane : Nat) : LoadLane :=
  let one (place e : Nat) : List Piece × Nat :=
    let ranges := if f.kind != kindBlock && f.sbits % 8 == 0 then [(e * r.stride, f.sbits / 8)] else elemRanges f e
    ranges.foldl (fun acc q => (acc.1 ++ r.bytePieces lane (place + acc.2) (q.1 + m) q.2, acc.2 + q.2)) ([], 0)
  let acc := (List.range regs).foldl (fun (a : List Piece × List (Option (Nat × Nat)) × Nat) i =>
    let e := index + i
    if e < r.extent then
      let (ps, n) := one a.2.2 e
      (a.1 ++ ps, a.2.1 ++ [some (e, n)], a.2.2 + n)
    else (a.1, a.2.1 ++ [none], a.2.2)) ([], [], 0)
  ⟨⟨lane, r.addr (index * r.stride + m), decide (index + regs ≤ r.extent), acc.1⟩, .dec c f acc.2.1⟩

/-- The participants of LD. -/
def ldLanes (f : Base) (x : Ext) (e : Env) (r : Rec) : List LoadLane :=
  let m := byteOff x 4 0
  let regs := 2 ^ x.wd.toNat
  let idx (l : Nat) : Nat := (e.v l f.a.toNat).toNat
  if mBit x 7 then e.acting.map (fun l => decLane e.fmt r (e.fmt.entry r.fmt) m (idx l) regs l)
  else (accessLanes e.fmt r m (accessBytes (mBits x 6 5) regs) idx e.acting).map
    (fun l => ⟨l, if mBits x 6 5 = 0 then .words else .sub⟩)

/-- The format checks of LD. -/
def ldFormat (x : Ext) (c : FmtCtx) (r : Rec) : Option TrapInfo :=
  if mBit x 7 then
    (if (c.entry r.fmt).kind = kindBlock && r.stride != 0 then some { cause := causeBufBad, info0 := r.reg }
      else indexTrap c r.fmt (fun f => f.kind == kindFloat || f.kind == kindBlock))
  else if mBits x 6 5 != 0 then none
  else indexTrap c r.fmt (fun f => f.epw != 15 || x.wd != 0)

/-- The tag LD gives. -/
def ldTag (x : Ext) (c : FmtCtx) (r : Rec) : Byte :=
  if mBit x 7 then tagFp32
  else if mBits x 6 5 != 0 then tagUint32
  else if (c.entry r.fmt).epw = 0 then tagRaw32 else c.tagOf r.fmt

/-- The bytes of a lane's pieces in their places, with what is known of them: of each word all or nothing (R267, R272). -/
def loadSlots (plan : Plan) (read : Nat → Option Byte) (lane : LanePieces) : List ByteSlot :=
  let slot (q : Piece) (i : Nat) : ByteSlot :=
    let at_ := (plan.ok.find? (fun o => o.piece == q)).map (·.loc)
    let whole (a : Nat) : Bool := (List.range q.len).all (fun j => (a + j) / 4 != (a + i) / 4 || (read (a + j)).isSome)
    ⟨q.va + i, at_.map (· + i), at_.bind (fun a => if whole a then read (a + i) else none), false⟩
  lane.pieces.flatMap (fun q => (List.range q.len).map (slot q))

/-- The pending lane of a load. Lanes out of bounds read zero. -/
def loadPend (f : Base) (x : Ext) (tag : Byte) (plan : Plan) (read : Nat → Option Byte) (l : LoadLane) :
    PendLane × Flags :=
  let rd := groupRegs f.d x.wd
  let p : PendLane :=
    { lane := l.at_.lane, targets := rd.map Target.v, tags := rd.map (fun _ => tag), values := none,
      bytes := loadSlots plan read l.at_, form := l.form }
  match l.form with
  | .dec _ _ _ => p.fill (fun _ => none)
  | _ => if l.at_.inb then p.fill (fun _ => none) else ({ p with values := some (rd.map (fun _ => 0)), bytes := [] }, 0)

/-- The byte an acquire load reads at a scope: the home's from .DV on, else the issuing die's (R262), under the dirty words of
the core's own L1, which may still serve it (R145). -/
def State.acquireByte (s : State) (core scope loc : Nat) : Option Byte :=
  if scopeWide scope then some (s.homeByte loc)
  else
    match ((s.part.core? core).bind (fun k => k.line? (lineOf loc))).filter (fun x => x.dirty.testBit (loc % 128 / 4) && x.has (loc % 128)) with
    | some x => some (x.byte (loc % 128))
    | none => s.dieByte (dieOf core) loc

/-- An acquire load may be performed on a line: the core's stores to it are where it reads, and the die has applied every write
up to the clock of the value, and those that the core has seen before (R145, R259, R262). -/
def State.acquireReady (s : State) (core scope line : Nat) : Bool :=
  let d := dieOf core
  match s.part.core? core with
  | none => false
  | some k =>
    if scopeWide scope then
      s.part.atHome core line && (s.part.homeStamps (line * 128) 128).all (fun st => s.part.applied d st.vc)
        && s.part.applied (homeDie (line * 128)) k.seen
    else !k.packets.any (fun q => q.line == line) && s.part.applied d k.seen && (s.dieByte d (line * 128)).isSome

/-- Requests to the host or a peer for pieces that lie there. -/
def Part.askRemote (p : Part) (c : Ctx) (pend acquire : Option Nat) (ps : List Placed) : Part :=
  (ps.filter (fun q => !isDevice q.loc)).foldl (fun p q =>
    p.sendRemote { remoteReq 0 q.loc c.ref c.pc with va := q.piece.va, pend := pend, count := q.piece.len, lane := q.piece.lane,
                                                     port := p.portOf q.loc, acquire := acquire }) p

/-- Reads of an instruction held at issue for their values: the request has no outstanding write; `op` 1 tells that
`data` is the answer, 2 that the request has failed. -/
def Part.syncReads (p : Part) (r : WarpRef) (pc : Nat) : List Remote :=
  p.mgmt.remotes.filter (fun q => q.kind == 0 && q.w == r && q.pc == pc && q.pend.isNone)

def Part.dropReads (p : Part) (rs : List Remote) : Part :=
  p.onMgmt (fun m => { m with remotes := m.remotes.filter (fun q => !rs.any (fun r => r.id == q.id)) })

/-- The pieces that lie in a peer whose route has no port left (R367), and their lanes. -/
def Plan.cutPieces (plan : Plan) (p : Part) : List Placed :=
  plan.ok.filter (fun q => locTarget q.loc == 2 && (p.portOf q.loc).isNone)

def Plan.cutOff (plan : Plan) (p : Part) : List Nat :=
  ((plan.cutPieces p).map (fun q => q.piece.lane)).eraseDups

/-- The virtual bytes of the lanes of translated lines as the address part of a watch sees them (R241). -/
def Plan.touched (plan : Plan) : List LaneAccess :=
  plan.ok.map (fun q => ⟨q.piece.lane, (List.range q.piece.len).map (fun i => (q.piece.va + i, (0 : Byte)))⟩)

/-- A load takes its value at issue: an acquire, a decoding load, whose flags it needs, or one that meets a watch by address
(R241). -/
def loadNow (x : Ext) (watched : Bool) : Bool := semField x == 1 || mBit x 7 || watched

/-- The L1 after the lanes of a load: an acquire at .CL or wider leaves no clean word (R145), one at .WG none of the lines it has
read at the slice (R259), and one at .DV has seen the homes; a plain load uses its lines and asks for the sectors that are not
valid. -/
def Part.afterLoad (p : Part) (core : Nat) (acquire : Option Nat) (plan : Plan) (device : List Placed) : Part :=
  match acquire with
  | none => p.onCore core (fun k => (plan.lines.foldl (fun k l => if (k.line? l).isSome then k.touch l else k) k).askFills p.nextCommand device)
  | some scope =>
    let seen (k : Core) : Core :=
      if scopeWide scope then device.foldl (fun k q => k.see (p.die (homeDie q.loc)).vc) k else k
    let p := p.onCore core (fun k => if scope = 0 then plan.lines.foldl Core.forget k else (seen k).acquire)
    plan.lines.foldl (fun p l => p.consume core l) p

def bodyLd (f : Base) (x : Ext) (c : Ctx) (s : State) : Act :=
  let e := c.env s
  let r := e.record f.b.toNat
  let acq := if semField x = 1 then some (scopeField x) else none
  if e.acting.isEmpty then .done s (fun _ => c.next)
  else
    match (r.check e.fmt (fun r => r.r) c.group).orElse (fun _ => ldFormat x e.fmt r) with
    | some t => .trap t
    | none =>
      let lanes := ldLanes f x e r
      let align := if mBit x 7 then 1 else min 16 (accessBytes (mBits x 6 5) (2 ^ x.wd.toNat))
      match laneTrap r align (lanes.map (·.at_)) with
      | some t => .trap t
      | none =>
        let inb := lanes.filter (fun l => l.at_.inb || mBit x 7)
        let plan := s.plan c.g.job .read (inb.flatMap (fun l => l.at_.pieces))
        match s.part.accessHold c.ref true (inb.flatMap (fun l => l.at_.pieces)) plan with
        | some why => .hold why
        | none =>
          let core := c.ref.core
          let k := (s.part.core? core).getD Core.reset
          let watched := c.loadHeld s.part plan.touched
          let now := loadNow x watched
          let bad := s.part.poisonedPieces core acq plan.ok
          let spoilt := if now then bad else []
          let device := plan.ok.filter (fun q => isDevice q.loc && !spoilt.contains q)
          let cut := plan.cutOff s.part
          let far := plan.ok.filter (fun q => !isDevice q.loc && !cut.contains q.piece.lane)
          let mine := if now then s.part.syncReads c.ref c.pc else []
          if c.early && (acq.isSome || watched || !plan.absent.isEmpty || !bad.isEmpty || !cut.isEmpty || !far.isEmpty) then .hold 15
          else if acq.any (fun scope => !device.all (fun q => s.acquireReady core scope (lineOf q.loc))) then
            let ask (k : Core) (line : Nat) : Core := (if acq.any scopeWide then k.copyBack line else k).askLine s.part.nextCommand line
            .holdState (c.keepPreds { s with part := s.part.onCore core (fun k => plan.lines.foldl ask k) }) 13
          else if acq.isNone && now && k.lacks device then
            .holdState (c.keepPreds { s with part := s.part.onCore core (fun k => k.askFills s.part.nextCommand device) }) 15
          else if now && !far.isEmpty && mine.isEmpty then
            .holdState (c.keepPreds { s with part := s.part.askRemote c none none far }) 15
          else if mine.any (fun q => q.op == 0) then .hold 15
          else
            let read (a : Nat) : Option Byte :=
              if !isDevice a then mine.findSome? (fun q => if q.loc ≤ a then q.data[a - q.loc]? else none)
              else match acq with
                | some scope => s.acquireByte core scope a
                | none => k.l1Byte a
            let denied := (plan.denied.map (fun d => d.1.lane)).eraseDups
            let lost := (mine.filter (fun q => q.op == 2)).map (·.lane)
            let live := lanes.filter (fun l => !denied.contains l.at_.lane && !lost.contains l.at_.lane)
            let pend := live.map (loadPend f x (ldTag x e.fmt r) plan read)
            let flags := orFlags (pend.map (·.2))
            match (if mBit x 7 then enabledTrap c.w.ften flags else none) with
            | some cause => .trap { cause := cause, info1 := flags.toNat, flags := flags }
            | none =>
              let s1 := c.write s (pend.map (·.1)) flags
              let id := some c.w.seq
              let p := (s1.part.afterLoad core acq plan device).dropReads mine
              let p := if now then p else p.askRemote c id none far
              let p := p.logLines c plan .read id (e.fmt.entry r.fmt) 0 acq (fun _ => [])
              let p := p.cutPieces c.ref id (plan.cutPieces s.part)
              let p := p.poisonLanes c.ref id c.pc spoilt
              let accesses := (inb.filter (fun l => !denied.contains l.at_.lane)).map (fun l =>
                ⟨l.at_.lane, (loadSlots plan read l.at_).filterMap (fun b => b.got.map (fun v => (b.va, v)))⟩)
              let raised := (pend.map (fun q => (q.1.lane, q.2))).filter (fun _ => mBit x 7)
              let (p, stop) := c.watchLoad p accesses raised
              c.conclude { s1 with part := p } denied stop c.next plan.trap

/-! ### ST, R133 -/

/-- The format test of ST on C's tag, R133. -/
def storeFormatOk (c : FmtCtx) (fmt : Nat) (tag : Byte) : Bool :=
  fmt == 0 || tagIndex tag == fmt || ((c.entry fmt).epw == 0 && tagIndex tag == 0)

def storeFormat (c : FmtCtx) (fmt : Nat) (e : Env) (rc : List Nat) : Option TrapInfo :=
  e.acting.findSome? (fun l => rc.findSome? (fun r =>
    let g := e.tag l r
    if storeFormatOk c fmt g then none else some (fmtTrap causeFmtMismatch r 0 (tagIndex g) g)))

/-- Bytes of a lane's registers. -/
def Env.laneBytes (e : Env) (l : Nat) (rs : List Nat) (n : Nat) : List Byte :=
  ((e.words l rs).flatMap (fun w => leBytes 4 w.toNat)).take n

/-- Bytes of a piece within the data of its lane. -/
def Piece.cut (q : Piece) (data : List Byte) : List Byte := (data.drop q.off).take q.len

/-- The accesses of a store or atomic as watches see them. -/
def writeAccess (ps : List Placed) (data : Nat → List Byte) : List LaneAccess :=
  ((ps.map (fun q => q.piece.lane)).eraseDups).map (fun l =>
    ⟨l, (ps.filter (fun q => q.piece.lane == l)).flatMap (fun q =>
      (q.piece.cut (data l)).zipIdx.map (fun b => (q.piece.va + b.2, b.1)))⟩)

/-- A write performed at a slice, the home's or that of the issuing die (R262, R301): it follows the core's own stores to the
line, and the L1 keeps no clean word of it. -/
def Part.sendWrite (p : Part) (core : Nat) (home : Bool) (line : Nat) (os : List Origin) (bytes : List (Nat × Byte)) : Part :=
  let send (k : Core) : Core :=
    let k := (k.copyBack line).forget line
    let q : Packet := ⟨k.nextId, line, bytes, k.round, some (if home then homeDie (line * 128) else dieOf core), p.nextCommand, k.seen, os⟩
    { k with packets := k.packets ++ [q], nextId := k.nextId + 1 }
  { p.onCore core send with nextCommand := p.nextCommand + 1 }

/-- A write of a core to a line of the host or a peer leaves on its link. -/
def Part.sendFar (p : Part) (w : WarpRef) (pc va loc : Nat) (bs : List Byte) : Part :=
  let note (k : Core) : Core :=
    if locTarget loc = 1 then { k with hostDirty := true }
    else { k with portsDirty := k.portsDirty ++ ((p.portOf loc).toList.filter (fun q => !k.portsDirty.contains q)) }
  (p.onCore w.core note).sendRemote { remoteReq 2 loc w pc with va := va, data := bs, port := p.portOf loc }

/-- The bytes of some pieces at their places in a line, later pieces over earlier ones. -/
def pieceBytes (ps : List Placed) (data : Placed → List Byte) : List (Nat × Byte) :=
  ps.foldl (fun m q => (data q).zipIdx.foldl (fun m b => insertKey (q.loc % 128 + b.2) b.1 m) m) []

/-- Store pieces of a warp's lanes in ascending lane order, the highest lane's bytes of a word remaining (R133): into the L1,
or, as the writes of STMC and ST.REL, line by line at the slices. -/
def Part.storePieces (p : Part) (w : WarpRef) (pc : Nat) (slice : Option Bool) (ps : List Placed) (data : Placed → List Byte) : Part :=
  let near := ps.filter (fun q => isDevice q.loc)
  let origin (q : Placed) : Origin := ⟨w, pc, q.piece.va, 2 ^ q.piece.lane⟩
  let p := if near.isEmpty then p else p.onWarp w (((p.core? w.core).getD Core.reset).noteStore)
  let p := match slice with
    | none => p.onCore w.core (fun k => near.foldl (fun k q => k.store (lineOf q.loc) (origin q) (pieceBytes [q] data)) k)
    | some home => ((near.map (fun q => lineOf q.loc)).eraseDups).foldl (fun p line =>
        let mine := near.filter (fun q => lineOf q.loc == line)
        p.sendWrite w.core home line ((mine.map origin).foldl addOrigin []) (pieceBytes mine data)) p
  (ps.filter (fun q => !isDevice q.loc)).foldl (fun p q => p.sendFar w pc q.piece.va q.loc (data q)) p

/-- The pieces of the instruction at hand, cut from the data of their lanes. -/
def Part.storeAll (p : Part) (c : Ctx) (slice : Option Bool) (ps : List Placed) (data : Nat → List Byte) : Part :=
  p.storePieces c.ref c.pc slice ps (fun q => q.piece.cut (data q.piece.lane))

def bodySt (f : Base) (x : Ext) (c : Ctx) (s : State) : Act :=
  let e := c.env s
  let r := e.record f.b.toNat
  let rc := groupRegs x.c x.wc
  let n := accessBytes (mBits x 6 5) rc.length
  let rel := if semField x = 1 then some (scopeField x) else none
  if e.acting.isEmpty then .done s (fun _ => c.next)
  else
    match (r.check e.fmt (fun r => r.w) c.group).orElse (fun _ => storeFormat e.fmt r.fmt e rc) with
    | some t => .trap t
    | none =>
      let lanes := accessLanes e.fmt r (byteOff x 4 0) n (fun l => (e.v l f.a.toNat).toNat) e.acting
      match laneTrap r (min n 16) lanes with
      | some t => .trap t
      | none =>
        c.releaseFirst s rel.isSome (rel.getD 0) (fun s =>
          let inb := lanes.filter (·.inb)
          let ps := inb.flatMap (·.pieces)
          let plan := s.plan c.g.job .write ps
          match s.part.accessHold c.ref false ps plan with
          | some why => .hold why
          | none =>
            let data (l : Nat) : List Byte := e.laneBytes l rc n
            let denied := (plan.denied.map (fun d => d.1.lane)).eraseDups
            let (p, stop) := c.watch s.part 1 false (writeAccess plan.ok data)
            let held := match stop with
              | some st => st.m.lanes
              | none => []
            let go := plan.ok.filter (fun q => !held.contains q.piece.lane)
            let cut := plan.cutOff p
            let p := p.storeAll c (rel.map scopeWide) (go.filter (fun q => !cut.contains q.piece.lane)) data
            let p := p.logLines c (plan.spare held) .write none (e.fmt.entry r.fmt) 0 none (fun q => q.cut (data q.lane))
            let p := p.cutPieces c.ref none ((plan.cutPieces s.part).filter (fun q => !held.contains q.piece.lane))
            c.conclude { s with part := p } (denied ++ held) stop c.pc plan.trap)

/-! ### The instructions -/

/-- LD, R131. -/
def execLd (f : Base) (x : Ext) (s : State) : Out :=
  issue ⟨.ld, f, .long x⟩ s (bodyLd f x)

/-- ST, R133. -/
def execSt (f : Base) (x : Ext) (s : State) : Out :=
  issue ⟨.st, f, .long x⟩ s (bodySt f x)

end Sys2Proof.Machine
end

