-- ==== Sys2Proof/Machine/LaneScratch.lean ====
section
/-! DEFINITION. Lane accesses of scratchpad windows: LDS, STS and ATOMS (R134, R135, R139). -/

namespace Sys2Proof.Machine

/-- The window an access addresses: its own, or the one of the cluster member with the rank of s(B); none traps PROT. -/
def Ctx.window (c : Ctx) (peer : Bool) (rank : Nat) : Option (Nat × Nat) :=
  if !peer then some (c.ref.core, c.ref.slot)
  else if c.g.cluster < 2 || c.g.cluster ≤ rank then none
  else c.g.members[rank]?

/-- A scratchpad access by lane: its byte address. -/
structure SpadLane where
  lane : Nat
  at_ : Nat
  deriving DecidableEq, Repr

/-- A trap of the lanes that fail a check, with the lowest of their addresses (R280). -/
def spadTrap (cause : Nat) (bad : List SpadLane) : Option TrapInfo :=
  (minList? (bad.map (·.at_))).map (fun a => { cause := cause, addr := a, info0 := maskOf (bad.map (·.lane)) })

/-- The checks of R134 on accesses of n bytes in a window of `size` bytes; a write must not meet the command ring. -/
def spadChecks (size n : Nat) (writes : Bool) (ls : List SpadLane) : Option TrapInfo :=
  (spadTrap causeMisalign (ls.filter (fun l => l.at_ % min n 16 != 0))).orElse fun _ =>
  (spadTrap causeOob (ls.filter (fun l => decide (size < l.at_ + n)))).orElse fun _ =>
  if writes then spadTrap causeProt (ls.filter (fun l => decide (size - 512 < l.at_ + n))) else none

/-- Empty lines of a window that accesses of n bytes touch. -/
def Part.emptyFor (p : Part) (win : Nat × Nat) (n : Nat) (ls : List SpadLane) : List Nat :=
  match p.wg? win.1 win.2 with
  | none => []
  | some g => g.emptyLines (linesTouched (ls.map (fun l => (l.at_, n))))

/-- The participants with their addresses. -/
def spadLanes (e : Env) (a off : Nat) : List SpadLane :=
  e.acting.map (fun l => ⟨l, (e.v l a).toNat + off⟩)

/-- The common path of R134: the window, the checks, the wait for an acquire before it (R255, R271), and for loads and atomics
the wait for full lines (R135). -/
def Ctx.spad (c : Ctx) (s : State) (peer : Bool) (rank n : Nat) (reads writes : Bool) (ls : List SpadLane)
    (go : Nat × Nat → Act) : Act :=
  match c.window peer rank with
  | none => .trap { cause := causeProt, info0 := maskOf (ls.map (·.lane)) }
  | some win =>
    let size := ((s.part.wg? win.1 win.2).map (·.scratch)).getD 0
    match spadChecks size n writes ls with
    | some t => .trap t
    | none =>
      let empty := s.part.emptyFor win n ls
      if s.part.acquiring c.ref then .hold 13
      else if reads && !empty.isEmpty then .park (.lines win.1 win.2 empty) else go win

/-- Accesses of a window as watches see them: SPAD addresses are those of the matched workgroup's own window (R239), so an access
of a peer's meets none. -/
def Ctx.watchSpad (c : Ctx) (p : Part) (win : Nat × Nat) (bit : Nat) (xs : List LaneAccess) : Part × Option Stop :=
  c.watch p bit true (if win = (c.ref.core, c.ref.slot) then xs else [])

/-- The bytes of an access by lane. -/
def spadAccess (ls : List SpadLane) (data : SpadLane → List Byte) : List LaneAccess :=
  ls.map (fun l => ⟨l.lane, (data l).zipIdx.map (fun b => (l.at_ + b.2, b.1))⟩)

/-- Charge the request of some lanes to the issuing workgroup, R298. -/
def Ctx.chargeLanes (c : Ctx) (p : Part) (n : Nat) (ls : List SpadLane) : Part :=
  if ls.isEmpty then p else p.charge c.ref.core c.ref.slot (bankExtra (laneWords (ls.map (fun l => (l.at_, n)))))

/-- The FMT of LDS, R106, R131: valid and register-capable; pairs need width 01 or wider. -/
def ldsFormat (x : Ext) (c : FmtCtx) : Option TrapInfo :=
  match checkIndexTag c (mBits x 12 8) with
  | .error t => some t
  | .ok f => if mBits x 6 5 = 0 && f.epw = 15 && x.wd = 0 then some (indexMismatch c (mBits x 12 8)) else none

def bodyLds (f : Base) (x : Ext) (c : Ctx) (s : State) : Act :=
  let e := c.env s
  if e.acting.isEmpty then .done s (fun _ => c.next)
  else
    match ldsFormat x e.fmt with
    | some t => .trap t
    | none =>
      let rd := groupRegs f.d x.wd
      let n := accessBytes (mBits x 6 5) rd.length
      let ls := spadLanes e f.a.toNat (byteOff x 4 0)
      c.spad s (uniformB x) (e.s f.b.toNat).toNat n true false ls (fun win =>
        let tag := if mBits x 6 5 = 0 then e.fmt.tagOf (mBits x 12 8) else tagUint32
        let bytes (l : SpadLane) : List Byte := s.part.winRead win.1 win.2 l.at_ n
        let pend := ls.map (fun l => laneWrites l.lane (groupWrites rd (bytesWords (bytes l)) (rd.map (fun _ => tag))))
        let s := c.write s pend 0
        let (p, stop) := c.watchSpad (c.chargeLanes s.part n ls) win 0 (spadAccess ls bytes)
        c.conclude { s with part := p } [] stop c.next none)

def bodySts (f : Base) (x : Ext) (c : Ctx) (s : State) : Act :=
  let e := c.env s
  if e.acting.isEmpty then .done s (fun _ => c.next)
  else
    let rc := groupRegs x.c x.wc
    let n := accessBytes (mBits x 6 5) rc.length
    let ls := spadLanes e f.a.toNat (byteOff x 4 0)
    c.spad s (uniformB x) (e.s f.b.toNat).toNat n false true ls (fun win =>
      let bytes (l : SpadLane) : List Byte := e.laneBytes l.lane rc n
      let (p, stop) := c.watchSpad s.part win 1 (spadAccess ls bytes)
      let held := match stop with
        | some st => st.m.lanes
        | none => []
      let go := ls.filter (fun l => !held.contains l.lane)
      let p := go.foldl (fun p l => p.winWrite win.1 win.2 l.at_ (bytes l)) (c.chargeLanes p n go)
      c.conclude { s with part := p } held stop c.pc none)

/-- The operand type of ATOMS: c's tag under R93, taken from its low half. EXCH and CAS accept a float kind, DESIGN CHOICE, log
entry 18. -/
def atomsType (op : Nat) (x : Ext) (e : Env) (rc : List Nat) (l : Nat) : Except TrapInfo Entry :=
  let low := if op = 7 then rc.take (max 1 (rc.length / 2)) else rc
  match checkGroup e l low with
  | .error t => .error t
  | .ok _ =>
    match checkKinds e l (atomAccepts op 3) low with
    | .error t => .error t
    | .ok _ =>
      let g := e.tag l (low.headD 0)
      let f := e.fmt.entry (tagIndex g)
      if (atomBytes op f (some x.wd) x.wc).isNone || (decide (10 ≤ op) && tagIndex g != 3)
        then .error (fmtTrap causeFmtMismatch (low.headD 0) 0 (tagIndex g) g)
      else .ok f

/-- One lane of ATOMS: what it reads and the window after. -/
def Part.spadAtom (p : Part) (win : Nat × Nat) (f : Entry) (op n at_ : Nat) (ws : List Word) : Part × List Byte :=
  let old := p.winRead win.1 win.2 at_ n
  let (v, v2) := atomOperand op n ws
  (p.winWrite win.1 win.2 at_ (leBytes n (atomNew f op n (leNat old) v v2)), old)

/-- The operand of an atomic as a watch sees it: v, or the new half of a CAS (R240). -/
def atomWatched (op n : Nat) (ws : List Word) : List Byte :=
  let (v, v2) := atomOperand op n ws
  leBytes n (if op = 7 then v2 else v)

def bodyAtoms (f : Base) (x : Ext) (c : Ctx) (s : State) : Act :=
  let e := c.env s
  let op := mBits x 7 4
  if e.acting.isEmpty then .done s (fun _ => c.next)
  else
    let rd := groupRegs f.d x.wd
    let rc := groupRegs x.c x.wc
    match mapLanes (atomsType op x e rc) e.acting with
    | .error t => .trap t
    | .ok types =>
      let n := 4 * rd.length
      let ls := spadLanes e f.a.toNat (byteOff x 3 0)
      c.spad s (uniformB x) (e.s f.b.toNat).toNat n true true ls (fun win =>
        let words (l : SpadLane) : List Word := e.words l.lane rc
        let (p, stop) := c.watchSpad s.part win 2 (spadAccess ls (fun l => atomWatched op n (words l)))
        let held := match stop with
          | some st => st.m.lanes
          | none => []
        let go := (ls.zip types).filter (fun l => !held.contains l.1.lane)
        let p := c.chargeLanes p n (go.map (·.1))
        let (p, pend) := go.foldl (fun (acc : Part × List PendLane) l =>
          let (p, old) := acc.1.spadAtom win l.2 op n l.1.at_ (words l.1)
          let tag := e.tag l.1.lane x.c.toNat
          (p, acc.2 ++ [laneWrites l.1.lane (groupWrites rd (bytesWords old) (rd.map (fun _ => tag)))])) (p, [])
        c.conclude (c.write { s with part := p } pend 0) held stop c.pc none)

/-! ### The instructions -/

/-- LDS, R134. -/
def execLds (f : Base) (x : Ext) (s : State) : Out :=
  issue ⟨.lds, f, .long x⟩ s (bodyLds f x)

/-- STS, R134. -/
def execSts (f : Base) (x : Ext) (s : State) : Out :=
  issue ⟨.sts, f, .long x⟩ s (bodySts f x)

/-- ATOMS, R139. -/
def execAtoms (f : Base) (x : Ext) (s : State) : Out :=
  issue ⟨.atoms, f, .long x⟩ s (bodyAtoms f x)

end Sys2Proof.Machine
end

