-- ==== Sys2Proof/Machine/LaneAtom.lean ====
section
/-! DEFINITION. Lane atomics and reductions on global memory (R136 to R140) and the multicast store (R141). -/

namespace Sys2Proof.Machine

/-! ### Paths, R140, R365, R370 -/

/-- The class of an operation of n bytes, R365. -/
def atomClass (op n : Nat) : Nat :=
  if op = 7 && n = 16 then 1
  else if op = 0 || op = 6 || op = 7 then 0
  else if 10 ≤ op then 3 else 2

/-- Classes the path to a location carries: all within the part, those of the host link, or those common to every port
of the route to a peer. -/
def Part.pathMask (p : Part) (loc : Nat) : Nat :=
  if isDevice loc then 31
  else if locTarget loc = 1 then (if p.mgmt.hostAtomics then 3 else 0)
  else (p.route (loc / 2 ^ 40 % 2 ^ 12)).foldl (fun m i => m &&& (nth p.mgmt.ports i Port.reset).cls) 31

/-- PATH_ATOMIC of the lowest lane whose path cannot carry a class, R280. -/
def Plan.pathTrap (plan : Plan) (p : Part) (cls : Nat) : Option TrapInfo :=
  let bad := plan.ok.filter (fun q => !(p.pathMask q.loc).testBit cls)
  match minList? (bad.map (fun q => q.piece.lane)) with
  | none => none
  | some l => (bad.find? (fun q => q.piece.lane == l)).map (fun q =>
      { cause := causePathAtomic, addr := q.piece.va, info0 := l })

/-! ### Requests -/

/-- The lanes of a reduction or atomic on their way to one home line. -/
def lineLanes (ps : List Placed) (line : Nat) (operand : Nat → List Word) : List AtomLane :=
  (ps.filter (fun q => lineOf q.loc == line)).map (fun q => ⟨q.piece.lane, q.loc, q.piece.va, operand q.piece.lane, 0⟩)

/-- A request to a home line leaves after the core's own stores to it. -/
def Part.sendAtom (p : Part) (r : WarpRef) (pc : Nat) (pend : Option Nat) (op : Nat) (entry : Entry) (acquire : Option Nat)
    (line : Nat) (lanes : List AtomLane) : Part :=
  let send (k : Core) : Core :=
    let k := k.copyBack line
    { k with atoms := k.atoms ++ [⟨k.nextId, r, pc, pend, op, entry, lanes, acquire, p.nextCommand⟩], nextId := k.nextId + 1 }
  { p.onCore r.core send with nextCommand := p.nextCommand + 1 }

/-- Send an atomic or reduction: one request for each line of the part, after the core's own stores to the line, and
one for each lane in host memory or a peer. -/
def Part.sendAtomics (p : Part) (r : WarpRef) (pc : Nat) (pend : Option Nat) (op n : Nat) (entry : Entry)
    (acquire : Option Nat) (ps : List Placed) (operand : Nat → List Word) : Part :=
  let near := ps.filter (fun q => isDevice q.loc)
  let lines := (near.map (fun q => lineOf q.loc)).eraseDups
  let p := lines.foldl (fun p line => p.sendAtom r pc pend op entry acquire line (lineLanes near line operand)) p
  (ps.filter (fun q => !isDevice q.loc)).foldl (fun p q =>
    p.sendRemote { remoteReq 1 q.loc r pc with
      va := q.piece.va, pend := pend, port := p.portOf q.loc, count := n, op := op,
      data := (operand q.piece.lane).flatMap (fun w => leBytes 4 w.toNat), lane := q.piece.lane,
      acquire := acquire, signed := entry.isSigned }) p

/-! ### ATOM and RED -/

/-- The operand type of ATOM and RED: the record's format and the widths, and for the FP32 operations c's tag. -/
def atomFormat (op : Nat) (wd : Option (BitVec 2)) (x : Ext) (e : Env) (fmt : Nat) : Option TrapInfo :=
  let f := e.fmt.entry fmt
  if !f.valid then some (fmtTrap causeFmtIllegal 0 2 fmt (e.fmt.tagOf fmt))
  else if !atomAccepts op fmt f || (atomBytes op f wd x.wc).isNone then some (indexMismatch e.fmt fmt)
  else if op < 10 then none
  else
    e.acting.findSome? (fun l =>
      match both (checkGroup e l [x.c.toNat]) (checkEqual e l tagFp32 [x.c.toNat]) with
      | .error t => some t
      | .ok _ => none)

def bodyAtomic (red : Bool) (f : Base) (x : Ext) (c : Ctx) (s : State) : Act :=
  let e := c.env s
  let r := e.record f.b.toNat
  let op := mBits x 7 4
  let wd := if red then none else some x.wd
  let scope := scopeField x
  if e.acting.isEmpty then .done s (fun _ => c.next)
  else
    match (r.check e.fmt (fun r => r.a) c.group).orElse (fun _ => atomFormat op wd x e r.fmt) with
    | some t => .trap t
    | none =>
      let entry := e.fmt.entry r.fmt
      let n := (atomBytes op entry wd x.wc).getD 4
      let lanes := accessLanes e.fmt r (byteOff x 3 0) n (fun l => (e.v l f.a.toNat).toNat) e.acting
      match laneTrap r (min n 16) lanes with
      | some t => .trap t
      | none =>
        let ps := (lanes.filter (·.inb)).flatMap (·.pieces)
        let plan := s.plan c.g.job .atomic ps
        match plan.pathTrap s.part (atomClass op n) with
        | some t => .trap t
        | none =>
          c.releaseFirst s (decide (2 ≤ semField x)) scope (fun s =>
            match s.part.accessHold c.ref false ps plan with
            | some why => .hold why
            | none =>
              let acq := if semField x % 2 = 1 then some scope else none
              let rc := groupRegs x.c x.wc
              let operand (l : Nat) : List Word := e.words l rc
              let denied := (plan.denied.map (fun d => d.1.lane)).eraseDups
              let (p, stop) := c.watch s.part 2 false (writeAccess plan.ok (fun l => atomWatched op n (operand l)))
              let held := match stop with
                | some st => st.m.lanes
                | none => []
              let cut := plan.cutOff p
              let go := plan.ok.filter (fun q => !held.contains q.piece.lane && !cut.contains q.piece.lane)
              let rd := groupRegs f.d x.wd
              let tag := e.fmt.tagOf r.fmt
              let pend (l : LanePieces) : PendLane :=
                { lane := l.lane, targets := rd.map Target.v, tags := rd.map (fun _ => tag),
                  values := if l.inb then none else some (rd.map (fun _ => 0)), bytes := [], form := .whole }
              let live := lanes.filter (fun l => !denied.contains l.lane && !held.contains l.lane)
              let s := if red then { s with part := p } else c.write { s with part := p } (live.map pend) 0
              let id := if red then none else some c.w.seq
              let p := s.part.sendAtomics c.ref c.pc id op n entry acq go operand
              let p := p.logLines c (plan.spare held) .atomic id entry 0 acq
                (fun q => (operand q.lane).flatMap (fun w => leBytes 4 w.toNat))
              let p := p.cutPieces c.ref id ((plan.cutPieces s.part).filter (fun q => !held.contains q.piece.lane))
              c.conclude { s with part := p } (denied ++ held) stop c.pc plan.trap)

def bodyAtom (f : Base) (x : Ext) : Ctx → State → Act := bodyAtomic false f x
def bodyRed (f : Base) (x : Ext) : Ctx → State → Act := bodyAtomic true f x

/-! ### STMC, R141 -/

/-- Operation of a reduction code. -/
def stmcOp : Nat → Nat
  | 1 => 0
  | 2 => 1
  | 3 => 2
  | _ => 10

/-- A destination: its number and record, its lanes, and the lanes its record denies. -/
structure Dest where
  num : Nat
  at_ : Rec
  lanes : List LanePieces
  denied : List (Nat × Nat)
  deriving DecidableEq, Repr

/-- The participants of destination j: those its permission or its policy denies, with their addresses. -/
def stmcDest (c : FmtCtx) (rop m n : Nat) (index : Nat → Nat) (acting : List Nat) (j : Nat) (r : Rec) : Dest :=
  let lanes := accessLanes c r m n index acting
  let allowed := if rop = 0 then r.w else r.a
  let out := if !allowed then lanes else if r.oob = 0 then lanes.filter (fun l => !l.inb) else []
  ⟨j, r, lanes, out.map (fun l => (l.lane, l.addr))⟩

def Dest.open_ (d : Dest) : List LanePieces :=
  d.lanes.filter (fun l => l.inb && !d.denied.any (fun q => q.1 == l.lane))

/-- The record and format tests of a destination, before any effect. -/
def stmcOk (rop : Nat) (x : Ext) (e : Env) (rc : List Nat) (r : Rec) : Bool :=
  r.formOk e.fmt &&
    (if rop = 0 then (storeFormat e.fmt r.fmt e rc).isNone else (atomFormat (stmcOp rop) none x e r.fmt).isNone)

/-- MC_PARTIAL, R280: status and lowest denied lane of each destination, and the address of that lane in the lowest
denied one. -/
def stmcTrap (lanes : Nat) (denied : List (Nat × Nat × Nat)) : Option TrapInfo :=
  let of (j : Nat) : List (Nat × Nat) := (denied.filter (fun d => d.1 == j)).map (·.2)
  let low (j : Nat) : Nat := (minList? ((of j).map (·.1))).getD 0
  let info := (List.range 4).foldl (fun m j =>
    if (of j).isEmpty then m else m + 2 ^ j + low j * 2 ^ (4 + 5 * j)) 0
  match minList? (denied.map (·.1)) with
  | none => none
  | some j => some { cause := causeMcPartial, lanes := some lanes, after := true,
                     addr := ((of j).lookup (low j)).getD 0, info0 := info }

/-- Replays of the STMC at hand are outstanding. -/
def Part.logOpen (p : Part) (r : WarpRef) (pc : Nat) : Bool :=
  match p.core? r.core with
  | none => false
  | some k => k.oplog.any (fun e => e.w == r && e.pc == pc)

/-- The end of an STMC: its lanes go on, but for those a watch stops. -/
def Ctx.endMulti (c : Ctx) (s : State) (m : Multi) : Act :=
  let held := match m.stop with
    | some st => st.m.lanes
    | none => []
  let kept := held ++ c.group.filter (fun l => bitNat m.lanes l == 0)
  let s := { s with part := s.part.onWarp c.ref (fun w => { w with multi := w.multi.filter (fun q => q.pc != c.pc) }) }
  c.conclude s kept m.stop c.pc (stmcTrap (maskOf ((c.acting s.part.oracle).filter (fun l => !kept.contains l))) m.denied)

/-- Perform the destinations: allowed lanes are written or reduced, lanes of pages that deny are noted, lines that are
not present are logged. -/
def stmcPerform (c : Ctx) (rop n : Nat) (e : Env) (rc : List Nat) (home : Bool) (held : List Nat)
    (p : Part) (d : Dest × Plan) : Part :=
  let plan := d.2
  let entry := e.fmt.entry d.1.at_.fmt
  let cut := plan.cutOff p
  let go := plan.ok.filter (fun q => !held.contains q.piece.lane && !cut.contains q.piece.lane)
  let words (l : Nat) : List Word := e.words l rc
  let p := if rop = 0 then p.storeAll c (some home) go (fun l => e.laneBytes l rc n)
    else p.sendAtomics c.ref c.pc none (stmcOp rop) n entry none go words
  let p := p.logLines c (plan.spare held) (if rop = 0 then .write else .atomic) none entry d.1.num none
    (fun q => if rop = 0 then q.cut (e.laneBytes q.lane rc n) else (words q.lane).flatMap (fun w => leBytes 4 w.toNat))
  p.cutPieces c.ref none ((plan.cutPieces p).filter (fun q => !held.contains q.piece.lane))

def bodyStmc (f : Base) (x : Ext) (c : Ctx) (s : State) : Act :=
  let e := c.env s
  let rop := mBits x 7 5
  let dests := mBits x 1 0 + 1
  let rc := groupRegs x.c x.wc
  let n := 4 * rc.length
  let m := byteOff x 4 2
  let home := semField x == 2 && scopeWide (scopeField x)
  if e.acting.isEmpty then .done s (fun _ => c.next)
  else
    match c.w.multi.find? (fun q => q.pc == c.pc) with
    | some q => if s.part.logOpen c.ref c.pc then .hold 12 else c.endMulti s q
    | none =>
      let recs := (List.range dests).map (fun j => e.record (f.b.toNat + 4 * j))
      if !recs.all (stmcOk rop x e rc) then .trap { cause := causeStmcBad }
      else
        let ds := recs.zipIdx.map (fun q => stmcDest e.fmt rop m n (fun l => (e.v l f.a.toNat).toNat) e.acting q.2 q.1)
        match ds.findSome? (fun d => laneTrap { d.at_ with oob := 1 } (min n 16) d.lanes) with
        | some t => .trap t
        | none =>
          let plans := ds.map (fun d =>
            (d, s.plan c.g.job (if rop = 0 then .write else .atomic) (d.open_.flatMap (·.pieces))))
          let path := if rop = 0 then none
            else plans.findSome? (fun d => d.2.pathTrap s.part (atomClass (stmcOp rop) n))
          match path with
          | some t => .trap t
          | none =>
            c.releaseFirst s (semField x = 2) (scopeField x) (fun s =>
              let all := plans.flatMap (fun d => d.2.ok)
              let whole : Plan :=
                ⟨all, plans.flatMap (fun d => d.2.denied), plans.flatMap (fun d => d.2.absent)⟩
              let pieces := plans.flatMap (fun d => d.1.open_.flatMap (·.pieces))
              match s.part.accessHold c.ref false pieces whole with
              | some why => .hold why
              | none =>
                let data (l : Nat) : List Byte :=
                  if rop = 0 then e.laneBytes l rc n else atomWatched (stmcOp rop) n (e.words l rc)
                let (p, stop) := c.watch s.part (if rop = 0 then 1 else 2) false (writeAccess all data)
                let held := match stop with
                  | some st => st.m.lanes
                  | none => []
                let p := plans.foldl (stmcPerform c rop n e rc home held) p
                let denied := plans.flatMap (fun d =>
                  (d.1.denied ++ d.2.denied.map (fun q => (q.1.lane, (d.1.lanes.find? (fun l => l.lane == q.1.lane)).elim 0 (·.addr)))).map
                    (fun q => (d.1.num, q)))
                let mu : Multi := ⟨c.pc, maskOf c.group, denied.filter (fun d => !held.contains d.2.1), stop⟩
                if p.logOpen c.ref c.pc then
                  .holdState { s with part := p.onWarp c.ref (fun w => { w with multi := w.multi ++ [mu] }) } 12
                else c.endMulti { s with part := p } mu)

/-! ### The instructions -/

/-- ATOM, R137. -/
def execAtom (f : Base) (x : Ext) (s : State) : Out :=
  issue ⟨.atom, f, .long x⟩ s (bodyAtom f x)

/-- RED, R138. -/
def execRed (f : Base) (x : Ext) (s : State) : Out :=
  issue ⟨.red, f, .long x⟩ s (bodyRed f x)

/-- STMC, R141. -/
def execStmc (f : Base) (x : Ext) (s : State) : Out :=
  issue ⟨.stmc, f, .long x⟩ s (bodyStmc f x)

end Sys2Proof.Machine
end

