-- ==== Sys2Proof/Machine/LaneCache.lean ====
section
/-! DEFINITION. Prefetch, discard, flush and fence (R142 to R145, R313, R314). -/

namespace Sys2Proof.Machine

/-! ### PREF and DISCARD -/

/-- The physical lines of the part that hold the participants' addresses in bounds, where they translate. -/
def State.linesOf (s : State) (job : Nat) (c : FmtCtx) (r : Rec) (m : Nat) (index : Nat → Nat) (acc : Access)
    (acting : List Nat) : List Nat :=
  (acting.filterMap (fun l =>
    let va := r.addr (index l * r.stride + m)
    if !r.inBounds c (index l) m 1 then none
    else match s.translate job va acc with
      | .ok loc => if isDevice loc then some (lineOf loc) else none
      | _ => none)).eraseDups

/-- PREF: a malformed record traps, everything else that is missing drops the lane. Its bounds test takes an access of 1 byte:
DESIGN CHOICE, log entry 20. -/
def bodyPref (f : Base) (x : Ext) (c : Ctx) (s : State) : Act :=
  let e := c.env s
  let r := e.record f.b.toNat
  if e.acting.isEmpty then .done s (fun _ => c.next)
  else
    match r.check e.fmt (fun _ => true) c.group with
    | some t => .trap t
    | none =>
      let lines := if r.r
        then s.linesOf c.g.job e.fmt r (byteOff x 4 0) (fun l => (e.v l f.a.toNat).toNat) .read e.acting else []
      let want (k : Core) (line : Nat) : Core :=
        k.ask s.part.nextCommand (if semField x = 1 then [(line, 4)] else
          ((List.range 4).filter (fun i => !((k.line? line).map (fun y => y.sectors.testBit i)).getD false)).map (fun i => (line, i)))
      .done { s with part := s.part.onCore c.ref.core (fun k => lines.foldl want k) } (fun _ => c.next)

/-- Virtual lines of the participants, for R282. -/
def recLines (r : Rec) (m : Nat) (index : Nat → Nat) (acting : List Nat) : List Nat :=
  acting.map (fun l => r.addr (index l * r.stride + m) / 128 * 128)

/-- DISCARD drops the dirty words of its lines in the L1 at once; under .DI the slice of the issuing die follows.
Its bounds test takes an access of 1 byte: DESIGN CHOICE, log entry 20. -/
def bodyDiscard (f : Base) (x : Ext) (c : Ctx) (s : State) : Act :=
  let e := c.env s
  let r := e.record f.b.toNat
  let m := byteOff x 4 0
  let index (l : Nat) : Nat := (e.v l f.a.toNat).toNat
  if e.acting.isEmpty then .done s (fun _ => c.next)
  else
    match r.check e.fmt (fun r => r.w) c.group with
    | some t => .trap t
    | none =>
      match laneTrap { r with oob := 1 } 1 (accessLanes e.fmt r m 1 index e.acting) with
      | some t => .trap t
      | none =>
        let lines := s.linesOf c.g.job e.fmt r m index .write e.acting
        if s.part.acquiring c.ref || s.part.logNames c.ref (recLines r m index e.acting)
            || s.part.lineBusy c.ref false lines [] then .hold 13
        else
          let drop (k : Core) (line : Nat) : Core :=
            let k := match k.line? line with
              | none => k
              | some y => { k with l1 := insertKey line y.discard k.l1 }
            if scopeField x = 2 then { k with discards := k.discards ++ [(k.nextId, line, c.ref)], nextId := k.nextId + 1 } else k
          .done { s with part := s.part.onCore c.ref.core (fun k => lines.foldl drop k) } (fun _ => c.next)

/-! ### FLUSH -/

/-- The bytes of the participants' ranges, granule by granule (R144). -/
def flushPieces (c : FmtCtx) (r : Rec) (m : Nat) (index len : Nat → Nat) (acting : List Nat) : List Piece :=
  acting.flatMap (fun l =>
    let lo := index l * r.stride + m
    let hi := min (lo + len l) (r.span c)
    if lo < hi then r.bytePieces l 0 lo (hi - lo) else [])

/-- The piece's line translates for a read or for a write; a line its leaf denies is dropped (R349). -/
def State.flushLoc (s : State) (job : Nat) (q : Piece) : Option Nat :=
  match s.translate job q.va .read, s.translate job q.va .write with
  | .ok loc, _ => some loc
  | _, .ok loc => some loc
  | _, _ => none

/-- Lines and words of the pieces in device memory. -/
def State.flushRanges (s : State) (job : Nat) (ps : List Piece) : List (Nat × List Nat) :=
  let locs := ps.filterMap (fun q => (s.flushLoc job q).map (fun loc => (loc, q.len)))
  (locs.filter (fun q => isDevice q.1)).foldl (fun m q =>
    let words := (List.range ((q.1 % 128 + q.2 + 3) / 4 - q.1 % 128 / 4)).map (fun i => q.1 % 128 / 4 + i)
    let old := (lookupKey (lineOf q.1) m).getD []
    insertKey (lineOf q.1) (old ++ words.filter (fun w => !old.contains w)) m) []

/-- The lanes of FLUSH with what they cover: those that cover something are checked for addresses beyond the space (R34). -/
def flushLanes (r : Rec) (m : Nat) (index : Nat → Nat) (ps : List Piece) (acting : List Nat) : List LanePieces :=
  acting.map (fun l =>
    let mine := ps.filter (fun q => q.lane == l)
    ⟨l, r.addr (index l * r.stride + m), !mine.isEmpty, mine⟩)

/-- A walker starts: the covered dirty words leave at once, and it waits for them, for what the core has sent of these lines
before, and at .DV for the writes that the core has seen (R144, R268, R313). -/
def Part.startWalker (p : Part) (r : WarpRef) (ranges : List (Nat × List Nat)) (deep : Bool) : Part :=
  p.onCore r.core (fun k =>
    let id := k.nextId
    let k := ranges.foldl (fun k q => k.copyBackWords q.1 (q.2.foldl (fun m w => m ||| 2 ^ w) 0)) { k with nextId := id + 1 }
    { k with walkers := k.walkers ++ [⟨id, r, ranges, deep, k.nextId, joinClock k.seen (p.die (dieOf r.core)).vc⟩] })

/-- FLUSH takes a walker; with four at work the warp is held. -/
def bodyFlush (f : Base) (x : Ext) (c : Ctx) (s : State) : Act :=
  let e := c.env s
  let r := e.record f.b.toNat
  let m := byteOff x 4 0
  let index (l : Nat) : Nat := (e.v l f.a.toNat).toNat
  let len (l : Nat) : Nat := (e.v l x.c.toNat).toNat
  if e.acting.isEmpty then .done s (fun _ => c.next)
  else
    match r.check e.fmt (fun r => r.r || r.w) c.group with
    | some t => .trap t
    | none =>
      let ps := flushPieces e.fmt r m index len e.acting
      match laneTrap { r with oob := 1 } 1 (flushLanes r m index ps e.acting) with
      | some t => .trap t
      | none =>
        let ranges := s.flushRanges c.g.job ps
        let k := (s.part.core? c.ref.core).getD Core.reset
        if s.part.acquiring c.ref || s.part.logNames c.ref (ps.map (fun q => q.va / 128 * 128))
            || s.part.lineBusy c.ref false (ranges.map (·.1)) [] then .hold 13
        else if 4 ≤ k.walkers.length then .hold 12
        else .done { s with part := s.part.startWalker c.ref ranges (decide (scopeField x = 3)) } (fun _ => c.next)

/-! ### FENCE -/

/-- FENCE waits for the accesses before it, then releases, then acquires, as its SEM tells. -/
def bodyFence (_f : Base) (x : Ext) (c : Ctx) (s : State) : Act :=
  let sem := semField x
  let scope := scopeField x
  if (c.acting s.part.oracle).isEmpty then .done s (fun _ => c.next)
  else if !s.part.performed c.ref then .hold 13
  else
    c.releaseFirst s (decide (2 ≤ sem)) scope (fun s =>
      let p := if sem % 2 = 1 && decide (1 ≤ scope) then s.part.onCore c.ref.core Core.acquire else s.part
      .done { s with part := p } (fun _ => c.next))

/-! ### The instructions -/

/-- PREF, R142. -/
def execPref (f : Base) (x : Ext) (s : State) : Out :=
  issue ⟨.pref, f, .long x⟩ s (bodyPref f x)

/-- DISCARD, R143. -/
def execDiscard (f : Base) (x : Ext) (s : State) : Out :=
  issue ⟨.discard, f, .long x⟩ s (bodyDiscard f x)

/-- FLUSH, R144. -/
def execFlush (f : Base) (x : Ext) (s : State) : Out :=
  issue ⟨.flush, f, .long x⟩ s (bodyFlush f x)

/-- FENCE, R145. -/
def execFence (f : Base) (x : Ext) (s : State) : Out :=
  issue ⟨.fence, f, .long x⟩ s (bodyFence f x)

end Sys2Proof.Machine
end

