-- ==== Sys2Proof/Machine/LaneLock.lean ====
section
/-! DEFINITION. Hardware locks (R146 to R148, R306, R307, R415) and the translation of lock and barrier addresses at
issue (R445). -/

namespace Sys2Proof.Machine

/-! ### R445 -/

/-- The outcome of translating a lock or barrier address at issue: placed, a precise trap, or held. -/
inductive Issued where
  | ok (p : Part) (loc : Nat)
  | trap (p : Part) (t : TrapInfo)
  | hold (p : Part)

def Part.setXwait (p : Part) (r : WarpRef) (x : Option XWait) : Part :=
  p.onWarp r (fun w => { w with xwait := x })

/-- Translate a lock or barrier address for an atomic access, R445; its path must carry class 4 (R365). -/
def Ctx.place (c : Ctx) (s : State) (va : Nat) : Issued :=
  let mine := c.w.xwait.filter (fun x => x.pc == c.pc)
  let clear := s.part.setXwait c.ref none
  let acting := c.acting s.part.oracle
  let xlate : TrapInfo := { cause := causeXlate, addr := va }
  match mine.map (·.answer) with
  | some none => .hold s.part
  | some (some false) => .trap clear xlate
  | _ =>
    if 2 ^ 57 ≤ va then .trap clear xlate
    else
      match s.translate c.g.job va .atomic with
      | .ok loc =>
        if (s.part.pathMask loc).testBit 4 then .ok clear loc
        else .trap clear { cause := causePathAtomic, addr := va, info0 := (minList? acting).getD 0 }
      | .denied cause info => .trap clear { cause := cause, addr := va, info0 := maskOf acting, info1 := info }
      | .absent reason =>
        let (p, id) := s.part.postFault (dieOf c.ref.core) c.ref.core c.g.job va .atomic reason mine.isSome
        if id = 0 then .trap (p.setXwait c.ref none) xlate
        else .hold (p.setXwait c.ref (some ⟨c.pc, id, none⟩))

/-- The address is accessed by the instruction itself; a copy's barrier is by its engine. -/
def opPlaces : Op → Bool
  | .lock | .unlock | .tbinit | .tbexp | .tbarv | .tbwait => true
  | _ => false

/-- Go on with a placed address, once no entry of the operand log names its line (R282) and, for one in a peer, the Vexlink engine
has an entry free (R341). -/
def Ctx.placed (c : Ctx) (s : State) (va : Nat) (go : Part → Nat → Act) : Act :=
  if opPlaces c.parts.op && s.part.logNames c.ref [va / 128 * 128] then .hold 13
  else match c.place s va with
  | .ok p loc =>
    if opPlaces c.parts.op && locTarget loc = 2 && s.part.vexFull (dieOf c.ref.core) 1 then .hold 12 else go p loc
  | .trap p t => .trapState { s with part := p } t
  | .hold p => .holdState { s with part := p } 13

/-! ### LOCK -/

/-- The lock of a warp: held, or under a request. -/
def Warp.locked (w : Warp) : Bool := w.lock.isSome || w.lockWait.isSome

/-- The physical lines of the guarded ranges, lowest first; a line that fails translation is skipped (R147). -/
def State.guardedLines (s : State) (job : Nat) (c : FmtCtx) (rs : List Rec) : List Nat :=
  let one (r : Rec) : List Nat :=
    let first := r.base / 128
    ((List.range ((r.base + r.span c + 127) / 128 - first)).filterMap (fun i =>
      match s.translate job (128 * (first + i)) .read with
      | .ok loc => if isDevice loc then some (lineOf loc) else none
      | _ => none))
  ((rs.flatMap one).foldl (fun m l => insertKey l () m) []).map (·.1)

/-- The checks of LOCK and UNLOCK on the lock record. -/
def lockRecord (c : Ctx) (e : Env) (r : Rec) : Option TrapInfo :=
  (r.check e.fmt (fun r => r.a) c.group).orElse fun _ =>
  if r.base % 8 = 0 then none else some { cause := causeMisalign, addr := r.base, info0 := maskOf e.acting }

/-- The checks of LOCK on the guarded records. -/
def guardChecks (c : Ctx) (e : Env) (lock : Nat) (rs : List Rec) : Option TrapInfo :=
  rs.findSome? (fun r => (r.check e.fmt (fun r => r.r) c.group).orElse fun _ =>
    if r.span e.fmt ≤ 65536 then none else some { cause := causeLockMisuse, addr := lock })

/-- Send a lock request to its home slice, or over Vexlink to a peer. A request that can leave on no port fails. -/
def Part.sendLock (p : Part) (c : Ctx) (try_ : Bool) (pend : Option Nat) (ref : LockRef) (ranges : List Nat) : Part :=
  let set (p : Part) : Part := p.onWarp c.ref (fun w => { w with lockWait := some ⟨c.pc, maskOf c.group, ref, pend, none⟩ })
  if isDevice ref.loc then
    let after := ((p.core? c.ref.core).map (·.nextId)).getD 0
    let q : LockSend := ⟨c.ref, ref.loc, try_, ranges, after, p.nextCommand, false⟩
    { (set p).onDie (homeDie ref.loc) (fun x => { x with lockSends := x.lockSends ++ [q] }) with nextCommand := p.nextCommand + 1 }
  else
    match p.portOf ref.loc with
    | none => p.cutLanes c.ref pend c.group ref.va
    | some port => (set p).sendRemote { remoteReq 7 ref.loc c.ref c.pc with va := ref.va, pend := pend, port := some port,
                                                                                 op := if try_ then 1 else 0 }

/-- The request of a LOCK at hand that is under way or has been answered. -/
def Ctx.lockAsked (c : Ctx) : Option LockWait :=
  (c.w.lockWait.toList ++ c.w.lockDone).find? (fun w => w.pc == c.pc && w.pend.isNone && c.group.any (fun l => bitNat w.lanes l == 1))

def bodyLock (f : Base) (x : Ext) (c : Ctx) (s : State) : Act :=
  let e := c.env s
  let try_ := mBit x 3
  let r := e.record f.b.toNat
  if e.acting.isEmpty then .done s (fun _ => c.next)
  else
    match if try_ then none else c.lockAsked with
    | some q =>
      if q.answer.isNone then .park .lock
      else .done { s with part := s.part.onWarp c.ref (fun w => { w with lockDone := w.lockDone.erase q }) } (fun _ => c.next)
    | none =>
      match lockRecord c e r with
      | some t => .trap t
      | none =>
        let guarded := if mBit x 2 then [] else (List.range (mBits x 1 0 + 1)).map (fun j => e.record (f.a.toNat + 4 * j))
        match guardChecks c e r.base guarded with
        | some t => .trap t
        | none =>
          if c.w.locked then .trap { cause := causeLockMisuse, addr := r.base }
          else if s.part.acquiring c.ref then .hold 13
          else
            c.placed s r.base (fun p loc =>
              let s := { s with part := p }
              let ref : LockRef := ⟨r.base, physical loc⟩
              let ranges := s.guardedLines c.g.job e.fmt guarded
              if try_ then
                let pend (l : Nat) : PendLane :=
                  { lane := l, targets := [.p (f.d.toNat % 8)], tags := [0], values := none, bytes := [], form := .whole }
                let s := c.write s (e.acting.map pend) 0
                .done { s with part := s.part.sendLock c true (some c.w.seq) ref ranges } (fun _ => c.next)
              else
                let s := { s with part := s.part.sendLock c false none ref ranges }
                if !isDevice loc && (s.part.portOf loc).isNone then .done s (fun _ => c.next) else .stay (c.parkAt s .lock))

/-! ### UNLOCK -/

/-- UNLOCK ends the hold at issue; its release runs on, and frees the lock when it completes (R148, R415). -/
def bodyUnlock (f : Base) (_x : Ext) (c : Ctx) (s : State) : Act :=
  let e := c.env s
  let r := e.record f.b.toNat
  if e.acting.isEmpty then .done s (fun _ => c.next)
  else
    match lockRecord c e r with
    | some t => .trap t
    | none =>
      match c.w.lock.filter (fun k => k.va == r.base) with
      | none => .trap { cause := causeLockMisuse, addr := r.base }
      | some k =>
        c.placed s r.base (fun p _ =>
          let s := { s with part := p }
          if !s.part.quietOf c.ref then .hold 13
          else
            match s.part.beginRelease c.ref c.pc 3 with
            | none => .hold 13
            | some p =>
              let mark (z : Core) : Core :=
                { z with releases := z.releases.modify (z.releases.length - 1) (fun q => { q with unlock := some (c.ref, k) }) }
              let p := (p.onCore c.ref.core mark).onWarp c.ref (fun w => { w with release := none, lock := none })
              .done { s with part := p } (fun _ => c.next))

/-! ### The instructions -/

/-- LOCK, R146. -/
def execLock (f : Base) (x : Ext) (s : State) : Out :=
  issue ⟨.lock, f, .long x⟩ s (bodyLock f x)

/-- UNLOCK, R148. -/
def execUnlock (f : Base) (x : Ext) (s : State) : Out :=
  issue ⟨.unlock, f, .long x⟩ s (bodyUnlock f x)

end Sys2Proof.Machine
end

