-- ==== Sys2Proof/Machine/WarpEvents.lean ====
section
/-! DEFINITION. What comes about in a resident warp between its issues: commits, expiries, promotion and demotion,
and the delivery of queued traps (R50, R52, R54, R276, R300, R335 to R340). -/

namespace Sys2Proof.Machine

/-! ### RESULT_COMMIT, GAP_ELAPSED, PASS_OVER_LIMIT, SLEEP_EXPIRY -/

/-- An entry may commit: on the herd a fixed-latency one at its cycle, a variable-latency one as far as its values
have returned; on the sprinter they commit at retirement, but what another warp wrote. -/
def Pend.ready (e : Pend) (now : Nat) (w : Warp) : Bool :=
  match e.due with
  | some d => decide (d ≤ now) && w.sprint.isNone
  | none => (w.sprint.isNone || e.foreign) && (e.lanes.any PendLane.known || e.lanes.isEmpty)

/-- RESULT_COMMIT, R54: an outstanding write commits. -/
def execResultCommit (w : WarpRef) (entry : Nat) (s : State) : Out :=
  .next (match s.part.wg? w.core w.slot, s.part.warp? w with
    | some g, some x =>
      if x.pend.any (fun e => e.id == entry && e.ready s.part.now x) then
        { s with part := s.part.commitResults (s.part.tbaseOf g) w [entry] }
      else s
    | _, _ => s)

/-- GAP_ELAPSED, R52: the interval is over and the warp may issue. -/
def execGapElapsed (w : WarpRef) (s : State) : Out :=
  .next { s with part := s.part.onWarp w (fun x => if x.gapEnd ≤ s.part.now then { x with gapEnd := 0 } else x) }

/-- PASS_OVER_LIMIT, R13: the next turn is an issue of the warp, which goes to the group passed over. -/
def execPassOverLimit (w : WarpRef) (s : State) : Out :=
  let due := match s.part.warp? w with
    | none => false
    | some x => x.threads.any (fun t => t.isReady && decide (passLimit ≤ t.passed))
  .next (if due then { s with part := { s.part with sched := .issue w :: s.part.sched } } else s)

/-- A sleep that has run out, in the thread's own state or in the one recorded for it. -/
def TState.expire (now : Nat) : TState → TState
  | .live (.asleep t) => if t ≤ now then .live .ready else .live (.asleep t)
  | .halted (.asleep t) c => if t ≤ now then .halted .ready c else .halted (.asleep t) c
  | st => st

def Thread.expire (now : Nat) (t : Thread) : Thread :=
  { t with st := t.st.expire now, saved := t.saved.map (fun p => (p.1, p.2.expire now)) }

/-- SLEEP_EXPIRY, R157: the thread goes on at its next instruction. -/
def execSleepExpiry (w : WarpRef) (lane : Nat) (s : State) : Out :=
  .next { s with part := s.part.onWarp w (fun x => x.onLane lane (Thread.expire s.part.now)) }

/-! ### EMPTY_TIMEOUT, R135, R300 -/

def emptyLimit : Nat := 2 ^ 20

/-- The trap of a warp that has waited too long on empty lines, at the waiting instruction. -/
def Warp.timedOut (w : Warp) : Option TrapRec :=
  match w.onLines with
  | none => none
  | some (pc, lanes, line) =>
    if w.emptyTimer < emptyLimit || w.anyHalted || w.answer.isSome then none
    else some { imp := false, cause := causeEmptyTimeout, lanes := maskOf lanes, epc := pc, addr := 128 * line, info0 := 0, info1 := 0 }

/-- The lowest-numbered warp of a workgroup whose wait has run out, whose trap comes first (R279). -/
def Wg.timedOut (g : Wg) : Option (Nat × TrapRec) :=
  if g.dead.isSome || g.swapping.isSome then none
  else g.warps.zipIdx.findSome? (fun q => q.1.timedOut.map (fun t => (q.2, t)))

/-- EMPTY_TIMEOUT: a precise trap of the warps of a workgroup whose wait has run out, one after the other. -/
def execEmptyTimeout (w : WarpRef) (s : State) : Out :=
  .next { s with part := s.part.onWg w.core w.slot (fun g => match g.timedOut with
    | none => g
    | some (i, t) => g.takeTrap (s.part.tbaseOf g) i t) }

/-! ### Promotion, R337 to R339 -/

def Core.ppolBit (k : Core) (i : Nat) : Bool := field k.ppol i i == 1
def Core.barWait (k : Core) : Nat := 16 * max 1 (field k.ppol 15 8)
def Core.quantum (k : Core) : Nat := 16 * field k.ppol 29 16

/-- The workgroups resident on a core with their slots. -/
def Core.residents (k : Core) : List (Nat × Wg) :=
  k.slots.zipIdx.filterMap (fun q => q.1.map (fun g => (q.2, g)))

/-- The warp of a workgroup that alone keeps a barrier waiting, some thread having been parked at it long enough. -/
def Wg.lastAt (g : Wg) (now wait id : Nat) : Option Nat :=
  let long := g.warps.any (fun w => w.threads.any (fun t => match t.st with
    | .live (.parked (.bar i _)) => i == id && decide (t.since + wait ≤ now)
    | _ => false))
  let b := nth g.bars id Barrier.start
  match (g.warps.zipIdx.filter (fun q => !b.warpArrived q.2 q.1)).map (·.2) with
  | [i] => if long then some i else none
  | _ => none

/-- The best enabled reason a warp has to be promoted, R339. -/
def Part.bestReason (p : Part) (r : WarpRef) : Option Nat :=
  match p.core? r.core, p.wg? r.core r.slot, p.warp? r with
  | some k, some g, some w =>
    let tail :=
      (match p.launch? g.launch with
        | none => false
        | some l =>
          (l.noMore || decide (l.total ≤ l.placed.length)) && !p.cox.swapped.any (fun x => x.launch == g.launch)) &&
      decide (((k.residents.flatMap (fun q => q.2.warps)).filter (fun w => !w.finished)).length < field k.ppol 7 5)
    if k.ppolBit 1 then none
    else if k.ppolBit 2 && (w.lock.isSome || k.releases.any (fun x => (x.unlock.map (·.1)) == some r)) then some 1
    else if k.ppolBit 3 && (List.range 16).any (fun b => g.lastAt p.now k.barWait b == some r.warp) then some 2
    else if k.ppolBit 4 && tail then some 3
    else none
  | _, _, _ => none

/-- Warps of a core. -/
def Core.warpRefs (k : Core) (core : Nat) : List WarpRef :=
  k.residents.flatMap (fun q => (List.range q.2.warps.length).map (fun i => ⟨core, q.1, i⟩))

def Part.promoted (p : Part) (core : Nat) : List WarpRef :=
  match p.core? core with
  | none => []
  | some k => (k.warpRefs core).filter (fun r => ((p.warp? r).bind (·.sprint)).isSome)

/-- Begin or end the candidacy of a warp with its reasons. -/
def Part.setCandidate (p : Part) (r : WarpRef) : Part :=
  let best := p.bestReason r
  p.onWarp r (fun w => { w with candidate := match best, w.candidate with
    | none, _ => none
    | some b, some (since, _) => some (since, b)
    | some b, none => some (p.now, b) })

/-- A candidate comes before another: a better rank, or the same rank and an earlier candidacy. -/
def sooner (a b : Nat × Nat) : Bool :=
  decide (a.2 < b.2) || (a.2 == b.2 && decide (a.1 < b.1))

/-- Candidates of a core that wait for a slot. -/
def Part.candidates (p : Part) (core : Nat) : List (WarpRef × Nat × Nat) :=
  match p.core? core with
  | none => []
  | some k => (k.warpRefs core).filterMap (fun r => match p.warp? r with
    | none => none
    | some w => if w.sprint.isSome || w.anyHalted || w.finished then none
      else (p.bestReason r).map (fun b => (r, (w.candidate.map (·.1)).getD p.now, b)))

/-- BARWAIT_EXPIRY, R339: the warps of the waiting thread's workgroup are considered again. -/
def execBarwaitExpiry (w : WarpRef) (s : State) : Out :=
  let n := match s.part.wg? w.core w.slot with
    | none => 0
    | some g => g.warps.length
  .next { s with part := (List.range n).foldl (fun p i => p.setCandidate ⟨w.core, w.slot, i⟩) s.part }

/-- Other candidates that come before a warp and may be promoted now, R339: nothing of them is outstanding. -/
def Part.ahead (p : Part) (w : WarpRef) (c : Nat × Nat) : Nat :=
  ((p.candidates w.core).filter (fun q => q.1 != w && sooner q.2 c && ((p.warp? q.1).map (fun x => x.pend.isEmpty)).getD false)).length

/-- A warp is promoted, R337, R339, where it is a candidate without an outstanding write, and slots are free beyond those that go
to candidates before it. -/
def Part.promote (p : Part) (w : WarpRef) : Part :=
  let p := p.setCandidate w
  match p.warp? w with
  | none => p
  | some x =>
    match x.candidate with
    | none => p
    | some c =>
      if decide ((p.promoted w.core).length + p.ahead w c < 4) && x.pend.isEmpty && x.sprint.isNone && !x.anyHalted && !x.finished then
        (p.onWarp w (fun x => { x with sprint := some (p.now, c.2), kPark := false })).onCore w.core
          (fun k => { k with promo := modifyNth k.promo (c.2 - 1) (fun n => n + 1) })
      else p

/-- PROMOTION, R337, R339. -/
def execPromotion (w : WarpRef) (s : State) : Out := .next { s with part := s.part.promote w }

/-- A warp that has been granted a lock is promoted before its next issue, where that reason is enabled, a slot is free and
nothing of it is outstanding (R414). -/
def Part.promoteHolder (p : Part) (w : WarpRef) : Part := if p.bestReason w = some 1 then p.promote w else p

/-- A warp that holds a lock is to be promoted before it issues. -/
def Part.holderDue (p : Part) (w : WarpRef) : Bool :=
  let fast (p : Part) : Bool := ((p.warp? w).bind (·.sprint)).isSome
  !fast p && fast (p.promoteHolder w)

/-- The quantum of a promoted warp has expired and a candidate is to have its slot, R339: the cycle since which it is
promoted and its best reason. -/
def Part.expired (p : Part) (r : WarpRef) : Option (Nat × Nat) :=
  match p.core? r.core, (p.warp? r).bind (·.sprint) with
  | some k, some (since, _) =>
    let best := (p.bestReason r).getD 4
    let full := decide (4 ≤ (p.promoted r.core).length)
    let wanted := (p.candidates r.core).any (fun q => decide (q.2.2 ≤ best))
    if k.quantum != 0 && decide (since + k.quantum ≤ p.now) && full && wanted then some (since, best) else none
  | _, _ => none

/-- QUANTUM_EXPIRY, R339: the slot goes to a candidate of an equal or better rank; of several warps the one promoted longest
gives up its slot. -/
def execQuantumExpiry (w : WarpRef) (s : State) : Out :=
  .next (match s.part.expired w with
    | none => s
    | some (since, best) =>
      if (s.part.promoted w.core).any (fun r => ((s.part.expired r).map (fun q => decide (q.1 < since))).getD false) then s
      else
        let p := s.part.onWarp w (fun x => { x.demote with candidate := some (s.part.now, best) })
        { s with part := p.onCore w.core (fun k => { k with demo := modifyNth k.demo 1 (fun n => n + 1) }) })

/-- The oldest outstanding writes of a promoted warp that may retire now, in program order. -/
def Warp.retiring (w : Warp) (n : Nat) : List Nat :=
  ((w.window.takeWhile (fun e => e.due.isSome || e.lanes.all PendLane.known)).map (·.id)).take n

/-- A warp in its skid has retired some instructions: it stops after three (R279). -/
def Warp.skidRetired (w : Warp) (n : Nat) : Warp :=
  match w.skid with
  | none => w
  | some k =>
    if skidLimit ≤ k.issued + n then w.stopSkid k.by_ (k.issued + n) else { w with skid := some { k with issued := k.issued + n } }

/-- Instructions of a warp that may still retire before it stops in its skid. -/
def Warp.skidLeft (w : Warp) : Nat := (w.skid.map (fun k => skidLimit - k.issued)).getD 2

/-- SPRINTER_RETIRE, R337: up to two instructions of the core in a cycle, in program order of the warp; in its skid no more than
three in all. -/
def execSprinterRetire (w : WarpRef) (s : State) : Out :=
  .next (match s.part.core? w.core, s.part.wg? w.core w.slot, s.part.warp? w with
    | some k, some g, some x =>
      let ids := x.retiring (min (2 - k.retired) x.skidLeft)
      let p := (s.part.commitResults (s.part.tbaseOf g) w ids).onCore w.core (fun k => { k with retired := k.retired + ids.length })
      { s with part := (p.onWarp w (fun x => x.skidRetired ids.length)).tellSkid w }
    | _, _, _ => s)

/-! ### TRAP_DELIVERY, R274, R276 -/

/-- The warp that receives a trap queued to warp i: itself, or the lowest warp that is not exited. -/
def Wg.receiver (g : Wg) (i : Nat) : Option Nat :=
  match g.warps[i]? with
  | none => none
  | some w => if w.finished then g.lowestLive else some i

/-- A warp at an issue boundary in user mode. -/
def Warp.canTakeTrap (w : Warp) : Bool := !w.trapMode && !w.anyHalted && !w.finished && w.answer.isNone && w.skid.isNone &&
  w.pend.all (fun e => e.raised.isEmpty)

/-- TRAP_DELIVERY: the oldest queued trap of a warp at an issue boundary. Entries of a warp that has exited move to
the lowest live one. -/
def execTrapDelivery (w : WarpRef) (s : State) : Out :=
  let go (g : Wg) : Wg :=
    match g.warps[w.warp]?, g.receiver w.warp with
    | some x, some j =>
      if j = w.warp then
        (if x.canTakeTrap && g.dead.isNone && g.swapping.isNone then g.deliverNext (s.part.tbaseOf g) w.warp else g)
      else
        x.tqueue.foldl (fun g r => g.onWarp j (fun y => y.enqueueTrap r)) (g.onWarp w.warp (fun y => { y with tqueue := [] }))
    | _, _ => g
  .next { s with part := s.part.onWg w.core w.slot go }

/-! ### A core cycle, R300, R339, R340 -/

/-- Bucket of EHIST for a number of warps, R231. -/
def ehistBucket (e : Nat) : Nat :=
  if e ≤ 3 then e else if e ≤ 5 then 4 else if e ≤ 8 then 5 else if e ≤ 16 then 6 else if e ≤ 32 then 7 else 8

/-- A warp may issue now (R335). -/
def Warp.eligible (w : Warp) (now : Nat) : Bool :=
  w.nextPc.isSome && decide (w.gapEnd ≤ now) && !w.kPark

/-- A warp of a workgroup may issue now: while others have yet to stop at a halt signal, only those others (R274). -/
def Wg.mayIssue (g : Wg) (w : Warp) (now : Nat) : Bool :=
  w.eligible now && (w.skid.isSome || !g.skidding)

/-- Some thread of a warp waits as told. -/
def Warp.waits (w : Warp) (f : WaitFor → Bool) : Bool :=
  w.threads.any (fun t => match t.st with
    | .live (.parked p) => f p
    | _ => false)

/-- The stall reason of a warp of a workgroup, R340. The delivery of a trap is in progress while other warps have yet to stop. -/
def Wg.stallReason (g : Wg) (w : Warp) (now : Nat) : Nat :=
  if w.anyHalted || (g.skidding && w.skid.isNone) then 1
  else if w.waits (fun p => match p with | .lines _ _ _ => true | _ => false) then 2
  else if w.waits (fun p => match p with | .bar _ _ => true | _ => false) then 3
  else if w.waits WaitFor.isConv then 4
  else if w.waits (fun p => match p with | .catchStep _ => true | _ => false) then 5
  else if w.waits (fun p => p == .lock) then 6
  else if w.waits (fun p => match p with | .timeline => true | .phase => true | .counter _ _ _ _ => true | _ => false) then 7
  else if w.threads.any (fun t => match t.st with | .live (.asleep _) => true | _ => false) then 8
  else if w.kPark then 9
  else
    match w.holdWhy with
    | some r => r
    | none => if now < w.gapEnd then 10 else if w.waits (fun _ => true) then 12 else 15

/-- The oldest resident warp of a core: the earliest placed workgroup with a live warp, then its lowest one. -/
def Core.oldest (k : Core) : Option (Wg × Warp) :=
  let rs := (k.residents.map (·.2)).filter (fun g => g.lowestLive.isSome)
  match minList? (rs.map (·.placed)) with
  | none => none
  | some t =>
    match rs.find? (fun g => g.placed == t) with
    | none => none
    | some g => (g.lowestLive.bind (fun i => g.warps[i]?)).map (fun w => (g, w))

def satInc64 (n : Nat) : Nat := min (2 ^ 64 - 1) (n + 1)

/-- Number of warps able to issue in a cycle, R340: those that have issued in it or still may. -/
def Core.eligibleCount (k : Core) (now : Nat) : Nat :=
  (k.residents.flatMap (fun q => q.2.warps.zipIdx.filter (fun w => k.went.contains (q.1, w.2) || (q.2.dead.isNone && q.2.swapping.isNone && q.2.mayIssue w.1 now)))).length

/-- Stall reason of a cycle, R340. -/
def Core.stallNow (k : Core) (now : Nat) : Nat := (k.oldest.map (fun q => q.1.stallReason q.2 now)).getD 0

/-- Count a cycle in EHIST and STALL. -/
def Core.profile (k : Core) (now : Nat) : Core :=
  if !k.pctl then k
  else
    let e := k.eligibleCount now
    let k := { k with ehist := modifyNth k.ehist (ehistBucket e) satInc64 }
    if e != 0 then k else { k with stall := modifyNth k.stall (k.stallNow now) satInc64 }

/-- A cycle of a warp in its skid: it stops within 32 cycles of the signal, R279. -/
def Warp.ageSkid (w : Warp) : Warp :=
  match w.skid with
  | none => w
  | some k => if k.age + 1 ≥ skidCycles then w.stopSkid k.by_ k.issued else { w with skid := some { k with age := k.age + 1 } }

/-- What a cycle does in a warp: fixed-latency results of the herd commit, a skid runs on, and the empty-wait timer
counts. -/
def Warp.cycle (now : Nat) (w : Warp) : Warp :=
  let w := (if w.sprint.isSome then w else w.commitDue now).ageSkid
  if w.onLines.isSome && !w.anyHalted then { w with emptyTimer := w.emptyTimer + 1 } else w

def Core.cycle (now : Nat) (k : Core) : Core :=
  let k := k.profile (now - 1)
  { k with slots := k.slots.map (Option.map (fun g => { g with warps := g.warps.map (Warp.cycle now) })), pipes := (0, 0), went := [], retired := 0,
           oldPreds := none }

/-- Promoted warps whose reason has ended return to the herd, R339. -/
def Part.endPromotions (p : Part) (core : Nat) : Part :=
  (p.promoted core).foldl (fun p r =>
    match p.bestReason r with
    | some _ => p
    | none => (p.onWarp r (fun w => { w.demote with candidate := none })).onCore core
        (fun k => { k with demo := modifyNth k.demo 0 (fun n => n + 1) })) p

/-- Cores that hold a workgroup. -/
def Part.busyCores (p : Part) : List Nat :=
  (p.cores.zipIdx.filter (fun q => q.1.slots.any Option.isSome)).map (·.2)

/-- Warps in their skid. -/
def Part.skids (p : Part) : List WarpRef :=
  p.busyCores.flatMap (fun c => match p.core? c with
    | none => []
    | some k => (k.warpRefs c).filter (fun r => ((p.warp? r).map (fun w => w.skid.isSome)).getD false))

/-- The results of herd warps of a core that are due and that a format predicate is to see commit, R54, R375. -/
def Part.commitRaised (p : Part) (core : Nat) : Part :=
  match p.core? core with
  | none => p
  | some k => (k.warpRefs core).foldl (fun p r => match p.wg? r.core r.slot, p.warp? r with
      | some g, some w =>
        let due (e : Pend) : Bool := !e.raised.isEmpty && (e.due.map (fun d => decide (d ≤ p.now))).getD false
        let ids := if w.sprint.isSome then [] else (w.pend.filter due).map (·.id)
        if ids.isEmpty then p else p.commitResults (p.tbaseOf g) r ids
      | _, _ => p) p

/-- One core cycle passes. -/
def Part.cycle (p : Part) : Part :=
  let now := p.now + 1
  let skids := p.skids
  let p := p.takeEntries
  let p := p.busyCores.foldl Part.commitRaised { p with now := now }
  let p := skids.foldl Part.tellSkid { p with answers := [], msix := [], cores := p.cores.map (Core.cycle now) }
  p.busyCores.foldl (fun p c =>
    let p := p.endPromotions c
    match p.core? c with
    | none => p
    | some k => (k.warpRefs c).foldl Part.setCandidate p) p

end Sys2Proof.Machine
end

