-- ==== Sys2Proof/Machine/MemEvents.lean ====
section
/-! DEFINITION. What comes about in the L1s, the slices and the lock tables: copy-back, releases, delivery between the
dies, fills, atomics at home, discards, flushes and locks (R259 to R263, R301 to R314), and the replay of the operand
log (R283, R444). -/

namespace Sys2Proof.Machine

/-- Change every resident warp. -/
def Part.onWarps (p : Part) (f : Warp → Warp) : Part :=
  { p with cores := p.cores.map (fun k =>
      { k with slots := k.slots.map (Option.map (fun g => { g with warps := g.warps.map f })) }) }

/-- Threads that wait on a barrier phase look again. -/
def Part.wakePhase (p : Part) : Part :=
  p.onWarps (fun w => { w with threads := w.threads.map (fun t => t.wake (fun c => c == .phase)) })

/-! ### COPY_BACK, RELEASE_COMPLETE, R303 to R305 -/

/-- A packet may be performed: it is its turn at the slice (R360, R362), the core's earlier writes of the line have been applied
at that die (R145), so has what the core had seen before it left (R257, R258), and the die's outgoing writes are not held
(R260). -/
def Part.packetReady (p : Part) (core : Nat) (q : Packet) : Bool :=
  let d := q.die core
  (if q.direct.isSome then p.arrives core q.id d q.line q.sent
    else ((p.core? core).map (fun k => k.portClear core q.id d (lineSlice q.line))).getD true)
    && p.ownBefore core q.id d q.line && p.applied d q.need && !p.outgoingFull d

/-- Count a copy-back that its slice has performed. -/
def Part.countApplied (p : Part) (core : Nat) (q : Packet) : Part :=
  if q.direct.isSome then p
  else p.onDie (dieOf core) (fun x => { x with applied := addCount (roundKey core q.round (lineSlice q.line)) 1 x.applied })

/-- The round of a count is one that a release still asks for, or the one at hand. -/
def Part.roundOpen (p : Part) (key : Nat) : Bool :=
  match p.core? (key / 32 % 256) with
  | none => false
  | some k => k.round == key / 8192 || k.releases.any (fun x => x.round == key / 8192)

/-- Count a copy-back that every other die has applied. -/
def Part.countAcked (p : Part) (die key : Nat) : Part :=
  if p.roundOpen key then p.onDie die (fun x => { x with acked := addCount key 1 x.acked }) else p

/-- COPY_BACK: a packet becomes a write of the die that performs it; the releases of its round answer for it, and what the core
reads later comes after it. A line under a forward window in normal service refuses it, and the stores that it comes from queue an
imprecise XLATE (R374). -/
def execCopyBack (core packet : Nat) (s : State) : Out :=
  .next (match (s.part.core? core).bind (fun k => k.packets.find? (fun q => q.id == packet)) with
    | none => s
    | some q =>
      if !s.part.packetReady core q then s
      else
        let d := q.die core
        let key := roundKey core q.round (lineSlice q.line)
        let p := s.part.onCore core (fun k => { k with packets := k.packets.filter (fun x => x.id != packet) })
        let p := p.countApplied core q
        if p.refused q.line then
          let p := p.sliceViolation (128 * q.line) core 2
          let p := if q.direct.isSome then p else p.countAcked (dieOf core) key
          { s with part := q.origins.foldl (fun p o =>
              p.queueTrap o.w (impTrap causeXlate o.va (word o.lanes) (word o.pc))) p }
        else
          let p := p.originate d q.line q.bytes (some (core, q.id)) (if q.direct.isNone then some key else none)
          let seen (k : Core) : Core := if d = dieOf core then k else k.see (p.die d).vc
          { s with part := (p.onCore core (fun k => (seen k).owe q.round (p.die d).vc)).wakePhase })

/-- The lock entry of an address frees its holder; an entry without waiters leaves the table (R306). -/
def Die.freeLock (x : Die) (w : WarpRef) (addr : Nat) : Die :=
  let mine (e : LockEntry) : Bool := e.addr == addr && e.holder == some w
  let freed := x.locks.map (fun e => if mine e then { e with holder := none } else e)
  { x with locks := freed.filter (fun e => e.holder.isSome || !e.waiting.isEmpty) }

/-- A message that frees a lock of a peer leaves on its link. -/
def Part.freeFar (p : Part) (w : WarpRef) (k : LockRef) : Part :=
  if (p.portOf k.loc).isNone then p.linkDown w k.va
  else p.sendRemote { remoteReq 7 k.loc w 0 with va := k.va, port := p.portOf k.loc, op := 2 }

/-- The message of an UNLOCK leaves for the home of its lock, here or in a peer part. -/
def Part.freeLock (p : Part) (w : WarpRef) (k : LockRef) : Part :=
  if isDevice k.loc then
    let q : LockSend := ⟨w, k.loc, false, [], ((p.core? w.core).map (·.nextId)).getD 0, p.nextCommand, true⟩
    { p.onDie (homeDie k.loc) (fun x => { x with lockSends := x.lockSends ++ [q] }) with nextCommand := p.nextCommand + 1 }
  else p.freeFar w k

/-- A lock is lost without a release: its entry frees its holder at once (R277, R307). -/
def Part.forfeitLock (p : Part) (w : WarpRef) (k : LockRef) : Part :=
  if isDevice k.loc then p.onDie (homeDie k.loc) (fun x => x.freeLock w k.loc) else p.freeFar w k

/-- RELEASE_COMPLETE: the instruction that waits for it goes on; the message that frees an UNLOCK's lock leaves (R148, R305). -/
def execReleaseComplete (core release : Nat) (s : State) : Out :=
  .next (match s.part.core? core with
    | none => s
    | some k =>
      match k.releases.find? (fun x => x.id == release) with
      | none => s
      | some x =>
        if !s.part.roundDone core x then s
        else
          let mark (w : Warp) : Warp :=
            match w.release with
            | none => w
            | some r => if r.release = release then { w with release := some { r with done := true } } else w
          let p := s.part.onCore core (fun k =>
            { k with releases := k.releases.filter (fun y => y.id != release),
                     slots := k.slots.map (Option.map (fun g => { g with warps := g.warps.map mark })) })
          let drop (t : List (Nat × Nat)) : List (Nat × Nat) := x.sent.foldl (fun t q => eraseKey (roundKey core x.round q.1) t) t
          let p := p.onDie (dieOf core) (fun d => { d with applied := drop d.applied, acked := drop d.acked })
          match x.unlock with
          | none => { s with part := p }
          | some (w, l) => { s with part := p.freeLock w l })

/-! ### REMOTE_WRITE_APPLY, CLOCK_NOTICE, R260, R310 -/

/-- Deliver one update of a die's inbox when the clocks allow. -/
def Part.deliver (p : Part) (die item : Nat) (notice : Bool) : Part :=
  match (p.die die).inbox.find? (fun u => u.id == item) with
  | none => p
  | some u =>
    if u.notice != notice || !p.deliverable die u then p
    else
      let home := homeDie (u.line * 128) == die
      let p := p.onDie die (fun x => x.receive home (p.inWindow u.line) u)
      let p := p.sendHeld
      match u.ack with
      | none => p
      | some key => if p.dies.any (fun x => x.inbox.any (fun v => v.id == u.id)) then p else p.countAcked u.stamp.die key

/-- REMOTE_WRITE_APPLY: a write with data is applied at a die. -/
def execRemoteWriteApply (die item : Nat) (s : State) : Out :=
  .next { s with part := (s.part.deliver die item false).wakePhase }

/-- CLOCK_NOTICE: the clock of a write is applied, and a held copy turns stale. -/
def execClockNotice (die item : Nat) (s : State) : Out :=
  .next { s with part := s.part.deliver die item true }

/-! ### REPLICA_FILL, REPLICA_DROP, R309 -/

/-- The die has applied a write of the line that its home has not. -/
def Part.aheadOfHome (p : Part) (die line : Nat) : Bool :=
  let h := homeDie (line * 128)
  (p.die h).inbox.any (fun u => u.line == line &&
    serialLe (nth u.stamp.vc u.stamp.die 0) (nth (p.die die).vc u.stamp.die 0))

/-- The place among the messages between dies of the first request of a core of the die for the line; none where no core asks. -/
def Part.wanted (p : Part) (die line : Nat) : Option Nat :=
  minList? ((List.range 64).flatMap (fun i => match p.core? (64 * die + i) with
    | none => []
    | some k => (k.fills.filter (fun f => f.line == line)).map (·.sent)))

/-- Die `die` has applied the clock of a write of the line that its home has not, and has not kept the bytes either. -/
def Part.lacking (p : Part) (die line : Nat) : Bool :=
  let stamps := ((p.copy? die line).map (·.stamps)).getD []
  let kept (u : Update) (o : Nat) : Bool := match lookupKey o stamps with
    | none => false
    | some t => !u.stamp.replaces t
  (p.die (homeDie (line * 128))).inbox.any (fun u => u.line == line &&
    serialLe (nth u.stamp.vc u.stamp.die 0) (nth (p.die die).vc u.stamp.die 0) && !u.bytes.all (fun b => kept u b.1))

/-- A fill from the home may be installed: the die lacks a good copy, has applied the home's clock, and misses no write that it
has applied itself (R258). -/
def Part.fillable (p : Part) (die line : Nat) : Bool :=
  let h := homeDie (line * 128)
  let lacks := match p.copy? die line with
    | none => true
    | some c => c.stale
  die != h && lacks && vcLe (p.die h).vc (p.die die).vc && !p.lacking die line

/-- The home's contents of a line with the stamps of its bytes, under the writes that the die has applied and that are later
than those. -/
def State.filled (s : State) (die line : Nat) (sharers : List Nat) : Copy :=
  let home := ((s.part.copy? (homeDie (line * 128)) line).map (·.stamps)).getD []
  let base : Copy := { Copy.empty with
    data := (s.homeRead (line * 128) 128).zipIdx.map (fun b => (b.2, b.1)), stamps := home, sharers := sharers }
  match s.part.copy? die line with
  | none => base
  | some c =>
    let later (o : Nat) (t : Stamp) : Bool := match lookupKey o home with
      | none => true
      | some h => t.replaces h
    (c.stamps.filter (fun q => later q.1 q.2)).foldl (fun x q =>
      { x with data := insertKey q.1 ((lookupKey q.1 c.data).getD 0) x.data, stamps := insertKey q.1 q.2 x.stamps,
               dirty := x.dirty ||| 2 ^ (q.1 / 4) }) base

/-- REPLICA_FILL: a die fetches a line from its home, which records the die in the line's sharer set; the request follows what the
die sent there before it (R362). -/
def execReplicaFill (die line : Nat) (s : State) : Out :=
  let h := homeDie (line * 128)
  let may := decide (die < 4) && isDevice (line * 128) && s.part.fillable die line && (s.part.wanted die line).any (s.part.crossClear die h)
  if !may then .next s
  else
    let known := s.part.sharersAt h line
    let sharers := if known.contains die then known else known ++ [die]
    let copy := s.filled die line sharers
    let p := (s.part.serve line).onDie h (fun x => x.onCopy line (fun c => { c with sharers := sharers }))
    .next { s with part := p.onDie die (fun x => { x.setPoison line (s.part.poisoned line) with copies := insertKey line copy x.copies }) }

/-- REPLICA_DROP: a die drops a copy whose writes the home has too. -/
def execReplicaDrop (die line : Nat) (s : State) : Out :=
  if homeDie (line * 128) = die || s.part.aheadOfHome die line then .next s
  else .next { s with part := s.part.onDie die (fun x => { x.setPoison line false with copies := eraseKey line x.copies }) }

/-! ### L1_SECTOR_FILL, R267, R302, R312, R406 -/

/-- Bytes of a line that outstanding loads of a warp await, by entry and lane. -/
def Warp.awaiting (w : Warp) (line : Nat) : List (Pend × PendLane × List ByteSlot) :=
  w.pend.flatMap (fun e => e.lanes.filterMap (fun l =>
    let bs := l.bytes.filter (fun b => b.got.isNone && (b.loc.map lineOf) == some line)
    if bs.isEmpty then none else some (e, l, bs)))

/-- The lanes that await a poisoned line are closed with an imprecise POISON per instruction. What the sprinter has performed
early is discarded instead, and issues again: it takes no trap before those before it have retired (R150). -/
def Part.poisonLoads (p : Part) (core line : Nat) : Part :=
  match p.core? core with
  | none => p
  | some k =>
    (k.warpRefs core).foldl (fun p r =>
      match p.warp? r with
      | none => p
      | some w =>
        let ws := w.awaiting line
        if ws.any (fun q => !q.1.firm && (w.window.drop 1).any (fun e => e.id == q.1.id)) then p.onWarp r Warp.discard
        else ((ws.map (fun q => q.1.id)).eraseDups).foldl (fun p id =>
          let mine := ws.filter (fun q => q.1.id == id)
          let va := (minList? (mine.flatMap (fun q => q.2.2.map (·.va)))).getD 0 / 128 * 128
          p.abandonLanes r (some id) (mine.map (fun q => q.2.1.lane)) causePoison va ((mine.map (fun q => q.1.pc)).headD 0)) p) p

/-- The stop of a watch at a replayed access, R444. -/
def Part.takeLate (p : Part) (tbase : Nat) (r : WarpRef) (st : Stop) : Part :=
  match st.action with
  | 2 => p.queueTrap r { st.record [] 0 with imp := true, lanes := 0 }
  | _ => (p.takeStop tbase r st [] 0).onWarp r Warp.endSkid

/-- Count the matches of a replayed access, and take the action they lead to. -/
def Part.lateMatches (p : Part) (r : WarpRef) (lanes : List Nat) (ms : List Match) : Part :=
  match p.wg? r.core r.slot with
  | none => p
  | some g =>
    match p.evalMatches r lanes 0 ms with
    | (p, none) => p
    | (p, some st) => p.takeLate (p.tbaseOf g) r st

/-- The same under the predicates of its issue (R244). -/
def Part.lateWatch (p : Part) (r : WarpRef) (preds : List (Nat × Predicate)) (bit : Nat) (xs : List LaneAccess) : Part :=
  p.lateMatches r (xs.map (·.lane)) (accessMatches preds bit false xs)

/-- The virtual lines that replayed lanes of a load have read in full. -/
def Pend.cameIn (e : Pend) : List Nat :=
  ((e.late.map (fun b => b.2.1 / 128)).eraseDups).filter (fun l =>
    !e.lanes.any (fun x => x.bytes.any (fun b => b.late && b.got.isNone && b.va / 128 == l)))

/-- A load's replayed lanes of one line as watches see them. -/
def Pend.lateAccess (e : Pend) (line : Nat) : List LaneAccess :=
  let mine := e.late.filter (fun b => b.2.1 / 128 == line)
  ((mine.map (·.1)).eraseDups).map (fun l => ⟨l, (mine.filter (fun b => b.1 == l)).map (·.2)⟩)

/-- What replayed lanes of a warp's loads have read is matched, line by line as it is there in full: each line is one access, of the
entry that logged it (R444); with it the flags that its lanes raise. -/
def Part.settleLate (p : Part) (r : WarpRef) : Part :=
  match p.warp? r with
  | none => p
  | some w =>
    let clear (e : Pend) : Pend := { e with late := e.late.filter (fun b => !e.cameIn.contains (b.2.1 / 128)), raised := [] }
    let came (e : Pend) : Bool := e.due.isNone && !(e.cameIn.isEmpty && e.raised.isEmpty)
    let p := p.onWarp r (fun w => { w with pend := w.pend.map (fun e => if came e then clear e else e) })
    (w.pend.filter came).foldl (fun p e =>
      let p := e.cameIn.foldl (fun p l => p.lateWatch r e.watch 0 (e.lateAccess l)) p
      p.lateMatches r (e.raised.map (·.1)) (formatMatches e.watch e.pc e.raised)) p

/-- Fill the outstanding loads of a core with the bytes of one line, then match the replayed ones. -/
def Part.fillLine (p : Part) (core line : Nat) : Part :=
  match p.core? core with
  | none => p
  | some k =>
    let f (a : Nat) : Option Byte := if lineOf a = line then k.l1Byte a else none
    (k.warpRefs core).foldl Part.settleLate (p.onCore core (fun k => k.fillLoads f))

/-- Fill a lane of an outstanding load with the bytes of an answer, then match what it replays. -/
def Part.fillRequest (p : Part) (r : WarpRef) (id lane : Nat) (f : Nat → Option Byte) : Part :=
  (p.onWarp r (fun w => w.fillLane id lane f)).settleLate r

/-- A request of a core for a sector can be served by its die: it is its turn at the slice (R360), and what the core has seen, and
sent of the line before it, has come there (R145). -/
def State.fillReady (s : State) (core line sector : Nat) : Bool :=
  match s.part.core? core with
  | none => false
  | some k =>
    let d := dieOf core
    (k.fill? line sector).any (fun f => k.portClear core f.id d (lineSlice line) && !k.packets.any (fun q => q.line == line && decide (q.id < f.id)))
      && s.part.applied d k.seen && (s.part.poisonedAt d line || (s.dieByte d (line * 128)).isSome)

/-- Bytes of a line that the core has sent after its request for a sector: they stand over what the fill brings (R302). -/
def Core.sentOver (k : Core) (line sector : Nat) : List (Nat × Byte) :=
  match k.fill? line sector with
  | none => []
  | some f => (k.packets.filter (fun q => q.line == line && decide (f.id < q.id))).flatMap (·.bytes)

/-- A byte under those of a list, of which the last counts. -/
def overlaid (bs : List (Nat × Byte)) (o : Nat) (b : Byte) : Byte := (lookupKey o bs.reverse).getD b

/-- L1_SECTOR_FILL: the die's bytes merge under those already written. The first read by the consumer of a forward
window takes the line out of the slice (R312). A request of number 4 ends with the line in the slice. -/
def execL1SectorFill (core line sector : Nat) (s : State) : Out :=
  if !s.fillReady core line sector then .next s
  else
    let d := dieOf core
    let over_ := ((s.part.core? core).map (fun k => k.sentOver line sector)).getD []
    let p := s.part.onCore core (fun k => { k with fills := k.fills.filter (fun f => !(f.line == line && f.sector == sector)) })
    if 4 ≤ sector then .next { s with part := p }
    else if s.part.poisonedAt d line then .next { s with part := p.poisonLoads core line }
    else
      let sectors := if p.consumes core line then [0, 1, 2, 3] else [sector]
      let bytes (i : Nat) : List Byte := (List.range 32).map (fun j =>
        overlaid over_ (32 * i + j) ((s.dieByte d (line * 128 + 32 * i + j)).getD 0))
      let put (k : Core) : Core :=
        let k := k.touch line
        match k.line? line with
        | none => k
        | some x => { k with l1 := insertKey line (sectors.foldl (fun x i => x.fill i (bytes i)) x) k.l1 }
      let p := if homeDie (128 * line) = d then p.serve line else p
      .next { s with part := ((p.onCore core put).fillLine core line).consume core line }

/-! ### ATOMIC_AT_HOME, R137, R262, R263 -/

/-- The request may be performed: it is its turn at the slice (R360, R362), the core's earlier stores to the line are there, and
so is every write of the line that the die has read (R259); at the home, for an acquire, the die has applied the writes
behind the line (R262). -/
def State.atomReady (s : State) (core : Nat) (a : AtomReq) : Bool :=
  match s.part.core? core with
  | none => false
  | some k =>
    let line := a.line
    let d := dieOf core
    let at_ := a.die core
    s.part.arrives core a.id at_ line a.sent && s.part.ownBefore core a.id at_ line &&
      (if a.op = 13 && (a.acquire.map scopeWide) == some false then s.part.applied d k.seen && (s.dieByte d (line * 128)).isSome
       else !s.part.aheadOfHome d line && !s.part.outgoingFull at_ &&
        (a.acquire.isNone || (s.part.homeStamps (line * 128) 128).all (fun st => s.part.applied d st.vc)))

/-- One lane: the state after and the bytes it returns. -/
def State.performLane (s : State) (core : Nat) (a : AtomReq) (l : AtomLane) : State × List Byte :=
  if a.op != 13 then s.atomAt core a.id a.entry a.op l.loc l.operand
  else
    let bs := (List.range l.len).map (fun i => (s.acquireByte core (a.acquire.getD 3) (l.loc + i)).getD 0)
    ({ s with part := s.part.consume core (lineOf l.loc) }, bs)

/-- Give a lane its answer: the words of an atomic, or the bytes of a replayed load. -/
def Part.answer (p : Part) (a : AtomReq) (l : AtomLane) (bs : List Byte) : Part :=
  match a.pend with
  | none => p
  | some id =>
    if a.op != 13 then p.onWarp a.w (fun w => w.answerLane id l.lane (bytesWords bs))
    else p.fillRequest a.w id l.lane (fun b => if l.loc ≤ b then bs[b - l.loc]? else none)

/-- The lowest lane of a request. -/
def AtomReq.first (a : AtomReq) : Option AtomLane :=
  (minList? (a.lanes.map (·.lane))).bind (fun n => a.lanes.find? (fun l => l.lane == n))

/-- The request without some lanes; it is over when none is left. -/
def Core.dropLanes (k : Core) (request : Nat) (ls : List AtomLane) : Core :=
  let rest (b : AtomReq) : AtomReq := if b.id = request then { b with lanes := b.lanes.filter (fun l => !ls.contains l) } else b
  { k with atoms := (k.atoms.map rest).filter (fun b => !b.lanes.isEmpty) }

/-- What later accesses of the core see after a lane: no clean word of the line, the clock of the home, and with the last lane of
an acquire at .CL or wider no clean word at all (R145). -/
def Core.afterAtom (k : Core) (a : AtomReq) (vc : List Nat) : Core :=
  let k := (k.forget a.line).see vc
  if a.lanes.length = 1 && a.acquire.any (fun sc => decide (1 ≤ sc)) then k.acquire else k

/-- ATOMIC_AT_HOME: the lowest lane of a request is performed at its slice, one indivisible step (R137); on a poisoned line the
lanes are abandoned, on one under a forward window in normal service refused. -/
def execAtomicAtHome (core request : Nat) (s : State) : Out :=
  .next (match (s.part.core? core).bind (fun k => k.atoms.find? (fun a => a.id == request)) with
    | none => s
    | some a =>
      match a.first with
      | none => s
      | some l =>
        if !s.atomReady core a then s
        else
          let line := a.line
          let va := ((minList? (a.lanes.map (·.va))).getD 0) / 128 * 128
          let all := (a.lanes.map (·.lane)).eraseDups
          let closed := s.part.onCore core (fun k => k.dropLanes request a.lanes)
          if s.part.poisonedAt (a.die core) line then { s with part := closed.abandonLanes a.w a.pend all causePoison va a.pc }
          else if a.op != 13 && s.part.refused line then
            { s with part := (closed.sliceViolation (128 * line) core 4).abandonLanes a.w a.pend all causeXlate va a.pc }
          else
            let (t, bs) := { s with part := s.part.onCore core (fun k => k.dropLanes request [l]) }.performLane core a l
            let p := t.part.answer a l bs
            { t with part := (p.onCore core (fun k => k.afterAtom a (p.die (a.die core)).vc)).wakePhase })

/-! ### DISCARD_AT_SLICE, FLUSH_COMPLETE, R143, R144, R313, R314 -/

/-- DISCARD_AT_SLICE: the copy of the issuing die becomes what memory holds (R266). -/
def execDiscardAtSlice (core request : Nat) (s : State) : Out :=
  .next (match (s.part.core? core).bind (fun k => (k.discards.find? (fun d => d.1 == request)).map (fun d => (k, d.2.1))) with
    | none => s
    | some (k, line) =>
      let d := dieOf core
      if !k.portClear core request d (lineSlice line) then s
      else
        let p := s.part.onCore core (fun k => { k with discards := k.discards.filter (fun q => q.1 != request) })
        let memory := if homeDie (line * 128) = d then [] else (List.range 128).map (fun i => (i, s.memByte (line * 128 + i)))
        let reset (c : Copy) : Copy := { Copy.empty with data := memory, sharers := c.sharers }
        { s with part := p.onDie d (fun x => if (lookupKey line x.copies).isSome then x.onCopy line reset else x) })

/-- Write a line of its home slice to memory; a line pinned by a forward window stays (R312). -/
def State.writeBack (s : State) (line : Nat) : State :=
  let h := homeDie (line * 128)
  match s.part.copy? h line with
  | none => s
  | some c =>
    if c.pinned || c.data.isEmpty then s
    else
      let clear (x : Die) : Die :=
        { x.onCopy line (fun c => { c with data := [], dirty := 0 }) with clean := if x.clean.contains line then x.clean else x.clean ++ [line] }
      { s with part := s.part.onDie h clear : State }.writeMemory line c.data

/-- A line is no longer held by the slices of a die; the mark of a replica goes with it (R309). -/
def Part.dropCopy (p : Part) (die line : Nat) : Part :=
  if homeDie (line * 128) = die then p.onDie die (fun x => { x with clean := x.clean.filter (· != line) })
  else p.onDie die (fun x => { x.setPoison line false with copies := eraseKey line x.copies })

/-- A slice evicts a line: its home goes to memory, and a line pinned by a forward window is counted (R312); a replica is dropped
(R309): what the die has applied of it and its home has not is on its way there, and the die fetches the line only after that. -/
def State.evictLine (s : State) (die line : Nat) : State :=
  let pinned := ((s.part.copy? die line).map (·.pinned)).getD false
  let free (x : Die) : Die := { x.onCopy line (fun c => { c with pinned := false }) with fwdOvf := x.fwdOvf + 1 }
  let s := if homeDie (line * 128) = die then
      (if pinned then { s with part := s.part.onDie die free : State }.writeBack line else s.writeBack line)
    else s
  { s with part := s.part.dropCopy die line }

/-- Set of a line within its slice: 4 MiB of 128-byte lines in sets of 16, R308. Which bits of the address choose it is a DESIGN
CHOICE (log entry 11). -/
def sliceSet (line : Nat) : Nat := line / 32 % 2048

/-- Lines that the slices of a die hold, home lines and replicas alike (R308). -/
def Die.held (x : Die) : List Nat := ((x.copies.filter (fun c => !c.2.data.isEmpty)).map (·.1) ++ x.clean).eraseDups

/-- Lines of a die in sets that hold more than 16: one of each such set has to leave (R308). -/
def Die.crowded (x : Die) : List Nat :=
  let held := x.held
  if held.length ≤ 16 then []
  else held.filter (fun l => decide (16 < (held.filter (fun m => lineSlice m == lineSlice l && sliceSet m == sliceSet l)).length))

/-- Evict from the sets of a die that hold too much; which line leaves is open (log entry 11). -/
def State.relieve (s : State) (die : Nat) : Nat → State
  | 0 => s
  | n + 1 =>
    match (s.part.die die).crowded with
    | [] => s
    | ls =>
      let i := (Config.freeWord (freeAt s.part.oracle (2 ^ 37))).toNat % ls.length
      let s := s.evictLine die (nth ls i 0)
      State.relieve { s with part := { s.part with oracle := s.part.oracle + 1 } } die n

/-- No set of a slice holds more than its 16 lines (R308). -/
def State.keepWays (s : State) : State :=
  (List.range 4).foldl (fun s d => if (s.part.die d).crowded.isEmpty then s else s.relieve d (s.part.die d).held.length) s

/-- Everything that a walker covers has been applied at the slices it writes: what its core had sent of the lines, and under .DV
at the homes, with every write before the FLUSH (R268, R313). -/
def Part.walked (p : Part) (core : Nat) (w : Walker) : Bool :=
  w.ranges.all (fun r =>
    let home := homeDie (r.1 * 128)
    if w.deep then p.ownBefore core w.last home r.1 && p.applied home w.need
    else ((p.core? core).map (fun k => !k.packets.any (fun q => q.line == r.1 && decide (q.id < w.last)))).getD true)

/-- FLUSH_COMPLETE: the walker is free again; under .DV the covered lines are written to memory. -/
def execFlushComplete (core walker : Nat) (s : State) : Out :=
  .next (match (s.part.core? core).bind (fun k => k.walkers.find? (fun w => w.id == walker)) with
    | none => s
    | some w =>
      if !s.part.walked core w then s
      else
        let s := if w.deep then (w.ranges.map (·.1)).foldl State.writeBack s else s
        { s with part := s.part.onCore core (fun k => { k with walkers := k.walkers.filter (fun x => x.id != walker) }) })

/-! ### Locks, R306, R307 -/

def lockTableSize : Nat := 64

/-- Place of entry i among those of its slice. -/
def Die.lockPlace (x : Die) (i : Nat) (addr : Nat) : Nat :=
  ((x.locks.take i).filter (fun e => sliceOf e.addr == sliceOf addr)).length

/-- The answer to a lock request that came from a peer leaves on its link (R368). -/
def Part.answerPeer (p : Part) (r : WarpRef) (granted : Bool) : Part :=
  if r.core < 256 then p else { p with answers := p.answers ++ [(r, granted)] }

/-- Refuse a TRY: its predicates become false. -/
def Part.refuseTry (p : Part) (r : WarpRef) : Part :=
  (p.answerPeer r false).onWarp r (fun w =>
    let w := match w.lockWait.bind (·.pend) with
      | none => w
      | some id => w.answerAll id [0]
    { w with lockWait := none })

/-- The order of grants: stamp, core, warp. -/
def LockReq.sooner (a b : LockReq) : Bool :=
  decide (a.stamp < b.stamp) || (a.stamp == b.stamp && (decide (a.w.core < b.w.core) ||
    (a.w.core == b.w.core && decide (a.w.warp < b.w.warp))))

def firstReq (rs : List LockReq) : Option LockReq :=
  rs.foldl (fun m r => match m with
    | none => some r
    | some b => if r.sooner b then some r else some b) none

/-- Lines a grant pushes, R307. -/
def pushLimit : Nat := 256

/-- The holder's acquire and the pushed lines. -/
def State.pushLines (s : State) (core : Nat) (ranges : List Nat) : State :=
  let k := (s.part.core? core).getD Core.reset
  let k := (ranges.foldl Core.forget k).acquire
  let push (k : Core) (line : Nat) : Core :=
    if s.part.poisoned line then k
    else
      let k := k.touch line
      let bytes (i : Nat) : List Byte := s.homeRead (line * 128 + 32 * i) 32
      match k.line? line with
      | none => k
      | some x => { k with l1 := insertKey line ((List.range 4).foldl (fun x i => x.fill i (bytes i)) x) k.l1 }
  let k := (ranges.take pushLimit).foldl push k
  let k := (ranges.map (fun l => homeDie (l * 128))).eraseDups.foldl (fun k d => k.see (s.part.die d).vc) k
  { s with part := (ranges.take pushLimit).foldl (fun p l => p.consume core l) (s.part.onCore core (fun _ => k)) }

/-- The warp's side of a grant. -/
def Warp.takeLock (w : Warp) : Warp :=
  match w.lockWait with
  | none => w
  | some q =>
    let w : Warp := { w with lock := some q.ref, threads := w.threads.map (fun (t : Thread) => t.wake (fun c => c == .lock)) }
    match q.pend with
    | none => { w with lockWait := none, lockDone := w.lockDone ++ [{ q with answer := some true }] }
    | some id => { w.answerAll id [1] with lockWait := none }

/-- A request gets the lock: its holder's L1 takes the push (R307). -/
def State.grant (s : State) (die entry : Nat) (e : LockEntry) (q : LockReq) : State :=
  let held : LockEntry := { e with holder := some q.w, waiting := e.waiting.filter (fun r => r.w != q.w) }
  let s := { s with part := s.part.onDie die (fun x => { x with locks := setNth x.locks entry held }) : State }.pushLines q.w.core q.ranges
  { s with part := ((s.part.answerPeer q.w true).onWarp q.w Warp.takeLock).promoteHolder q.w }

/-- LOCK_GRANT: the first request of a free entry within the table is granted, once the holder's own stores to the
guarded lines are at home or still in its L1. -/
def execLockGrant (die entry : Nat) (s : State) : Out :=
  .next (match (s.part.die die).locks[entry]? with
    | none => s
    | some e =>
      match e.holder, firstReq e.waiting with
      | none, some q =>
        let c := q.w.core
        let settled (line : Nat) : Bool :=
          match s.part.core? c with
          | none => true
          | some k => !k.packets.any (fun x => x.line == line) && !s.part.unapplied c (homeDie (line * 128)) line
        if lockTableSize ≤ (s.part.die die).lockPlace entry e.addr || !q.ranges.all settled then s
        else s.grant die entry e q
      | _, _ => s)

/-- A lock request may reach its slice: in its turn, and a TRY once its core's own stores to the guarded lines are at home. -/
def Part.lockArrives (p : Part) (d : Nat) (q : LockSend) : Bool :=
  p.arrives q.w.core q.after d (lineOf q.addr) q.sent &&
    !((p.die d).lockSends.takeWhile (fun y => y.w != q.w)).any (fun y => y.w.core == q.w.core && sliceOf y.addr == sliceOf q.addr) &&
    (!q.tryOnly || q.ranges.all (fun line => p.ownBefore q.w.core q.after (homeDie (line * 128)) line))

/-- LOCK_REQUEST_ARRIVAL: the first message of a warp comes to its slice. A request is stamped and queued; a TRY is answered
against the table as it stands; the message of an UNLOCK frees the lock (R306). -/
def execLockRequestArrival (w : WarpRef) (s : State) : Out :=
  .next (match (List.range 4).findSome? (fun d => ((s.part.die d).lockSends.find? (fun q => q.w == w)).map (fun q => (d, q))) with
    | none => s
    | some (d, q) =>
      if !s.part.lockArrives d q then s
      else
        let p := s.part.onDie d (fun x => { x with lockSends := x.lockSends.eraseP (fun (y : LockSend) => y.w == w) })
        let x := p.die d
        let req : LockReq := ⟨w, p.gtime, q.ranges⟩
        let known := x.locks.any (fun e => e.addr == q.addr)
        let full := decide (lockTableSize ≤ (x.locks.filter (fun e => sliceOf e.addr == sliceOf q.addr)).length)
        let fresh : LockEntry := ⟨q.addr, none, [req]⟩
        let add (p : Part) : Part := p.onDie d (fun x => { x with locks := x.locks ++ [fresh] })
        if q.frees then { s with part := p.onDie d (fun x => x.freeLock w q.addr) }
        else if q.tryOnly then (if known || full then { s with part := p.refuseTry w }
          else { s with part := add p : State }.grant d x.locks.length fresh req)
        else if known then
          let join (e : LockEntry) : LockEntry := if e.addr = q.addr then { e with waiting := e.waiting ++ [req] } else e
          { s with part := p.onDie d (fun x => { x with locks := x.locks.map join }) }
        else { s with part := add p })

/-! ### The operand log, R283, R444 -/

def Core.unlog (k : Core) (id : Nat) : Core := { k with oplog := k.oplog.filter (fun e => e.id != id) }

/-- Lanes of an entry. -/
def LogEntry.lanesOf (e : LogEntry) : List Nat := (e.parts.map (·.lane)).eraseDups

/-- The instruction of an entry. -/
def LogEntry.instr (e : LogEntry) : Option Parts :=
  match decodeWords e.base e.ext with
  | .ok i => partsOf i
  | .error _ => none

/-- What an entry asks of the leaf. -/
def LogEntry.access (e : LogEntry) : Access :=
  match e.instr with
  | none => .read
  | some q =>
    match q.op with
    | .st => .write
    | .atom => .atomic
    | .red => .atomic
    | .stmc => if mBits q.ext 7 5 = 0 then .write else .atomic
    | _ => .read

/-- The operation of an entry that is an atomic or reduction. -/
def LogEntry.atomOp (e : LogEntry) : Nat :=
  match e.instr with
  | none => 13
  | some q =>
    match q.op with
    | .atom => mBits q.ext 7 4
    | .red => mBits q.ext 7 4
    | .stmc => stmcOp (mBits q.ext 7 5)
    | _ => 13

/-- Waiting entries take the places that are free, oldest first (R281). -/
def Part.admitLog (p : Part) (core : Nat) : Part :=
  let waiting := ((p.core? core).map (fun k => k.oplog.filter (fun e => e.fault == 0))).getD []
  waiting.foldl (fun p e =>
    if logSize ≤ ((p.core? core).map Core.logged).getD logSize then p
    else
      let job := ((p.wg? core e.w.slot).map (·.job)).getD 0
      let (p, id) := p.postFault (dieOf core) core job ((minList? (e.parts.map (·.va))).getD e.line) e.access e.reason false
      p.onCore core (fun k => { k with oplog := k.oplog.map (fun y => if y.id = e.id then { y with fault := id } else y) })) p

/-- An entry leaves the log. -/
def Part.unlog (p : Part) (e : LogEntry) : Part := (p.onCore e.w.core (fun k => k.unlog e.id)).admitLog e.w.core

/-- Abandon an entry: denials of an STMC count toward its MC_PARTIAL (R141), others close the lanes with the lowest failing address
(R280). -/
def Part.abandonEntry (p : Part) (e : LogEntry) (cause info1 : Nat) : Part :=
  let p := p.unlog e
  let isStmc := (e.instr.map (·.op)) == some .stmc
  if isStmc && (cause == causeProt || cause == causeKeyBad) then
    let ds := e.lanesOf.map (fun l => (e.dest, l, ((e.parts.find? (fun q => q.lane == l)).map (·.addr)).getD e.line))
    let note (m : Multi) : Multi := if m.pc = e.pc then { m with denied := m.denied ++ ds } else m
    p.onWarp e.w (fun w => { w with multi := w.multi.map note })
  else
    let lowest := (minList? (e.parts.map (·.va))).getD e.line
    p.abandonLanes e.w e.pend e.lanesOf cause (if cause = causeProt || cause = causeKeyBad then lowest else e.line) info1

/-- The bytes of a load that its entry named get their locations; their matches are those of the issue (R244). -/
def Part.placeParts (p : Part) (e : LogEntry) (ps : List (LogPart × Nat)) : Part :=
  let loc (va : Nat) : Option Nat := ps.findSome? (fun q =>
    if q.1.va ≤ va ∧ va < q.1.va + q.1.len then some (q.2 + (va - q.1.va)) else none)
  let place (b : ByteSlot) : ByteSlot := if b.loc.isNone then { b with loc := loc b.va, late := (loc b.va).isSome } else b
  match e.pend with
  | none => p
  | some id => p.onWarp e.w (fun w => w.onPend id (fun x =>
      { x with watch := e.watch, lanes := x.lanes.map (fun l => { l with bytes := l.bytes.map place }) }))

/-- The parts of an entry that lie in device memory, those that leave on a link, and those that can leave on no port (R367). -/
def Part.sortParts (p : Part) (ps : List (LogPart × Nat)) : List (LogPart × Nat) × List (LogPart × Nat) × List Placed :=
  let cut (q : LogPart × Nat) : Bool := locTarget q.2 == 2 && (p.portOf q.2).isNone
  (ps.filter (fun q => isDevice q.2), ps.filter (fun q => !isDevice q.2 && !cut q),
    (ps.filter (fun q => !isDevice q.2 && cut q)).map (fun q => ⟨⟨q.1.lane, q.1.off, q.1.va, q.1.len⟩, q.2⟩))

/-- A plain load goes out as fills or requests. -/
def Part.replayLoad (p : Part) (e : LogEntry) (ps : List (LogPart × Nat)) : Part :=
  let (near, far, cut) := p.sortParts ps
  let near := near.map (fun q => Placed.mk ⟨q.1.lane, q.1.off, q.1.va, q.1.len⟩ q.2)
  let p := p.onCore e.w.core (fun k => k.askFills p.nextCommand near)
  let p := far.foldl (fun p q =>
    p.sendRemote { remoteReq 0 q.2 e.w e.pc with va := q.1.va, pend := e.pend, count := q.1.len, lane := q.1.lane,
                                                 port := p.portOf q.2, acquire := e.acquire }) p
  (((near.map (fun q => lineOf q.loc)).eraseDups).foldl (fun p l => p.fillLine e.w.core l) p).cutPieces e.w e.pend cut

/-- Send the parts of an entry as requests to their home: atomics, reductions, and acquire loads. -/
def Part.replayAtomic (p : Part) (e : LogEntry) (op : Nat) (ps : List (LogPart × Nat)) : Part :=
  let (near, far, cut) := p.sortParts ps
  let lane (q : LogPart × Nat) : AtomLane := ⟨q.1.lane, q.2, q.1.va, if op = 13 then [] else bytesWords q.1.data, q.1.len⟩
  let p := ((near.map (fun q => lineOf q.2)).eraseDups).foldl (fun p line =>
    let p := if op = 13 then p.onCore e.w.core (fun k => k.askLine p.nextCommand line) else p
    p.sendAtom e.w e.pc e.pend op e.entry e.acquire line ((near.filter (fun q => lineOf q.2 == line)).map lane)) p
  let p := far.foldl (fun p q =>
    p.sendRemote { remoteReq (if op = 13 then 0 else 1) q.2 e.w e.pc with
      va := q.1.va, pend := e.pend, port := p.portOf q.2, count := q.1.len, op := if op = 13 then 0 else op, data := q.1.data,
      lane := q.1.lane, acquire := e.acquire, signed := e.entry.isSigned }) p
  p.cutPieces e.w e.pend cut

/-- Where the writes of an entry are performed: those of ST.REL and STMC at a slice, as if they had translated at first
(R283, R301). -/
def LogEntry.slice (e : LogEntry) : Option Bool :=
  match e.instr with
  | none => none
  | some q =>
    let x := q.ext
    if q.op = .stmc then some (semField x == 2 && scopeWide (scopeField x))
    else if semField x = 1 then some (scopeWide (scopeField x)) else none

/-- Store the parts of an entry, in ascending lane order. -/
def Part.replayStore (p : Part) (e : LogEntry) (ps : List (LogPart × Nat)) : Part :=
  let (near, far, cut) := p.sortParts ps
  let inOrder := allLanes.flatMap (fun l => (near ++ far).filter (fun q => q.1.lane == l))
  let data (q : Placed) : List Byte := ((ps.find? (fun r => r.2 == q.loc && r.1.lane == q.piece.lane)).map (fun r => r.1.data)).getD []
  let go := inOrder.map (fun q => Placed.mk ⟨q.1.lane, q.1.off, q.1.va, q.1.len⟩ q.2)
  (p.storePieces e.w e.pc e.slice go data).cutPieces e.w none cut

/-- The accesses of an entry's parts as watches see them. -/
def LogEntry.accesses (e : LogEntry) (op : Nat) : List LaneAccess :=
  e.lanesOf.map (fun l => ⟨l, (e.parts.filter (fun q => q.lane == l)).flatMap (fun q =>
    let n := if op = 7 then q.data.length / 2 else q.data.length
    let bs := if op = 13 then q.data else atomWatched op n (bytesWords q.data)
    bs.zipIdx.map (fun b => (q.va + b.2, b.1)))⟩)

/-- Perform a replay whose parts have all translated. -/
def Part.performEntry (p : Part) (e : LogEntry) (ps : List (LogPart × Nat)) : Part :=
  let p := p.unlog e
  match e.access with
  | .write => (p.replayStore e ps).lateWatch e.w e.watch 1 (e.accesses 13)
  | .atomic => (p.replayAtomic e e.atomOp ps).lateWatch e.w e.watch 2 (e.accesses e.atomOp)
  | _ =>
    let p := p.placeParts e ps
    match e.acquire with
    | none => p.replayLoad e ps
    | some _ => p.replayAtomic e 13 ps

/-- Replay an entry whose record is resolved: performed, logged again with REPEAT set, or abandoned as denied. -/
def State.replayEntry (s : State) (e : LogEntry) : State :=
  let job := ((s.part.wg? e.w.core e.w.slot).map (·.job)).getD 0
  let xs := e.parts.map (fun q => (q, s.retranslate job q.va e.access))
  match xs.findSome? (fun x => match x.2 with
      | .absent r => some r
      | _ => none) with
  | some reason =>
    let (p, id) := s.part.postFault (dieOf e.w.core) e.w.core job e.line e.access reason true
    if id = 0 then { s with part := p.abandonEntry e causeXlate e.pc }  -- the context has gone (R353)
    else
      let wait (y : LogEntry) : LogEntry := if y.id = e.id then { y with fault := id } else y
      { s with part := p.onCore e.w.core (fun k => { k with oplog := k.oplog.map wait }) }
  | none =>
    match xs.findSome? (fun x => match x.2 with
        | .denied cause info => some (cause, info)
        | _ => none) with
    | some (cause, info) => { s with part := s.part.abandonEntry e cause (if cause = causeKeyBad then info else e.pc) }
    | none =>
      let ps := xs.filterMap (fun x => match x.2 with
        | .ok loc => some (x.1, loc)
        | _ => none)
      let n := ((e.parts.head?).map (fun q => if e.atomOp = 7 then q.data.length / 2 else q.data.length)).getD 4
      let blocked := e.access == .atomic && ps.any (fun q => !(s.part.pathMask q.2).testBit (atomClass e.atomOp n))
      if blocked then { s with part := s.part.abandonEntry e causePathAtomic e.pc }
      else { s with part := s.part.performEntry e ps }

/-- Entries of every core that wait on a fault record. -/
def Part.loggedOn (p : Part) (fault : Nat) : List LogEntry :=
  p.cores.flatMap (fun k => k.oplog.filter (fun e => e.fault == fault))

/-- The lane side of an answer to a fault record: entries replay or are abandoned, held instructions learn it. -/
def State.answerLanes (s : State) (fault : Nat) (resolve : Bool) : State :=
  let es := s.part.loggedOn fault
  let told (w : Warp) : Warp :=
    match w.xwait with
    | none => w
    | some x => if x.fault = fault then { w with xwait := some { x with answer := some resolve } } else w
  let s := { s with part := s.part.onWarps told }
  let go (s : State) (e : LogEntry) : State :=
    if resolve then s.replayEntry e else { s with part := s.part.abandonEntry e causeXlate e.pc }
  es.foldl go s

/-! ### Answers and failures of remote requests of lanes, R367, R371, R374 -/

/-- The requests that left as one: of one instruction for one line (R35). -/
def Part.requestMates (p : Part) (q : Remote) : List Remote :=
  p.mgmt.remotes.filter (fun r => r.kind == q.kind && r.w == q.w && r.pc == q.pc && r.pend == q.pend && r.issued == q.issued
    && r.op == q.op && lineOf r.loc == lineOf q.loc)

/-- A lane's remote request fails, and with it those of the other lanes of the line: one imprecise trap of the cause with the
address; reads of an instruction held at issue are marked, other lanes are closed. -/
def Part.failRemote (p : Part) (q : Remote) (cause info0 info1 : Nat) : Part :=
  let mates := p.requestMates q
  let gone (r : Remote) : Bool := mates.any (fun m => m.id == r.id)
  let p := match q.pend with
    | none => p
    | some id => p.onWarp q.w (fun w => w.closeLanes id (mates.map (fun (m : Remote) => m.lane)))
  let sync := q.kind == 0 && q.pend.isNone
  let rest (rs : List Remote) : List Remote :=
    if sync then rs.map (fun r => if gone r then { r with op := 2 } else r) else rs.filter (fun r => !gone r)
  let p := p.onMgmt (fun m => { m with remotes := rest m.remotes })
  p.queueTrap q.w (impTrap cause ((minList? (mates.map (fun (m : Remote) => m.va))).getD q.va) (word info0) (word info1))

/-- A remote read or atomic of a lane is answered with bytes. -/
def Part.completeRemote (p : Part) (q : Remote) (bs : List Byte) : Part :=
  let sync := q.kind == 0 && q.pend.isNone
  let mark (r : Remote) : Remote := if r.id = q.id then { r with op := 1, data := bs } else r
  if sync then p.onMgmt (fun m => { m with remotes := m.remotes.map mark })
  else
    let p := p.onMgmt (fun m => { m with remotes := m.remotes.filter (fun r => r.id != q.id) })
    let p := match q.pend with
      | none => p
      | some id =>
        if q.kind = 1 then p.onWarp q.w (fun w => w.answerLane id q.lane (bytesWords (bs.take q.count)))
        else p.fillRequest q.w id q.lane (fun a => if q.loc ≤ a then (bs.take q.count)[a - q.loc]? else none)
    match q.acquire with
    | some sc => if 1 ≤ sc then p.onCore q.w.core Core.acquire else p
    | none => p

end Sys2Proof.Machine
end

