-- ==== Sys2Proof/Machine/Agent.lean ====
section
/-! DEFINITION. Writes of engines, peers and the host at the home slices, and the slice comparators that see them (R242,
R346, R378, R379, R432). -/

namespace Sys2Proof.Machine

/-! ### Agents, R242, R346 -/

def copyAgent (core : Nat) : Nat := core
def collAgent (die : Nat) : Nat := 2 ^ 8 + die
/-- A peer by its device id; the host is 0xFFF. -/
def peerAgent (dev : Nat) : Nat := 2 ^ 15 + dev
def hostAgent : Nat := peerAgent 0xFFF

/-! ### Slice comparators -/

def Comparator.pred? (q : Comparator) : Predicate := ⟨q.words, none, true, 0, false⟩

/-- Virtual address of a location in the extents of a comparator. -/
def Comparator.vaOf (q : Comparator) (loc : Nat) : Option Nat :=
  let pa := physical loc
  (q.extents.find? (fun e => decide (e.1 ≤ pa) && decide (pa < e.1 + e.2.2))).map (fun e => e.2.1 + (pa - e.1))

/-- The match of a message that has written n bytes from a location, R432: the matched VA, of the lowest watched byte it writes,
and the word it leaves there, which a value predicate compares. -/
def Comparator.matches (q : Comparator) (s : State) (atomic : Bool) (loc n : Nat) : Option (Nat × Word) :=
  let d := q.pred?
  if !d.access.testBit (if atomic then 2 else 1) then none
  else
    let watched (i : Nat) : Option (Nat × Nat) :=
      match q.vaOf (loc + i) with
      | none => none
      | some va => if d.bmask.testBit (va % 16) then some (loc + i, va) else none
    match (List.range n).findSome? watched with
    | none => none
    | some (at_, va) =>
      let w := word (s.homeNat (at_ / 4 * 4) 4)
      if d.kind != 3 || d.compare true va w then some (va / 4 * 4, w) else none

/-- Report the matches of a message. -/
def State.report (s : State) (agent : Nat) (atomic : Bool) (loc n : Nat) : State :=
  (s.part.comparators.filterMap id).foldl (fun s q =>
    match q.matches s atomic loc n with
    | none => s
    | some (va, w) =>
      let r : SliceReport :=
        { id := s.part.nextCommand, slice := (homeDie loc, sliceOf loc), core := q.core, slot := q.slot, pred := q.pred,
          addr := va, value := w, agent := agent, time := s.part.gtime,
          owner := ((s.part.wg? q.core q.slot).map (fun g => (g.launch, g.number))).getD (0, 0) }
      { s with part := { s.part with reports := s.part.reports ++ [r], nextCommand := s.part.nextCommand + 1 } }) s

/-- A write or atomic result of an agent outside the cores, one message for each line. -/
def State.agentWrite (s : State) (agent : Nat) (atomic : Bool) (loc : Nat) (bs : List Byte) : State :=
  (splitLines (bs.length / 128 + 2) loc bs).foldl (fun s l =>
    let s := { s with part := (s.part.originate (homeDie (l.1 * 128)) l.1 l.2 none none).wakePhase }
    s.report agent atomic (l.1 * 128 + ((l.2.head?).map (·.1)).getD 0) l.2.length) s

/-- An atomic of an agent outside the cores: the bytes it returns and the state after. -/
def State.agentAtomic (s : State) (agent : Nat) (f : Entry) (op loc : Nat) (ws : List Word) : State × List Byte :=
  let n := operandBytes op ws
  let old := s.homeRead loc n
  let (v, v2) := atomOperand op n ws
  (s.agentWrite agent true loc (leBytes n (atomNew f op n (leNat old) v v2)), old)

/-- The clock of the home of a location, which a write made there carries. -/
def State.homeClock (s : State) (loc : Nat) : List Nat := (s.part.die (homeDie loc)).vc

/-! ### SLICE_WATCH_REPORT, R379 -/

/-- The owner's core counts a match and acts on it; one that comes after the owner has completed is discarded (R380). The record
of a match is of the time of the match (R386). -/
def Part.takeReport (p : Part) (r : SliceReport) : Part :=
  match p.core? r.core, p.wg? r.core r.slot with
  | some k, some g =>
    let d := nth k.preds r.pred Predicate.start
    if d.owner != some r.slot || !d.enabled || (g.launch, g.number) != r.owner || g.complete then p
    else
      let (d', act) := d.hit
      let p := p.onCore r.core (fun k => { k with preds := setNth k.preds r.pred d' })
      if !act then p
      else if d.action = 1 then
        p.trace r.core r.slot (traceEntry r.time r.addr g.launch 0 4 r.core (16 * r.pred) d.kind (word r.agent))
      else
        p.onWg r.core r.slot (fun g => g.queueTrap (g.lowestLive.getD 0)
          (impTrap causeWatch r.addr (word (r.pred + 16 * d.kind + 2 ^ 16 * r.agent)) r.value))
  | _, _ => p

/-- SLICE_WATCH_REPORT: reports of one slice arrive in its match order. -/
def execSliceWatchReport (report : Nat) (s : State) : Out :=
  .next (match s.part.reports.find? (fun r => r.id == report) with
    | none => s
    | some r =>
      if s.part.reports.any (fun q => q.slice == r.slice && decide (q.id < r.id)) then s
      else
        let p := { s.part with reports := s.part.reports.filter (fun q => q.id != report) }
        { s with part := p.takeReport r })

end Sys2Proof.Machine
end

