-- ==== Sys2Proof/Machine/Engine.lean ====
section
/-! DEFINITION. What the engines of a core share: timelines and the traps that carry their numbers (R195, R280, R345),
and commands that have issued and are not dispatched (R174, R200). -/

namespace Sys2Proof.Machine

/-! ### Timelines, R195 -/

/-- Hand out the next number. -/
def Timeline.take (t : Timeline) : Timeline := { t with issued := t.issued + 1 }

/-- The gap-free prefix that numbers completed ahead extend. -/
def gapFree : Nat → Nat → List Nat → Nat
  | 0, done, _ => done
  | fuel + 1, done, ahead => if ahead.contains (done + 1) then gapFree fuel (done + 1) ahead else done

/-- Number n completes, with its error bit. -/
def Timeline.complete (t : Timeline) (n : Nat) (err : Bool) : Timeline :=
  let ahead := t.ahead ++ [n]
  let done := gapFree ahead.length t.completed ahead
  { t with completed := done, ahead := ahead.filter (fun k => decide (done < k)),
           errFirst := if err && (t.errFirst == 0 || decide (n < t.errFirst)) then n else t.errFirst }

/-- A number at or below v completed with its error bit, R196. -/
def Timeline.errUpTo (t : Timeline) (v : Nat) : Bool := t.errFirst != 0 && decide (t.errFirst ≤ v)

/-- TINFO0 and TINFO1 of an engine's trap: number n of timeline tl (0 CT, 1 MT, 2 XT), R280. -/
def timelineInfo (tl n : Nat) : Word × Word := (word n, word (n / 2 ^ 32 % 2 ^ 30 + tl * 2 ^ 30))

/-- Queue an imprecise trap of a command to its issuing warp. -/
def Part.engineTrap (p : Part) (r : WarpRef) (cause addr tl n : Nat) : Part :=
  p.queueTrap r (impTrap cause addr (timelineInfo tl n).1 (timelineInfo tl n).2)

/-- Threads of the workgroup in a slot that wait on a condition issue again. -/
def Part.wakeSlot (p : Part) (core slot : Nat) (f : WaitFor → Bool) : Part :=
  p.onWg core slot (fun g =>
    { g with warps := g.warps.map (fun w => { w with threads := w.threads.map (fun t => t.wake f) }) })

/-! ### Issued and not dispatched -/

/-- The command at hand has issued, naming format entries. -/
def Ctx.markIssued (c : Ctx) (s : State) (names : List Nat) : State :=
  { s with part := s.part.onWarp c.ref (fun w =>
      { w with heldCmd := w.heldCmd.filter (fun h => h.1 != c.pc) ++ [(c.pc, names)] }) }

/-- The command at hand has been dispatched. -/
def Ctx.markDispatched (c : Ctx) (s : State) : State :=
  { s with part := s.part.onWarp c.ref (fun w => { w with heldCmd := w.heldCmd.filter (fun h => h.1 != c.pc) }) }

/-- The pair of s registers that a field names. -/
def Env.sPair (e : Env) (r : BitVec 6) : List Word := [e.s r.toNat, e.s (r.toNat + 1)]

/-- Scratchpad byte ranges that leave a window: OOB with the lowest byte outside. -/
def oobTrap (size : Nat) (rs : List (Nat × Nat)) : Option TrapInfo :=
  (minList? ((rs.filter (fun r => r.2 != 0 && decide (size < r.1 + r.2))).map (fun r => max size r.1))).map
    (fun a => { cause := causeOob, addr := a })

/-- Scratchpad byte ranges that meet the command ring: PROT with the lowest such byte. -/
def ringTrap (size : Nat) (rs : List (Nat × Nat)) : Option TrapInfo :=
  (minList? ((rs.filter (fun r => r.2 != 0 && decide (size - 512 < r.1 + r.2))).map (fun r => max (size - 512) r.1))).map
    (fun a => { cause := causeProt, addr := a })

/-- COMMAND_DISPATCH, R174, R341: a command held at issue is considered again at once. -/
def execCommandDispatch (w : WarpRef) (s : State) : Out :=
  let held := match s.part.warp? w with
    | none => false
    | some x => x.heldCmd.any (fun h => x.threads.any (fun t => t.isReady && t.retry && t.pc == h.1))
  .next (if held then
    let p := s.part.onWarp w (fun x => { x with gapEnd := 0 })
    { s with part := { p with sched := .issue w :: p.sched } } else s)

end Sys2Proof.Machine
end

