-- ==== Sys2Proof/Machine/Tile.lean ====
section
/-! DEFINITION. Operand pairs, edges and the execution of tile commands (R176 to R193, R98, R99). -/

namespace Sys2Proof.Machine

/-! ### Operand pairs, R176 to R179 -/

structure Pair where
  base : Nat
  bandp : Nat
  t : Bool
  fmt : Nat
  rot : Nat
  pitch : Nat
  deriving DecidableEq, Repr

/-- The pair of two words, the even one first. -/
def pairOf (ws : List Word) : Pair :=
  let o := nth ws 1 0
  { base := (nth ws 0 0).toNat, bandp := field o 31 24, t := field o 23 23 == 1, fmt := field o 22 18,
    rot := field o 17 14, pitch := field o 13 0 }

/-- Offset of stored row r. -/
def Pair.rowOff (p : Pair) (r : Nat) : Nat :=
  if p.bandp = 0 then r * p.pitch else r % 16 * p.pitch + r / 16 * (p.bandp * 256)

/-- Bytes of a stored row of n elements. -/
def rowBytes (f : Entry) (n : Nat) : Nat :=
  if f.kind = kindBlock then groupBytes f else n * f.sbits / 8

/-- The pair keeps R177 and R178 for rows of n elements; `blockT` is the T that a block operand must have. -/
def Pair.ok (p : Pair) (f : Entry) (n : Nat) (blockT : Bool) : Bool :=
  p.base % 16 == 0 && p.pitch != 0 && p.pitch % 16 == 0 && decide (rowBytes f n ≤ p.pitch)
    && (p.bandp == 0 || decide (16 * p.pitch ≤ p.bandp * 256)) && (f.kind != kindBlock || p.t == blockT)

/-- Bytes of the head of a group that are written as 0 and ignored on read: first byte and number (R87, R89). -/
def groupPad (f : Entry) : Nat × Nat := if isBX f then (16, 16) else (8, 8)

/-- Byte ranges of the first n elements of a stored row; `whole` takes blocks whole and writes the zero bytes of the group, as a
writer does (R87, R89, R178, R188). -/
def prefixRanges (f : Entry) (whole : Bool) (n : Nat) : List (Nat × Nat) :=
  if n = 0 then []
  else if f.kind = kindBlock then
    let nb := (n + 31) / 32
    let codes := ((if whole then 32 * nb else n) * f.codeBits + 7) / 8
    [(0, nb)] ++ (if isBX f then [(8, nb)] else []) ++ (if whole then [groupPad f] else []) ++ [(groupHead f, codes)]
  else [(0, (n * f.sbits + 7) / 8)]

/-- An operand of rows × cols elements: how many stored rows it has and how many elements of each are valid. -/
def Pair.stored (p : Pair) (rows cols : Nat) : Nat × Nat := if p.t then (cols, rows) else (rows, cols)

/-- Scratchpad byte ranges of the valid part of an operand. -/
def Pair.ranges (p : Pair) (f : Entry) (whole : Bool) (rows cols : Nat) : List (Nat × Nat) :=
  let (n, len) := p.stored rows cols
  (List.range n).flatMap (fun r => (prefixRanges f whole len).map (fun q => (p.base + p.rowOff r + q.1, q.2)))

/-- Passes beyond the least of the requests of an operand, R296 to R298. -/
def Pair.extra (p : Pair) (f : Entry) (whole : Bool) (rows cols : Nat) : Nat :=
  let (n, len) := p.stored rows cols
  let cols16 := ((prefixRanges f whole len).flatMap (fun q =>
    (List.range ((q.1 + q.2 + 15) / 16 - q.1 / 16)).map (fun i => q.1 / 16 + i))).eraseDups
  let group (g : Nat) : List Nat := (List.range 16).filterMap (fun i => if 16 * g + i < n then some (16 * g + i) else none)
  let word (r k : Nat) : Nat × Nat :=
    let w := (p.base + p.rowOff r) / 16 + k
    (w, (w + p.rot * r) % 37)
  ((List.range ((n + 15) / 16)).map (fun g => (cols16.map (fun k => bankExtra ((group g).map (fun r => word r k)))).sum)).sum

/-! ### Edges, R180, R181 -/

structure Edge where
  rows : Nat
  cols : Nat
  kv : Nat
  peer : Nat
  deriving DecidableEq, Repr

def Edge.whole : Edge := ⟨64, 128, 0, 0⟩

/-- The edge of a word; none where it traps TILE_BAD. -/
def edgeOf (w : Word) (kvOk peerOk : Bool) : Option Edge :=
  let rows := field w 6 0
  let cols := field w 14 7
  let kv := field w 23 15
  let peer := field w 26 24
  if field w 31 27 != 0 || decide (64 < rows) || decide (128 < cols) || decide (256 < kv) || (kv != 0 && !kvOk)
      || (peer != 0 && !peerOk) then none
  else some ⟨if rows = 0 then 64 else rows, if cols = 0 then 128 else cols, kv, peer⟩

/-! ### Elements of tiles and operands -/

def Tile.word (t : Tile) (i j : Nat) : Word := (lookupKey (128 * i + j) t.words).getD 0

/-- Write one element; a word of value 0 is not listed. -/
def Tile.put (t : Tile) (i j : Nat) (w : Word) : Tile :=
  { t with words := if w = 0 then eraseKey (128 * i + j) t.words else insertKey (128 * i + j) w t.words }

def Wg.tile (g : Wg) (n : Nat) : Tile := nth g.tiles n Tile.start

/-- Every place of a tile inside an edge. -/
def edgePlaces (rows cols : Nat) : List (Nat × Nat) :=
  (List.range rows).flatMap (fun i => (List.range cols).map (fun j => (i, j)))

/-- Bytes of ranges that lie behind a base. -/
def Part.bytesAt (p : Part) (win : Nat × Nat) (base : Nat) (rs : List (Nat × Nat)) : List Byte :=
  rs.flatMap (fun q => p.winRead win.1 win.2 (base + q.1) q.2)

/-- Element (i, j) of an operand in a window, decoded (R81 to R91). -/
def Part.operand (p : Part) (win : Nat × Nat) (c : FmtCtx) (q : Pair) (f : Entry) (i j : Nat) : Val × Flags :=
  let (r, e) := if q.t then (j, i) else (i, j)
  elemValue c f e (p.bytesAt win (q.base + q.rowOff r) (elemRanges f e))

/-- The bits of a 32-bit element of an operand. -/
def Part.operandBits (p : Part) (win : Nat × Nat) (q : Pair) (i j : Nat) : Word :=
  let (r, e) := if q.t then (j, i) else (i, j)
  leWord (p.winRead win.1 win.2 (q.base + q.rowOff r + 4 * e) 4)

/-- What a tile command leaves: the tile it writes with its flags, register values by lane, or scratchpad bytes. -/
structure TileOut where
  tile : Option Tile
  flags : Flags
  values : List (Nat × List Word)
  bytes : List (Nat × List Byte)

def TileOut.ofTile (t : Tile) (fl : Flags) : TileOut := ⟨some t, fl, [], []⟩

/-- Write results to places of a tile. -/
def Tile.putAll (t : Tile) (xs : List ((Nat × Nat) × Word)) : Tile := xs.foldl (fun t x => t.put x.1.1 x.1.2 x.2) t

/-! ### MMA, R98, R99, R182 to R184 -/

/-- K of the class of an operand, R182. -/
def classK (f : Entry) : Nat :=
  if f.sbits ≤ 4 then 256 else if f.sbits ≤ 8 then 128 else if f.sbits ≤ 16 then 64 else 16

/-- Entries that MMA accepts. -/
def mmaAccepts (f : Entry) : Bool :=
  f.kind == kindFloat || ((f.kind == kindBlock || f.kind == kindInteger) && decide (f.sbits ≤ 8))

def bf16Entry : Entry := nth builtinEntries 5 Entry.empty
def e4m3Entry : Entry := nth builtinEntries 6 Entry.empty

/-- A tile element rounded into an entry and read back. -/
def roundedElem (f : Entry) (w : Word) : Val × Flags :=
  let r := roundFloat f 0 (ofFp32 w)
  (decodeCode f r.1, r.2)

/-- One element of the destination: the partial sums of 8 terms in ascending K order (R98). -/
def mmaElem (k : Nat) (a b : Nat → Val) (acc : Word) : Word × Flags :=
  (List.range (k / 8)).foldl (fun s g =>
    let d := dotVals [] ((List.range 8).map (fun i => (a (8 * g + i), b (8 * g + i))))
    let sum := (ofFp32 s.1).add 0 d.1
    let r := roundFloat fp32 0 sum.1
    (word r.1, s.2 ||| d.2 ||| sum.2 ||| r.2)) (acc, 0)

/-- The A operand of an MMA: scratchpad, or a tile rounded into BF16 or E4M3. -/
def TileCmd.opA (x : TileCmd) (p : Part) (g : Wg) (i kk : Nat) : Val × Flags :=
  if x.kv ≤ kk then (.zero false, 0)
  else
    match x.m % 4 with
    | 0 => p.operand (x.w.core, x.w.slot) x.fmt (pairOf x.pairA) x.entryA i kk
    | 1 => roundedElem bf16Entry ((g.tile x.a).word i (kk + 64 * (x.m / 4 % 2)))
    | _ => roundedElem e4m3Entry ((g.tile x.a).word i kk)

def TileCmd.opB (x : TileCmd) (p : Part) (kk j : Nat) : Val × Flags :=
  if x.kv ≤ kk then (.zero false, 0) else p.operand x.peer x.fmt (pairOf x.pairB) x.entryB kk j

def TileCmd.runMma (x : TileCmd) (p : Part) (g : Wg) : TileOut :=
  let k := classK x.entryB
  let old := g.tile x.d
  let as := (List.range x.rows).map (fun i => (List.range k).map (x.opA p g i))
  let bs := (List.range x.cols).map (fun j => (List.range k).map (fun kk => x.opB p kk j))
  let val (m : List (List (Val × Flags))) (i kk : Nat) : Val := (nth (nth m i []) kk (.zero false, 0)).1
  let rs := (edgePlaces x.rows x.cols).map (fun q => (q, mmaElem k (val as q.1) (val bs q.2) (old.word q.1 q.2)))
  let read := orFlags ((as ++ bs).map (fun l => orFlags (l.map (·.2))))
  .ofTile ({ old with tag := tagFp32 }.putAll (rs.map (fun r : (Nat × Nat) × Word × Flags => (r.1, r.2.1)))) (read ||| orFlags (rs.map (fun r => r.2.2)))

/-! ### TZERO, TLD, TST, TMOV, R186 to R189 -/

/-- An entry whose elements TLD copies as bits. -/
def copiesBits (f : Entry) : Bool := f.sbits == 32 && f.epw == 1

def TileCmd.runTld (x : TileCmd) (p : Part) : TileOut :=
  let win := (x.w.core, x.w.slot)
  let q := pairOf x.pairA
  let elem (ij : Nat × Nat) : Word × Flags :=
    if copiesBits x.entryA then (p.operandBits win q ij.1 ij.2, 0)
    else
      let v := p.operand win x.fmt q x.entryA ij.1 ij.2
      let r := roundFloat fp32 0 v.1
      (word r.1, v.2 ||| r.2)
  let rs : List ((Nat × Nat) × Word × Flags) := (edgePlaces x.rows x.cols).map (fun ij => (ij, elem ij))
  .ofTile ((Tile.mk [] (x.outTag.getD tagFp32)).putAll (rs.map (fun r : (Nat × Nat) × Word × Flags => (r.1, r.2.1)))) (orFlags (rs.map (fun r => r.2.2)))

/-- The bytes of one block of a row, and its flags: scale, micro byte and codes at their places in the group. -/
def blockBytes (c : FmtCtx) (f : Entry) (mode b : Nat) (vs : List Val) : List (Nat × List Byte) × Flags :=
  let q := quantise c f mode vs
  let codes := (q.codes.zipIdx.map (fun p => p.1 % 2 ^ f.codeBits * 2 ^ (p.2 * f.codeBits))).sum
  ([(b, leBytes 1 q.scale)] ++ (if isBX f then [(8 + b, leBytes 1 q.micro)] else []) ++
    [(groupHead f + 4 * b * f.codeBits, leBytes (4 * f.codeBits) codes)], q.flags)

/-- The row of a non-block destination: codes of the first elements over the bits that stand there. -/
def streamBytes (f : Entry) (old : List Byte) (codes : List Nat) : List Byte :=
  leBytes old.length (codes.zipIdx.foldl (fun x c => streamPut x f.sbits c.2 c.1) (leNat old))

/-- TST: each stored row inside the edge, rounded or quantised once. -/
def TileCmd.runTst (x : TileCmd) (p : Part) (g : Wg) : TileOut :=
  let win := (x.w.core, x.w.slot)
  let q := pairOf x.pairD
  let f := x.entryA
  let src := g.tile x.a
  let xe := x.fmt.entry (tagIndex x.srcTag)
  let mode := modeOf (x.m / 2 ^ 10 % 8) f
  let value (i j : Nat) : Val := decodeCode xe (src.word i j).toNat
  let (n, len) := q.stored x.rows x.cols
  let rowAt (r : Nat) : Nat := q.base + q.rowOff r
  let blockRow (r : Nat) : List (List (Nat × List Byte) × Flags) :=
    (List.range ((len + 31) / 32)).map (fun b =>
      let vs := (List.range 32).map (fun e => if 32 * b + e < len then value r (32 * b + e) else .zero false)
      let w := blockBytes x.fmt f mode b vs
      (w.1.map (fun t => (rowAt r + t.1, t.2)), w.2))
  let streamRow (r : Nat) : List (Nat × List Byte) × Flags :=
    let old := p.winRead win.1 win.2 (rowAt r) ((len * f.sbits + 7) / 8)
    let codes := (List.range len).map (fun e =>
      let (i, j) := if q.t then (e, r) else (r, e)
      if (pairOf x.pairD).fmt = tagIndex x.srcTag then ((src.word i j).toNat, (0 : Flags)) else roundInto f mode (value i j))
    ([(rowAt r, streamBytes f old (codes.map (·.1)))], orFlags (codes.map (·.2)))
  let pad (r : Nat) : List (Nat × List Byte) × Flags := ([(rowAt r + (groupPad f).1, List.replicate (groupPad f).2 0)], 0)
  let rs := (List.range n).flatMap (fun r => if f.kind = kindBlock then pad r :: blockRow r else [streamRow r])
  ⟨none, orFlags (rs.map (·.2)), [], rs.flatMap (·.1)⟩

/-- Row and column of register i of lane l, R189. -/
def tmovPlace (m l i : Nat) : Nat × Nat := (m % 64 + i, 32 * (m / 64 % 4) + l)

def TileCmd.runTmov (x : TileCmd) (g : Wg) : TileOut :=
  if x.m / 256 % 2 = 1 then
    let puts := x.vregs.flatMap (fun v => v.2.zipIdx.map (fun w => (tmovPlace x.m v.1 w.2, w.1)))
    .ofTile ({ g.tile x.d with tag := x.srcTag }.putAll puts) 0
  else
    let src := g.tile x.a
    let one (v : Nat × List Word) : Nat × List Word :=
      (v.1, v.2.zipIdx.map (fun w => let q := tmovPlace x.m v.1 w.2; src.word q.1 q.2))
    ⟨none, 0, x.vregs.map one, []⟩

/-! ### TRED, TSCAL, TOPK, R190 to R193 -/

/-- The largest of FP32 codes as FMAX takes it; the canonical NaN when all are NaN. -/
def maxCodes (cs : List Nat) : Nat :=
  match cs with
  | [] => fp32.nanCode
  | c :: r =>
    if cs.all (fun x => (decodeCode fp32 x).isNan) then fp32.nanCode else r.foldl (minMaxCode fp32 true false) c

/-- One row of TRED, with the old value that joins it under ACC. -/
def tredRow (op : Nat) (ws : List Word) (acc : Option Word) : Word × Flags :=
  match op with
  | 1 =>
    let s := sumVals (ws.map ofFp32 ++ (acc.toList.map ofFp32))
    let r := roundFloat fp32 0 s.1
    (word r.1, s.2 ||| r.2)
  | o =>
    let codes := ws.map (fun w => if o = 2 then w.toNat % 2 ^ 31 else w.toNat)
    let m := maxCodes codes
    (word (match acc with
      | none => m
      | some a => maxCodes [a.toNat, m]), 0)

/-- TRED: lane l receives rows l and l + 32, those inside the edge. -/
def TileCmd.runTred (x : TileCmd) (g : Wg) : TileOut :=
  let src := g.tile x.a
  let row (i : Nat) (acc : Option Word) : Word × Flags := tredRow (x.m % 4) ((List.range x.cols).map (src.word i)) acc
  let one (v : Nat × List Word) : Nat × List (Word × Flags) :=
    let acc (k : Nat) : Option Word := if x.m / 4 % 2 = 1 then some (nth v.2 k 0) else none
    (v.1, ([0, 1].filter (fun k => decide (v.1 + 32 * k < x.rows))).map (fun k => row (v.1 + 32 * k) (acc k)))
  let rs := x.vregs.map one
  ⟨none, orFlags (rs.map (fun r => orFlags (r.2.map (·.2)))), rs.map (fun r => (r.1, r.2.map (·.1))), []⟩

def TileCmd.runTscal (x : TileCmd) (p : Part) (g : Wg) : TileOut :=
  let src := g.tile x.a
  let vec (n : Nat) : Val := ofFp32 (leWord (p.winRead x.w.core x.w.slot (x.base.toNat + 4 * n) 4))
  let elem (q : Nat × Nat) : Word × Flags :=
    let m := (ofFp32 (src.word q.1 q.2)).mul (vec (if x.m % 2 = 1 then q.2 else q.1))
    let r := roundFloat fp32 0 m.1
    (word r.1, m.2 ||| r.2)
  let rs : List ((Nat × Nat) × Word × Flags) := (edgePlaces x.rows x.cols).map (fun q => (q, elem q))
  .ofTile ({ g.tile x.d with tag := tagFp32 }.putAll (rs.map (fun r : (Nat × Nat) × Word × Flags => (r.1, r.2.1)))) (orFlags (rs.map (fun r => r.2.2)))

/-- A candidate ranks above an entry of the list, R193. -/
def ranksAbove (v w : Word × Word) : Bool :=
  let a := ofFp32 v.1
  let b := ofFp32 w.1
  b.isNan || decide (0 < a.cmp b) || (a.cmp b == 0 && decide (v.2.toNat < w.2.toNat))

/-- Take one candidate into a list of k entries. -/
def topkInsert (k : Nat) (list : List (Word × Word)) (v : Word × Word) : List (Word × Word) :=
  if (ofFp32 v.1).isNan then list
  else
    match list.findIdx? (ranksAbove v) with
    | none => list
    | some i => (list.take i ++ [v] ++ list.drop i).take k

def TileCmd.runTopk (x : TileCmd) (p : Part) (g : Wg) : TileOut :=
  let k := x.m / 8 % 32 + 1
  let col := 64 * (x.m % 2)
  let old := g.tile x.d
  let src (i j : Nat) : Word × Flags :=
    if x.m / 2 % 2 = 0 then ((g.tile x.a).word i j, 0)
    else
      let v := p.operand (x.w.core, x.w.slot) x.fmt (pairOf x.pairA) x.entryA i j
      let r := roundFloat fp32 0 v.1
      (word r.1, v.2 ||| r.2)
  let start (i : Nat) : List (Word × Word) := (List.range k).map (fun s =>
    if x.m / 4 % 2 = 1 then (word (fp32.infCode true), word (2 ^ 32 - 1))
    else (old.word i (col + 2 * s), old.word i (col + 2 * s + 1)))
  let row (i : Nat) : List (Word × Word) × Flags :=
    (List.range x.cols).foldl (fun acc j =>
      let v := src i j
      (topkInsert k acc.1 (v.1, word (x.base.toNat + j)), acc.2 ||| v.2)) (start i, 0)
  let rs := (List.range x.rows).map (fun i => (i, row i))
  let puts := rs.flatMap (fun r => r.2.1.zipIdx.flatMap (fun s =>
    [((r.1, col + 2 * s.2), s.1.1), ((r.1, col + 2 * s.2 + 1), s.1.2)]))
  .ofTile ({ old with tag := tagRaw32 }.putAll puts) (orFlags (rs.map (fun r => r.2.2)))

/-! ### Running a command -/

/-- The results of a command from the state it runs in. -/
def TileCmd.run (x : TileCmd) (p : Part) (g : Wg) : TileOut :=
  match x.op with
  | .mma => x.runMma p g
  | .tzero => .ofTile ⟨[], x.outTag.getD tagFp32⟩ 0
  | .tld => x.runTld p
  | .tst => x.runTst p g
  | .tmov => x.runTmov g
  | .tred => x.runTred g
  | .tscal => x.runTscal p g
  | _ => x.runTopk p g

/-- Bank passes of the operands of a command, charged to its workgroup. -/
def TileCmd.passes (x : TileCmd) : Nat :=
  let a := pairOf x.pairA
  match x.op with
  | .mma => (if x.m % 4 = 0 then a.extra x.entryA false x.rows x.kv else 0) + (pairOf x.pairB).extra x.entryB false x.kv x.cols
  | .tld => a.extra x.entryA false x.rows x.cols
  | .tst => (pairOf x.pairD).extra x.entryA true x.rows x.cols
  | .topk => if x.m / 2 % 2 = 1 then a.extra x.entryA false x.rows x.cols else 0
  | _ => 0

end Sys2Proof.Machine
end

