-- ==== Sys2Proof/Machine/LaneCtl.lean ====
section
/-! DEFINITION. Control flow of the lanes: branches, calls, exit, yield, sleep and the software traps (R59 to R61,
R151 to R158), and the illegal words (R55, R56). -/

namespace Sys2Proof.Machine

/-! ### Branches, R59 to R61, R151 -/

/-- A direct target, as the low 64 bits of pc + 4 × offset (log entry 10). -/
def directTarget (pc : Nat) (offset : Int) : Nat :=
  wrapInt 64 ((pc : Int) + 4 * offset)

/-- The 18-bit offset D:A:B of a short BRA. -/
def offset18 (f : Base) : Int :=
  toSigned 18 (f.d.toNat * 4096 + f.a.toNat * 64 + f.b.toNat)

/-- The 12-bit offset A:B of a short BRC. -/
def offset12 (f : Base) : Int :=
  toSigned 12 (f.a.toNat * 64 + f.b.toNat)

/-- The condition of D: bit 5 negates predicate bits 2 to 0. -/
def branchCond (f : Base) (p : Nat → Bool) : Bool :=
  p (f.d.toNat % 8) != f.d.toNat.testBit 5

def actBra (offset : Int) (c : Ctx) (s : State) : Act :=
  .done s (fun _ => directTarget c.pc offset)

def actBrc (f : Base) (offset : Int) (c : Ctx) (s : State) : Act :=
  .done s (fun l => if branchCond f (c.w.preg s.part.oracle l) then directTarget c.pc offset else c.next)

def bodyBra (f : Base) (_x : Ext) : Ctx → State → Act := actBra (offset18 f)
def bodyBraLong (_f : Base) (imm : Word) : Ctx → State → Act := actBra imm.toInt
def bodyBrc (f : Base) (_x : Ext) : Ctx → State → Act := actBrc f (offset12 f)
def bodyBrcLong (f : Base) (imm : Word) : Ctx → State → Act := actBrc f imm.toInt

/-! ### Indirect jumps, calls and returns, R152, R153 -/

/-- An indirect target is one that fetch accepts. -/
def targetOk (t : Int) : Bool :=
  decide (0 ≤ t) && decide (t < 2 ^ 57) && t % 4 == 0

/-- The pair v(r), v(r + 1) of a lane. -/
def Env.pair (e : Env) (l r : Nat) : Nat :=
  pairNat (e.v l r) (e.v l (r + 1))

/-- BAD_TARGET names the failing lanes and the target of the lowest, R280. -/
def badTargets (ts : List (Nat × Int)) : Option TrapInfo :=
  match ts.filter (fun p => !targetOk p.2) with
  | [] => none
  | p :: ps => some { cause := causeBadTarget, addr := wrapInt 57 p.2, info0 := maskOf (p.1 :: ps.map (·.1)) }

/-- The link of a call: pc + 8 into a pair, with tag INT64. -/
def linkWrite (c : Ctx) (d l : Nat) : PendLane :=
  laneWrites l [(.v d, word (c.pc + 8), tagInt64), (.v (d + 1), word ((c.pc + 8) / 2 ^ 32), tagInt64)]

/-- Jump the participants to their targets, the others falling through. -/
def jumpTo (c : Ctx) (s : State) (link : Option Nat) (ts : List (Nat × Int)) : Act :=
  match badTargets ts with
  | some t => .trap t
  | none =>
    let s := match link with
      | none => s
      | some d => c.write s (ts.map (fun p => linkWrite c d p.1)) 0
    .done s (fun l => ((ts.lookup l).map Int.toNat).getD c.next)

def bodyBrx (f : Base) (x : Ext) (c : Ctx) (s : State) : Act :=
  let e := c.env s
  let target (l : Nat) : Int :=
    if mBit x 0 then (e.pair l f.a.toNat : Int) else c.pc + (e.v l f.a.toNat).toInt
  jumpTo c s (if mBit x 1 then some f.d.toNat else none) (e.acting.map (fun l => (l, target l)))

/-- CALL has no guard: every thread of the group links and jumps. -/
def bodyCall (f : Base) (imm : Word) (c : Ctx) (s : State) : Act :=
  .done (c.write s (c.group.map (fun l => linkWrite c f.d.toNat l)) 0) (fun _ => directTarget c.pc imm.toInt)

def bodyRet (f : Base) (_x : Ext) (c : Ctx) (s : State) : Act :=
  let e := c.env s
  jumpTo c s none (e.acting.map (fun l => (l, (e.pair l f.a.toNat : Int))))

/-! ### Ending, yielding and sleeping, R155 to R157 -/

/-- EXIT: a warp that would leave its lock behind traps (R148). -/
def bodyExit (_f : Base) (_x : Ext) (c : Ctx) (s : State) : Act :=
  let acting := c.acting s.part.oracle
  let left := c.w.lanesWhere (fun t => !t.isExited)
  let misuse := !acting.isEmpty && left.all acting.contains
  match c.w.lock.filter (fun _ => misuse) with
  | some k => .trap { cause := causeLockMisuse, addr := k.va }
  | none =>
    let s := c.finish { s with part := s.part.onWarp c.ref (fun w => w.onLanes acting (fun t => { t with st := .exited })) }
      (fun _ => c.next)
    .stay { s with part := (s.part.settle c.ref.core c.ref.slot).tellHalt c.ref acting c.pc }

/-- YIELD marks its participants; on the herd it also acts as Y. -/
def bodyYield (_f : Base) (_x : Ext) (c : Ctx) (s : State) : Act :=
  let acting := c.acting s.part.oracle
  let s := c.finish s (fun _ => c.next)
  .stay { s with part := s.part.onWarp c.ref (fun w =>
    { w.onLanes acting (fun t => { t with yielded := true }) with
      yPend := w.yPend || (!acting.isEmpty && w.sprint.isNone) }) }

/-- Longest NSLEEP of a register operand, in ns. -/
def sleepLimit : Nat := 1048576

def bodyNsleep (f : Base) (x : Ext) (c : Ctx) (s : State) : Act :=
  let e := c.env s
  let interval (l : Nat) : Nat :=
    if mBit x 12 then mBits x 11 0
    else min sleepLimit (if uniformB x then e.s f.b.toNat else e.v l f.b.toNat).toNat
  let sleepers := e.acting.filter (fun l => decide (0 < interval l))
  let until_ (l : Nat) : Nat := s.part.now + 4 * interval l
  let s := c.finish s (fun _ => c.next)
  .stay { s with part := s.part.onWarp c.ref (fun w =>
    { w with threads := w.threads.zipIdx.map (fun q =>
        if sleepers.contains q.2 then { q.1 with st := .live (.asleep (until_ q.2)) } else q.1) }) }

/-! ### Software traps, R158, R235, R275 -/

/-- SW_TRAP with a code and lanes, resuming after the instruction: precise in user mode, queued in trap mode; with
the queue full it is a double trap. -/
def swTrap (code lanes : Nat) (c : Ctx) (s : State) : Act :=
  if c.w.trapMode && decide (c.w.tqueue.length < 7) then
    let r : TrapRec := { imp := false, cause := causeSwTrap, lanes := lanes, epc := c.next, addr := 0,
                         info0 := word code, info1 := 0 }
    .done { s with part := s.part.onWarp c.ref (fun w => { w with tqueue := w.tqueue ++ [r] }) } (fun _ => c.next)
  else .trap { cause := causeSwTrap, lanes := some lanes, after := true, info0 := code, moved := c.group }

def bodyBkpt (_f : Base) (x : Ext) (c : Ctx) (s : State) : Act :=
  if (c.acting s.part.oracle).isEmpty then .done s (fun _ => c.next)
  else .trap { cause := causeBkpt, info0 := mBits x 7 0 }

def bodyTrapl (_f : Base) (x : Ext) (c : Ctx) (s : State) : Act :=
  let acting := c.acting s.part.oracle
  if acting.isEmpty then .done s (fun _ => c.next) else swTrap (mBits x 11 0) (maskOf acting) c s

/-! ### Illegal words, R55, R56 -/

/-- A trap of the whole group at an instruction word that is none, or that no fetch delivers: taken where an instruction would
issue, on the sprinter as it comes to retire (R150). -/
def fetchTrap (t : TrapInfo) (s : State) : Out :=
  match s.ctx? ⟨.nop, ⟨false, false, 0, 0, 0, 0, false⟩, .short⟩ with
  | none => .next s
  | some c =>
    match c.heldFirst s with
    | some why => .next (c.held s why)
    | none => .next (if c.early then c.held s 15 else s.raise c (c.groupTrap t))

/-- ILL_OPC carries the base word. -/
def execIllegalWord (w : Word) (s : State) : Out :=
  fetchTrap { cause := causeIllOpc, info0 := w.toNat } s

/-! ### The instructions -/

/-- BRA, R151. -/
def execBra (f : Base) (s : State) : Out :=
  issue ⟨.bra, f, .short⟩ s (bodyBra f Ext.absent)

/-- BRA_LONG, R151. -/
def execBraLong (f : Base) (imm : Word) (s : State) : Out :=
  issue ⟨.bra, f, .imm imm⟩ s (bodyBraLong f imm)

/-- BRC, R151. -/
def execBrc (f : Base) (s : State) : Out :=
  issue ⟨.brc, f, .short⟩ s (bodyBrc f Ext.absent)

/-- BRC_LONG, R151. -/
def execBrcLong (f : Base) (imm : Word) (s : State) : Out :=
  issue ⟨.brc, f, .imm imm⟩ s (bodyBrcLong f imm)

/-- BRX, R152. -/
def execBrx (f : Base) (x : Ext) (s : State) : Out :=
  issue ⟨.brx, f, .long x⟩ s (bodyBrx f x)

/-- CALL, R153. -/
def execCall (f : Base) (imm : Word) (s : State) : Out :=
  issue ⟨.call, f, .imm imm⟩ s (bodyCall f imm)

/-- RET, R153. -/
def execRet (f : Base) (s : State) : Out :=
  issue ⟨.ret, f, .short⟩ s (bodyRet f Ext.absent)

/-- RET_LONG, R153. -/
def execRetLong (f : Base) (x : Ext) (s : State) : Out :=
  issue ⟨.ret, f, .long x⟩ s (bodyRet f x)

/-- EXIT, R155. -/
def execExit (f : Base) (s : State) : Out :=
  issue ⟨.exit, f, .short⟩ s (bodyExit f Ext.absent)

/-- EXIT_LONG, R155. -/
def execExitLong (f : Base) (x : Ext) (s : State) : Out :=
  issue ⟨.exit, f, .long x⟩ s (bodyExit f x)

/-- YIELD, R156. -/
def execYield (f : Base) (s : State) : Out :=
  issue ⟨.yield, f, .short⟩ s (bodyYield f Ext.absent)

/-- YIELD_LONG, R156. -/
def execYieldLong (f : Base) (x : Ext) (s : State) : Out :=
  issue ⟨.yield, f, .long x⟩ s (bodyYield f x)

/-- NSLEEP, R157. -/
def execNsleep (f : Base) (x : Ext) (s : State) : Out :=
  issue ⟨.nsleep, f, .long x⟩ s (bodyNsleep f x)

/-- BKPT, R158. -/
def execBkpt (f : Base) (s : State) : Out :=
  issue ⟨.bkpt, f, .short⟩ s (bodyBkpt f Ext.absent)

/-- BKPT_LONG, R158. -/
def execBkptLong (f : Base) (x : Ext) (s : State) : Out :=
  issue ⟨.bkpt, f, .long x⟩ s (bodyBkpt f x)

/-- TRAPL, R158. -/
def execTrapl (f : Base) (x : Ext) (s : State) : Out :=
  issue ⟨.trapl, f, .long x⟩ s (bodyTrapl f x)

end Sys2Proof.Machine
end

