-- ==== Sys2Proof/Machine/Uniform.lean ====
section
/-! DEFINITION. Uniform scalar instructions, uniform branches, barriers, buffer records and layout slots (R159 to
R173). -/

namespace Sys2Proof.Machine

/-! ### One issue, one effect, R159 -/

/-- The guard of a uniform instruction. -/
def Ctx.on (c : Ctx) (s : State) : Bool := c.warpGuard s.part.oracle

/-- Record writes of registers of the warp. -/
def Ctx.writeWarp (c : Ctx) (s : State) (ws : List (Target × Word)) : State :=
  c.write s [laneWrites warpLane (ws.map (fun w => (w.1, w.2, 0)))] 0

/-- A uniform instruction that only writes registers of its warp. -/
def uniAct (body : Env → List (Target × Word)) (c : Ctx) (s : State) : Act :=
  if c.on s then .done (c.writeWarp s (body (c.env s))) (fun _ => c.next) else .done s (fun _ => c.next)

/-- Writes of a group of s registers. -/
def sWrites (d : BitVec 6) (ws : List Word) : List (Target × Word) :=
  ws.zipIdx.map (fun p => (Target.s (d.toNat + p.2), p.1))

/-- The s registers of a group. -/
def Env.sGroup (e : Env) (r : BitVec 6) (w : BitVec 2) : List Word := (groupRegs r w).map e.s

/-- A single register or a pair as a number. -/
def Env.sNum (e : Env) (r : BitVec 6) (w : BitVec 2) : Nat :=
  if w = 1 then pairNat (e.s r.toNat) (e.s (r.toNat + 1)) else (e.s r.toNat).toNat

/-- The words of a result as wide as a group. -/
def wordsOf (w : BitVec 2) (v : Nat) : List Word :=
  if w = 1 then [word v, word (v / 2 ^ 32)] else [word v]

/-! ### Scalar arithmetic, logic and moves, R161 to R164 -/

def bodySnop (_f : Base) (_x : Ext) : Ctx → State → Act := fun c s => .done s (fun _ => c.next)

def bodySadd (f : Base) (x : Ext) : Ctx → State → Act := uniAct (fun e =>
  sWrites f.d (wordsOf x.wd (wrapInt 64 ((e.sNum f.a x.wa : Int) + e.sNum f.b x.wb))))

def bodySsub (f : Base) (x : Ext) : Ctx → State → Act := uniAct (fun e =>
  sWrites f.d (wordsOf x.wd (wrapInt 64 ((e.sNum f.a x.wa : Int) - e.sNum f.b x.wb))))

/-- A scalar operation on single registers. -/
def scalar (f : Base) (x : Ext) (op : Word → Word → Word → Word) : Ctx → State → Act := uniAct (fun e =>
  [(.s f.d.toNat, op (e.s f.a.toNat) (e.s f.b.toNat) (e.s x.c.toNat))])

def bodySmul (f : Base) (x : Ext) : Ctx → State → Act := scalar f x (fun a b _ =>
  if !mBit x 1 then a * b
  else if mBit x 0 then word (a.toNat * b.toNat / 2 ^ 32)
  else wordOfInt (Int.fdiv (a.toInt * b.toInt) (2 ^ 32)))

def bodySmad (f : Base) (x : Ext) : Ctx → State → Act := scalar f x (fun a b c => a * b + c)

def bodySminmax (f : Base) (x : Ext) : Ctx → State → Act := scalar f x (fun a b _ =>
  let less := if mBit x 0 then decide (a.toNat ≤ b.toNat) else decide (a.toInt ≤ b.toInt)
  if less != mBit x 1 then a else b)

/-- A bitwise operation register by register. -/
def scalarBits (f : Base) (x : Ext) (op : Word → Word → Word) : Ctx → State → Act := uniAct (fun e =>
  sWrites f.d (((e.sGroup f.a x.wa).zip (e.sGroup f.b x.wb)).map (fun p => op p.1 p.2)))

def bodySand (f : Base) (x : Ext) : Ctx → State → Act := scalarBits f x (fun a b => a &&& b)
def bodySor (f : Base) (x : Ext) : Ctx → State → Act := scalarBits f x (fun a b => a ||| b)
def bodySxor (f : Base) (x : Ext) : Ctx → State → Act := scalarBits f x (fun a b => a ^^^ b)

def bodySshl (f : Base) (x : Ext) : Ctx → State → Act := scalar f x (fun a b _ => a <<< (b.toNat % 32))

def bodySshr (f : Base) (x : Ext) : Ctx → State → Act := scalar f x (fun a b _ =>
  if mBit x 0 then a.sshiftRight (b.toNat % 32) else a >>> (b.toNat % 32))

def bodySmov (f : Base) (x : Ext) : Ctx → State → Act := uniAct (fun e => sWrites f.d (e.sGroup f.a x.wa))

def bodySmovi (f : Base) (imm : Word) : Ctx → State → Act := uniAct (fun _ => [(.s f.d.toNat, imm)])

def bodySaddi (f : Base) (imm : Word) : Ctx → State → Act := uniAct (fun e =>
  [(.s f.d.toNat, e.s f.a.toNat + imm)])

/-- SSET, R162. -/
def bodySset (f : Base) (x : Ext) : Ctx → State → Act := uniAct (fun e =>
  let n := if x.wa = 1 then 64 else 32
  let v (r : BitVec 6) : Int := if mBit x 7 then (e.sNum r x.wa : Int) else toSigned n (e.sNum r x.wa)
  let r := combine (mBits x 5 4) (condHolds (mBits x 3 0) (v f.a - v f.b)) (e.q x.c.toNat != mBit x 6)
  [(.q f.d.toNat, wordOfBool r)])

/-- SSEL, R163. -/
def bodySsel (f : Base) (x : Ext) : Ctx → State → Act := uniAct (fun e =>
  sWrites f.d (if e.q x.c.toNat != mBit x 0 then e.sGroup f.a x.wa else e.sGroup f.b x.wb))

/-- S2S, R164. -/
def bodyS2s (f : Base) (x : Ext) (c : Ctx) (s : State) : Act :=
  uniAct (fun _ => sWrites f.d (wordsOf x.wd (specialReg c s.part.now 0 f.a.toNat))) c s

/-! ### V2S and SBCAST, R165, R166 -/

/-- Lane read by V2S; none when it does not participate. -/
def v2sLane (x : Ext) (acting : List Nat) : Option Nat :=
  if mBit x 5 then minList? acting
  else if acting.contains (mBits x 4 0) then some (mBits x 4 0) else none

/-- V2S is held until the thread's outstanding writes of a have committed. -/
def bodyV2s (f : Base) (x : Ext) (c : Ctx) (s : State) : Act :=
  if !c.on s then .done s (fun _ => c.next)
  else
    match v2sLane x (c.acting s.part.oracle) with
    | none => .done (c.writeWarp s [(.q x.c.toNat, 0)]) (fun _ => c.next)
    | some l =>
      let ra := groupRegs f.a x.wa
      if ra.any (fun r => !(c.w.hits l (.v r)).isEmpty) then .hold 15
      else .done (c.writeWarp s (sWrites f.d ((c.env s).words l ra) ++ [(.q x.c.toNat, 1)])) (fun _ => c.next)

/-- Issue numbers of writes made by another warp, apart from the warp's own. -/
def foreignId (oracle : Nat) : Nat := 2 ^ 40 + oracle

/-- SBCAST: outstanding writes in every target warp, the issuer's own under its rules. -/
def bodySbcast (f : Base) (x : Ext) (c : Ctx) (s : State) : Act :=
  if !c.on s then .done s (fun _ => c.next)
  else
    let ws := sWrites f.d ((c.env s).sGroup f.a x.wa)
    let lanes := [laneWrites warpLane (ws.map (fun w => (w.1, w.2, (0 : Byte))))]
    let o := s.part.oracle
    let target (i : Nat) : Bool := mBit x 4 || i == mBits x 3 0
    let give (q : Warp × Nat) : Warp :=
      if !target q.2 then q.1
      else if q.2 = c.ref.warp then
        q.1.addPend o { id := q.1.seq, pc := c.pc, foreign := false, due := none, lanes := lanes, flags := 0 }
      else q.1.addPend o { id := foreignId o, pc := c.pc, foreign := true, due := none, lanes := lanes, flags := 0 }
    .done { s with part := s.part.onWg c.ref.core c.ref.slot (fun g => { g with warps := g.warps.zipIdx.map give }) }
      (fun _ => c.next)

/-! ### Uniform branches, R167 -/

def bodySbra (f : Base) (_x : Ext) : Ctx → State → Act := actBra (offset18 f)
def bodySbraLong (_f : Base) (imm : Word) : Ctx → State → Act := actBra imm.toInt

def actSbrc (f : Base) (offset : Int) (c : Ctx) (s : State) : Act :=
  .done s (fun _ => if branchCond f (c.w.qreg s.part.oracle) then directTarget c.pc offset else c.next)

def bodySbrc (f : Base) (_x : Ext) : Ctx → State → Act := actSbrc f (offset12 f)
def bodySbrcLong (f : Base) (imm : Word) : Ctx → State → Act := actSbrc f imm.toInt

/-! ### BAR, R168 to R170 -/

/-- A barrier with arrivals of a count; a thread that has arrived is not counted again. -/
def Barrier.arrive (b : Barrier) (n : Nat) (ts : List Nat) : Barrier :=
  { b with count := some n, arrived := b.arrived ++ ts.filter (fun t => !b.arrived.contains t) }

def bodyBar (_f : Base) (x : Ext) (c : Ctx) (s : State) : Act :=
  if !c.on s then .done s (fun _ => c.next)
  else
    let id := mBits x 3 0
    let warps := c.g.warps.length
    let n := if mBits x 8 4 = 0 then warps else mBits x 8 4
    let b := nth c.g.bars id Barrier.start
    if warps < n || (b.count.map (fun k => k != n)).getD false then .trap { cause := causeBarMisuse, info0 := id }
    else if !s.part.quietOf c.ref then .hold 13
    else
      let here := c.group.map (fun l => c.ref.warp * 32 + l)
      let wait := !mBit x 9
      let join (g : Wg) : Wg :=
        let g := { g with bars := setNth g.bars id (b.arrive n here) }
        if wait then g.onWarp c.ref.warp (fun w =>
          w.onLanes c.group (fun t => { t with st := .live (.parked (.bar id c.size)), since := s.part.now })) else g
      let s := c.finish { s with part := s.part.onWg c.ref.core c.ref.slot join } (fun _ => if wait then c.pc else c.next)
      .stay { s with part := s.part.settle c.ref.core c.ref.slot }

/-! ### Buffer records, R171, R172 -/

def bodyBufmk (f : Base) (x : Ext) : Ctx → State → Act := uniAct (fun e =>
  let hi := (e.s (f.a.toNat + 1)).toNat % 2 ^ 25
  let perm := (if mBit x 0 then 2 ^ 25 else 0) + (if mBit x 1 then 2 ^ 26 else 0) + (if mBit x 2 then 2 ^ 27 else 0)
  sWrites f.d [e.s f.a.toNat, word (hi + perm + mBits x 4 3 * 2 ^ 28), e.s f.b.toNat, e.s x.c.toNat])

/-- A word with bits hi to lo replaced. -/
def putBits (w : Word) (hi lo v : Nat) : Word :=
  word (w.toNat - field w hi lo * 2 ^ lo + v % 2 ^ (hi + 1 - lo) * 2 ^ lo)

/-- Base VA of record words. -/
def recBase (w0 w1 : Word) : Nat := w0.toNat + 2 ^ 32 * field w1 24 0

/-- Words 0 and 1 with another base. -/
def setBase (w1 : Word) (va : Nat) : Word × Word := (word va, putBits w1 24 0 (va / 2 ^ 32))

/-- The record after BUFSET; none for an .ADV that traps BUF_BAD. -/
def bufset (c : FmtCtx) (fld : Nat) (w0 w1 w2 w3 : Word) (a : Nat) : Option (List Word) :=
  match fld with
  | 0 => some [word a, putBits w1 24 0 (a / 2 ^ 32), w2, w3]
  | 1 => some [w0, w1, word a, w3]
  | 2 => some [w0, w1, w2, putBits w3 15 0 a]
  | 3 => some [w0, w1, w2, putBits w3 20 16 a]
  | 4 => some [w0, w1, w2, putBits w3 24 21 a]
  | 5 => some [w0, putBits w1 29 25 a, w2, w3]
  | _ =>
    let stride := field w3 15 0
    let ent := c.entry (field w3 20 16)
    let go (bytes : Nat) : List Word :=
      let (b0, b1) := setBase w1 ((recBase w0 w1 + bytes) % 2 ^ 57)
      [b0, b1, word (w2.toNat - a), w3]
    if stride != 0 then some (go (a * stride))
    else if !ent.valid || ent.kind != kindBlock || a % 256 != 0 then none
    else some (go (a / 256 * groupBytes ent))

def bodyBufset (f : Base) (x : Ext) (c : Ctx) (s : State) : Act :=
  if !c.on s then .done s (fun _ => c.next)
  else
    let e := c.env s
    let d := f.d.toNat
    match bufset e.fmt (mBits x 2 0) (e.s d) (e.s (d + 1)) (e.s (d + 2)) (e.s (d + 3)) (e.sNum f.a x.wa) with
    | none => .trap { cause := causeBufBad, info0 := d }
    | some ws => .done (c.writeWarp s (sWrites f.d ws)) (fun _ => c.next)

/-! ### Layout slots, R173 -/

def bodyLayout (f : Base) (x : Ext) (c : Ctx) (s : State) : Act :=
  let slot := mBits x 2 0
  if !c.on s then .done s (fun _ => c.next)
  else if mBit x 3 then .done (c.writeWarp s (sWrites f.d (nth c.g.layouts slot [] ++ [0, 0]))) (fun _ => c.next)
  else
    let ws := ((c.env s).sGroup f.a x.wa).take 6
    .done { s with part := s.part.onWg c.ref.core c.ref.slot (fun g => { g with layouts := setNth g.layouts slot ws }) }
      (fun _ => c.next)

/-! ### The instructions -/

/-- SNOP, R106. -/
def execSnop (f : Base) (s : State) : Out :=
  issue ⟨.snop, f, .short⟩ s (bodySnop f Ext.absent)

/-- SADD, R161. -/
def execSadd (f : Base) (s : State) : Out :=
  issue ⟨.sadd, f, .short⟩ s (bodySadd f Ext.absent)

/-- SADD_LONG, R161. -/
def execSaddLong (f : Base) (x : Ext) (s : State) : Out :=
  issue ⟨.sadd, f, .long x⟩ s (bodySadd f x)

/-- SSUB, R161. -/
def execSsub (f : Base) (s : State) : Out :=
  issue ⟨.ssub, f, .short⟩ s (bodySsub f Ext.absent)

/-- SSUB_LONG, R161. -/
def execSsubLong (f : Base) (x : Ext) (s : State) : Out :=
  issue ⟨.ssub, f, .long x⟩ s (bodySsub f x)

/-- SMUL, R161. -/
def execSmul (f : Base) (s : State) : Out :=
  issue ⟨.smul, f, .short⟩ s (bodySmul f Ext.absent)

/-- SMUL_LONG, R161. -/
def execSmulLong (f : Base) (x : Ext) (s : State) : Out :=
  issue ⟨.smul, f, .long x⟩ s (bodySmul f x)

/-- SMAD, R161. -/
def execSmad (f : Base) (x : Ext) (s : State) : Out :=
  issue ⟨.smad, f, .long x⟩ s (bodySmad f x)

/-- SMIN, R161. -/
def execSmin (f : Base) (s : State) : Out :=
  issue ⟨.sminmax, f, .short⟩ s (bodySminmax f Ext.absent)

/-- SMIN_SMAX_LONG, R161. -/
def execSminSmaxLong (f : Base) (x : Ext) (s : State) : Out :=
  issue ⟨.sminmax, f, .long x⟩ s (bodySminmax f x)

/-- SAND, R161. -/
def execSand (f : Base) (s : State) : Out :=
  issue ⟨.sand, f, .short⟩ s (bodySand f Ext.absent)

/-- SAND_LONG, R161. -/
def execSandLong (f : Base) (x : Ext) (s : State) : Out :=
  issue ⟨.sand, f, .long x⟩ s (bodySand f x)

/-- SOR, R161. -/
def execSor (f : Base) (s : State) : Out :=
  issue ⟨.sor, f, .short⟩ s (bodySor f Ext.absent)

/-- SOR_LONG, R161. -/
def execSorLong (f : Base) (x : Ext) (s : State) : Out :=
  issue ⟨.sor, f, .long x⟩ s (bodySor f x)

/-- SXOR, R161. -/
def execSxor (f : Base) (s : State) : Out :=
  issue ⟨.sxor, f, .short⟩ s (bodySxor f Ext.absent)

/-- SXOR_LONG, R161. -/
def execSxorLong (f : Base) (x : Ext) (s : State) : Out :=
  issue ⟨.sxor, f, .long x⟩ s (bodySxor f x)

/-- SSHL, R161. -/
def execSshl (f : Base) (s : State) : Out :=
  issue ⟨.sshl, f, .short⟩ s (bodySshl f Ext.absent)

/-- SSHL_LONG, R161. -/
def execSshlLong (f : Base) (x : Ext) (s : State) : Out :=
  issue ⟨.sshl, f, .long x⟩ s (bodySshl f x)

/-- SSHR, R161. -/
def execSshr (f : Base) (s : State) : Out :=
  issue ⟨.sshr, f, .short⟩ s (bodySshr f Ext.absent)

/-- SSHR_LONG, R161. -/
def execSshrLong (f : Base) (x : Ext) (s : State) : Out :=
  issue ⟨.sshr, f, .long x⟩ s (bodySshr f x)

/-- SMOV, R161. -/
def execSmov (f : Base) (s : State) : Out :=
  issue ⟨.smov, f, .short⟩ s (bodySmov f Ext.absent)

/-- SMOV_LONG, R161. -/
def execSmovLong (f : Base) (x : Ext) (s : State) : Out :=
  issue ⟨.smov, f, .long x⟩ s (bodySmov f x)

/-- SMOVI, R161. -/
def execSmovi (f : Base) (imm : Word) (s : State) : Out :=
  issue ⟨.smovi, f, .imm imm⟩ s (bodySmovi f imm)

/-- SADDI, R161. -/
def execSaddi (f : Base) (imm : Word) (s : State) : Out :=
  issue ⟨.saddi, f, .imm imm⟩ s (bodySaddi f imm)

/-- SSET, R162. -/
def execSset (f : Base) (x : Ext) (s : State) : Out :=
  issue ⟨.sset, f, .long x⟩ s (bodySset f x)

/-- SSEL, R163. -/
def execSsel (f : Base) (x : Ext) (s : State) : Out :=
  issue ⟨.ssel, f, .long x⟩ s (bodySsel f x)

/-- S2S, R164. -/
def execS2s (f : Base) (s : State) : Out :=
  issue ⟨.s2s, f, .short⟩ s (bodyS2s f Ext.absent)

/-- S2S_LONG, R164. -/
def execS2sLong (f : Base) (x : Ext) (s : State) : Out :=
  issue ⟨.s2s, f, .long x⟩ s (bodyS2s f x)

/-- V2S, R165. -/
def execV2s (f : Base) (x : Ext) (s : State) : Out :=
  issue ⟨.v2s, f, .long x⟩ s (bodyV2s f x)

/-- SBCAST, R166. -/
def execSbcast (f : Base) (x : Ext) (s : State) : Out :=
  issue ⟨.sbcast, f, .long x⟩ s (bodySbcast f x)

/-- SBRA, R167. -/
def execSbra (f : Base) (s : State) : Out :=
  issue ⟨.sbra, f, .short⟩ s (bodySbra f Ext.absent)

/-- SBRA_LONG, R167. -/
def execSbraLong (f : Base) (imm : Word) (s : State) : Out :=
  issue ⟨.sbra, f, .imm imm⟩ s (bodySbraLong f imm)

/-- SBRC, R167. -/
def execSbrc (f : Base) (s : State) : Out :=
  issue ⟨.sbrc, f, .short⟩ s (bodySbrc f Ext.absent)

/-- SBRC_LONG, R167. -/
def execSbrcLong (f : Base) (imm : Word) (s : State) : Out :=
  issue ⟨.sbrc, f, .imm imm⟩ s (bodySbrcLong f imm)

/-- BAR, R169. -/
def execBar (f : Base) (x : Ext) (s : State) : Out :=
  issue ⟨.bar, f, .long x⟩ s (bodyBar f x)

/-- BUFMK, R171. -/
def execBufmk (f : Base) (x : Ext) (s : State) : Out :=
  issue ⟨.bufmk, f, .long x⟩ s (bodyBufmk f x)

/-- BUFSET, R172. -/
def execBufset (f : Base) (x : Ext) (s : State) : Out :=
  issue ⟨.bufset, f, .long x⟩ s (bodyBufset f x)

/-- LAYOUT, R173. -/
def execLayout (f : Base) (x : Ext) (s : State) : Out :=
  issue ⟨.layout, f, .long x⟩ s (bodyLayout f x)

end Sys2Proof.Machine
end

