-- ==== Sys2Proof/Machine/TileCmds.lean ====
section
/-! DEFINITION. Tile commands: their checks and dispatch at issue (R174, R176 to R193) and their running by the array
sequencer (R175, R194, R342). -/

namespace Sys2Proof.Machine

/-! ### What an issue finds out -/

/-- A tile command ready to be dispatched: the command, the format entries it names, the bytes it reads in its own
window and in the window of its B operand, and the bytes it writes. -/
structure TilePlan where
  cmd : TileCmd
  names : List Nat
  reads : List (Nat × Nat)
  peerReads : List (Nat × Nat)
  writes : List (Nat × Nat)
  /-- Registers that the command writes, by lane, with their tag. -/
  regs : List PendLane

/-- The command of the instruction at hand with what every form captures. -/
def Ctx.tileCmd (c : Ctx) (e : Env) : TileCmd :=
  { id := 0, w := c.ref, number := 0, op := c.parts.op, m := mBits c.x 13 0, d := c.f.d.toNat, a := c.f.a.toNat,
    pairA := e.sPair c.f.a, pairB := e.sPair c.f.b, pairD := e.sPair c.f.d, rows := 64, cols := 128, kv := 0,
    base := 0, entryA := Entry.empty, entryB := Entry.empty, srcTag := tagFp32, outTag := none,
    peer := (c.ref.core, c.ref.slot), vregs := [], pend := none, fmt := e.fmt, waits := none, failed := false }

def TilePlan.of (cmd : TileCmd) (names : List Nat) : TilePlan := ⟨cmd, names, [], [], [], []⟩

/-- TILE_BAD with the code of R280: 0 A, 1 B, 2 D, 3 edge word. -/
def tileBad (code : Nat) : TrapInfo := { cause := causeTileBad, info0 := code }

def check (ok : Bool) (t : TrapInfo) : Except TrapInfo Unit := if ok then .ok () else .error t

/-- The edge of an edge word; TILE_BAD where it breaks R180. -/
def edgeFor (w : Word) (kvOk peerOk : Bool) : Except TrapInfo Edge :=
  match edgeOf w kvOk peerOk with
  | none => .error (tileBad 3)
  | some e => .ok e

/-- The edge of field C under EDGE. -/
def Ctx.edge (c : Ctx) (e : Env) (kvOk peerOk : Bool) : Except TrapInfo Edge :=
  if mBit c.x 3 then edgeFor (e.s c.x.c.toNat) kvOk peerOk else .ok Edge.whole

/-- Steps 1 and 2 of R93 for the tag of a tile, and a further condition (FMT_MISMATCH). -/
def checkTile (c : FmtCtx) (t : Nat) (g : Byte) (ok : Entry → Bool) : Except TrapInfo Entry :=
  let i := tagIndex g
  let f := c.entry i
  if !tagValid g || !f.valid then .error (fmtTrap causeFmtIllegal t 1 i g)
  else if tagGen g != f.gen % 4 then .error (fmtTrap causeFmtStale t 1 i g)
  else if ok f then .ok f
  else .error (fmtTrap causeFmtMismatch t 1 i g)

/-- A tile that must hold FP32. -/
def checkFp32Tile (c : FmtCtx) (t : Nat) (g : Byte) : Except TrapInfo Entry :=
  checkTile c t g (fun _ => g == tagFp32)

/-- Steps 1 and 4 of R93 for a format index. -/
def checkIndex (c : FmtCtx) (i : Nat) (accepts : Entry → Bool) : Except TrapInfo Entry :=
  let f := c.entry i
  if !f.valid then .error (fmtTrap causeFmtIllegal 0 2 i (c.tagOf i))
  else if accepts f then .ok f
  else .error (indexMismatch c i)

/-- The pair of a tile of 64 × 128 keeps R177 and R178. -/
def Pair.tileOk (p : Pair) (c : FmtCtx) : Bool := p.ok (c.entry p.fmt) (if p.t then 64 else 128) false

/-! ### The plans of the eight commands -/

/-- MMA from its operand words (R183 to R185): `asrc`, the peer bit, the tiles and the edge. The peer of A is tested before its
bounds: DESIGN CHOICE, log entry 24. -/
def mmaPlan (c : Ctx) (s : State) (cmd : TileCmd) (peer : Bool) (edge : Except TrapInfo Edge) : Except TrapInfo TilePlan := do
  let fc := cmd.fmt
  let asrc := cmd.m % 4
  let pa := pairOf cmd.pairA
  let pb := pairOf cmd.pairB
  let fa := fc.entry pa.fmt
  let fb := fc.entry pb.fmt
  check (asrc != 0 || pa.ok fa (if pa.t then 64 else classK fa) false) (tileBad 0)
  check (pb.ok fb (if pb.t then classK fb else 128) true) (tileBad 1)
  let ed ← edge
  if asrc = 0 then
    let _ ← checkIndex fc pa.fmt mmaAccepts
  let _ ← checkIndex fc pb.fmt mmaAccepts
  let dTag := c.tagAhead s cmd.d
  let _ ← checkFp32Tile fc cmd.d dTag
  if asrc != 0 then
    let _ ← checkFp32Tile fc cmd.a (c.tagAhead s cmd.a)
  let k := classK fb
  let fits := match asrc with
    | 0 => classK fa == k
    | 1 => k == 64
    | _ => k == 128
  check (fits && (asrc == 0 || cmd.a != cmd.d)) (trapOf causeMmaBad)
  check (decide (ed.kv ≤ k)) (tileBad 3)
  let win ← match c.window peer ed.peer with
    | none => .error (trapOf causeProt)
    | some w => .ok w
  let kv := if ed.kv = 0 then k else ed.kv
  let cmd := { cmd with rows := ed.rows, cols := ed.cols, kv := kv, entryA := fa, entryB := fb, peer := win,
                        outTag := some tagFp32 }
  let names := (if asrc = 0 then [pa.fmt] else [tagIndex (c.tagAhead s cmd.a)]) ++ [pb.fmt, tagIndex dTag]
  .ok { TilePlan.of cmd names with
    reads := if asrc = 0 then pa.ranges fa false ed.rows kv else []
    peerReads := pb.ranges fb false kv ed.cols }

def planMma (c : Ctx) (s : State) (e : Env) : Except TrapInfo TilePlan :=
  mmaPlan c s (c.tileCmd e) (mBit c.x 4) (c.edge e true (mBit c.x 4))

def planTzero (c : Ctx) (_s : State) (e : Env) : Except TrapInfo TilePlan := do
  let i := mBits c.x 4 0
  let _ ← checkIndex e.fmt i (fun f => f.epw == 1)
  .ok (TilePlan.of { c.tileCmd e with outTag := some (e.fmt.tagOf i) } [i])

def planTld (c : Ctx) (_s : State) (e : Env) : Except TrapInfo TilePlan := do
  let cmd := c.tileCmd e
  let q := pairOf cmd.pairA
  check (q.tileOk e.fmt) (tileBad 0)
  let ed ← c.edge e false false
  let f ← checkIndex e.fmt q.fmt (fun f => copiesBits f || (f.kind != kindRaw && f.epw != 15))
  let tag := if copiesBits f then e.fmt.tagOf q.fmt else tagFp32
  .ok { TilePlan.of { cmd with rows := ed.rows, cols := ed.cols, entryA := f, outTag := some tag } [q.fmt] with
    reads := q.ranges f false ed.rows ed.cols }

def planTst (c : Ctx) (s : State) (e : Env) : Except TrapInfo TilePlan := do
  let cmd := c.tileCmd e
  let q := pairOf cmd.pairD
  check (q.tileOk e.fmt) (tileBad 2)
  let ed ← c.edge e false false
  let g := c.tagAhead s cmd.a
  let same := q.fmt == tagIndex g
  let f ← checkIndex e.fmt q.fmt (fun f => f.epw != 15 && (same || f.kind != kindRaw))
  let _ ← checkTile e.fmt cmd.a g (fun x => x.epw == 1 && (same || x.kind != kindRaw))
  .ok { TilePlan.of { cmd with rows := ed.rows, cols := ed.cols, entryA := f, srcTag := g } [q.fmt, tagIndex g] with
    writes := q.ranges f true ed.rows ed.cols }

/-- Values of a group of v registers by lane. -/
def Env.laneWords (e : Env) (rs : List Nat) : List (Nat × List Word) := e.acting.map (fun l => (l, e.words l rs))

/-- The outstanding write of a tile command on one lane. -/
def tilePend (lane : Nat) (rs : List Nat) (tag : Byte) : PendLane :=
  { lane := lane, targets := rs.map Target.v, tags := rs.map (fun _ => tag), values := none, bytes := [], form := .whole }

def planTred (c : Ctx) (s : State) (e : Env) : Except TrapInfo TilePlan := do
  let cmd := c.tileCmd e
  let rd := groupRegs c.f.d 1
  let ed ← c.edge e false false
  if mBit c.x 2 then
    let _ ← allOk (fun l => both (checkGroup e l rd) (checkEqual e l tagFp32 rd)) e.acting
  let g := c.tagAhead s cmd.a
  let _ ← checkFp32Tile e.fmt cmd.a g
  let inside (l : Nat) : List Nat := ([0, 1].filter (fun k => decide (l + 32 * k < ed.rows))).map (fun k => c.f.d.toNat + k)
  .ok { TilePlan.of { cmd with rows := ed.rows, cols := ed.cols, vregs := e.laneWords rd, srcTag := g } [tagIndex g] with
    regs := (e.acting.map (fun l => tilePend l (inside l) tagFp32)).filter (fun p => !p.targets.isEmpty) }

def planTscal (c : Ctx) (s : State) (e : Env) : Except TrapInfo TilePlan := do
  let cmd := c.tileCmd e
  let base := e.s c.f.b.toNat
  check (base.toNat % 16 == 0) (tileBad 1)
  let ed ← c.edge e false false
  let g := c.tagAhead s cmd.a
  let _ ← checkFp32Tile e.fmt cmd.a g
  .ok { TilePlan.of { cmd with rows := ed.rows, cols := ed.cols, base := base, outTag := some tagFp32 } [tagIndex g] with
    reads := [(base.toNat, 4 * (if mBit c.x 0 then ed.cols else ed.rows))] }

def planTopk (c : Ctx) (s : State) (e : Env) : Except TrapInfo TilePlan := do
  let cmd := c.tileCmd e
  let pad := mBit c.x 1
  let q := pairOf cmd.pairA
  check (!pad || q.tileOk e.fmt) (tileBad 0)
  let ed ← edgeFor (e.s (c.x.c.toNat + 1)) false false
  let g := c.tagAhead s cmd.a
  let f ← if pad then checkIndex e.fmt q.fmt (fun f => f.kind == kindFloat || f.kind == kindBlock)
    else checkFp32Tile e.fmt cmd.a g
  check (pad || cmd.a != cmd.d) (trapOf causeTopkBad)
  .ok { TilePlan.of { cmd with rows := ed.rows, cols := ed.cols, base := e.s c.x.c.toNat, entryA := f, outTag := some tagRaw32 }
      [if pad then q.fmt else tagIndex g] with
    reads := if pad then q.ranges f false ed.rows ed.cols else [] }

def planTmov (c : Ctx) (s : State) (e : Env) : Except TrapInfo TilePlan := do
  let cmd := c.tileCmd e
  let row := mBits c.x 5 0
  if mBit c.x 8 then
    let ra := groupRegs c.f.a c.x.wa
    check (decide (row + ra.length ≤ 64)) (tileBad 2)
    let _ ← allOk (fun l => checkGroup e l ra) e.acting
    let g := e.tag (e.acting.headD 0) c.f.a.toNat
    let _ ← allOk (fun l => both (checkEqual e l g ra) (checkKinds e l (fun f => f.epw == 1) ra)) e.acting
    .ok (TilePlan.of { cmd with vregs := e.laneWords ra, srcTag := g, outTag := some g } [tagIndex g])
  else
    let rd := groupRegs c.f.d c.x.wd
    check (decide (row + rd.length ≤ 64)) (tileBad 0)
    let g := c.tagAhead s cmd.a
    .ok { TilePlan.of { cmd with vregs := e.laneWords rd, srcTag := g } [tagIndex g] with
      regs := e.acting.map (fun l => tilePend l rd g) }

/-! ### Steps 4 to 6 of R174 -/

/-- Step 4. -/
def TilePlan.space (q : TilePlan) (c : Ctx) (s : State) : Option TrapInfo :=
  let peerSize := ((s.part.wg? q.cmd.peer.1 q.cmd.peer.2).map (·.scratch)).getD 0
  (oobTrap c.g.scratch (q.reads ++ q.writes)).orElse fun _ =>
  (oobTrap peerSize q.peerReads).orElse fun _ => ringTrap c.g.scratch q.writes

/-- Step 5: the empty lines that the command waits for, in one window after the other. -/
def TilePlan.empty (q : TilePlan) (c : Ctx) (s : State) : Option WaitFor :=
  let own := c.g.emptyLines (linesTouched q.reads)
  let peer := match s.part.wg? q.cmd.peer.1 q.cmd.peer.2 with
    | none => []
    | some g => g.emptyLines (linesTouched q.peerReads)
  if !own.isEmpty then some (.lines c.ref.core c.ref.slot own)
  else if !peer.isEmpty then some (.lines q.cmd.peer.1 q.cmd.peer.2 peer)
  else none

def arrayQueueSize : Nat := 16

/-- The array queue of the core has no entry free. -/
def Part.arrayFull (p : Part) (core : Nat) : Bool :=
  match p.core? core with
  | none => true
  | some k => decide (arrayQueueSize ≤ k.arrayQueue.length)

/-- Put a command into the array queue under the workgroup's next MT number. -/
def Part.enqueueTile (p : Part) (x : TileCmd) : Part :=
  let n := ((p.wg? x.w.core x.w.slot).map (fun g => g.mt.issued)).getD 0 + 1
  let x := { x with id := p.nextCommand, number := n }
  let p := { p with nextCommand := p.nextCommand + 1 }
  let p := p.onWg x.w.core x.w.slot (fun g => { g with mt := g.mt.take })
  p.onCore x.w.core (fun k => { k with arrayQueue := k.arrayQueue ++ [x] })

/-- Step 6: dispatch. -/
def TilePlan.dispatch (q : TilePlan) (c : Ctx) (s : State) : State :=
  let cmd := { q.cmd with pend := if q.regs.isEmpty then none else some c.w.seq }
  let s := c.markDispatched { s with part := s.part.enqueueTile cmd }
  if q.regs.isEmpty then s else c.write s q.regs 0

/-- The act of a tile command. -/
def tileAct (plan : Ctx → State → Env → Except TrapInfo TilePlan) (c : Ctx) (s : State) : Act :=
  if !c.on s then .done s (fun _ => c.next)
  else
    match plan c s (c.env s) with
    | .error t => .trap t
    | .ok q =>
      match q.space c s with
      | some t => .trap t
      | none =>
        match q.empty c s with
        | some w => .stay (c.parkAt (c.markIssued s q.names) w)
        | none =>
          if s.part.arrayFull c.ref.core then .holdState (c.markIssued s q.names) 12
          else .done (q.dispatch c s) (fun _ => c.next)

/-! ### The instructions -/

/-- MMA, R183. -/
def execMma (f : Base) (x : Ext) (s : State) : Out :=
  issue ⟨.mma, f, .long x⟩ s (tileAct planMma)

/-- TZERO, R186. -/
def execTzero (f : Base) (x : Ext) (s : State) : Out :=
  issue ⟨.tzero, f, .long x⟩ s (tileAct planTzero)

/-- TLD, R187. -/
def execTld (f : Base) (x : Ext) (s : State) : Out :=
  issue ⟨.tld, f, .long x⟩ s (tileAct planTld)

/-- TST, R188. -/
def execTst (f : Base) (x : Ext) (s : State) : Out :=
  issue ⟨.tst, f, .long x⟩ s (tileAct planTst)

/-- TRED, R190. -/
def execTred (f : Base) (x : Ext) (s : State) : Out :=
  issue ⟨.tred, f, .long x⟩ s (tileAct planTred)

/-- TSCAL, R191. -/
def execTscal (f : Base) (x : Ext) (s : State) : Out :=
  issue ⟨.tscal, f, .long x⟩ s (tileAct planTscal)

/-- TOPK, R192. -/
def execTopk (f : Base) (x : Ext) (s : State) : Out :=
  issue ⟨.topk, f, .long x⟩ s (tileAct planTopk)

/-- TMOV, R189. -/
def execTmov (f : Base) (x : Ext) (s : State) : Out :=
  issue ⟨.tmov, f, .long x⟩ s (tileAct planTmov)

/-! ### The array sequencer, R175, R194, R342 -/

/-- The entry that starts next: the oldest one that is the first of its workgroup and does not wait for a copy. -/
def nextTile (q : List TileCmd) : Option TileCmd :=
  q.find? (fun x => x.waits.isNone && !q.any (fun y => y.w.slot == x.w.slot && decide (y.number < x.number)))

/-- TILE_COMMAND_START: one command at a time; an MMA begins narrowed under an alarm. -/
def execTileCommandStart (core : Nat) (s : State) : Out :=
  .next (match s.part.core? core with
    | none => s
    | some k =>
      match k.running, nextTile k.arrayQueue with
      | none, some x =>
        let alarm := (s.part.die (dieOf core)).alarm
        let narrow := if x.op = .mma then alarm else k.narrow
        { s with part := s.part.onCore core (fun k =>
          { k with running := some x, arrayQueue := k.arrayQueue.filter (fun y => y.id != x.id), narrow := narrow }) }
      | _, _ => s)

/-- Values of a tile command reach its issuing warp and commit. -/
def Warp.takeValues (w : Warp) (pend : Option Nat) (vs : List (Nat × List Word)) : Warp :=
  match pend with
  | none => w
  | some id => (vs.foldl (fun w v => w.answerLane id v.1 v.2) w).commitEntry id

/-- Flags of an engine command reach FSTAT, and an enabled one queues its trap, R97. -/
def Part.engineFlags (p : Part) (r : WarpRef) (fl : Flags) (tl n : Nat) : Part :=
  let p := p.onWarp r (fun w => { w with fstat := w.fstat ||| fl })
  match (p.warp? r).bind (fun w => enabledTrap w.ften fl) with
  | none => p
  | some cause => p.engineTrap r cause 0 tl n

/-- The effects of a command that runs. It reads and writes its scratchpad bytes as it completes, where R175 leaves open, word by
word, what is seen of writes since its dispatch: DESIGN CHOICE, log entry 24. -/
def Part.finishTile (p : Part) (x : TileCmd) (g : Wg) : Part :=
  let o := x.run p g
  let p := match o.tile with
    | none => p
    | some t => p.onWg x.w.core x.w.slot (fun g => { g with tiles := setNth g.tiles x.d t })
  let p := o.bytes.foldl (fun p b => p.winWrite x.w.core x.w.slot b.1 b.2) p
  let p := p.onWarp x.w (fun w => w.takeValues x.pend o.values)
  (p.charge x.w.core x.w.slot (x.passes)).engineFlags x.w o.flags 1 x.number

/-- TILE_COMMAND_COMPLETE: the running command takes its effect, or none when its copy failed (R205). -/
def execTileCommandComplete (core : Nat) (s : State) : Out :=
  .next (match (s.part.core? core).bind (·.running) with
    | none => s
    | some x =>
      let p := match s.part.wg? x.w.core x.w.slot with
        | none => s.part
        | some g => if x.failed then s.part else s.part.finishTile x g
      let alarm := (p.die (dieOf core)).alarm
      let p := p.onCore core (fun k =>
        { k with running := none, narrow := if x.op = .mma then k.narrow && alarm else k.narrow })
      let p := p.onWg x.w.core x.w.slot (fun g => { g with mt := g.mt.complete x.number x.failed })
      { s with part := p.wakeSlot x.w.core x.w.slot (fun w => w == .timeline) })

end Sys2Proof.Machine
end

