-- ==== Sys2Proof/Machine/Completion.lean ====
section
/-! DEFINITION. The levels of completion that a warp waits on: timelines (R196, R197), full/empty lines (R208, R209) and
transaction barriers (R210 to R213, R445). -/

namespace Sys2Proof.Machine

/-! ### TLWAIT, TLGET, R196, R197 -/

/-- A timeline by its code: CT and MT of the workgroup, XT of its launch. -/
def Part.timeline (p : Part) (g : Wg) (tl : Nat) : Timeline :=
  match tl with
  | 0 => g.ct
  | 1 => g.mt
  | _ => ((p.launch? g.launch).map (·.xt)).getD Timeline.zero

/-- TLWAIT acquires at .DV for the global writes of the commands it covers. -/
def bodyTlwait (f : Base) (x : Ext) (c : Ctx) (s : State) : Act :=
  if !c.on s then .done s (fun _ => c.next)
  else
    let e := c.env s
    let t := s.part.timeline c.g (mBits x 1 0)
    let v := pairNat (e.s f.a.toNat) (e.s (f.a.toNat + 1))
    if t.issued < v then .trap (trapOf causeTlError)
    else if t.completed < v then .park .timeline
    else
      let s := if v = 0 then s else { s with part := s.part.onCore c.ref.core (fun k => (k.see t.clock).acquire) }
      .done (c.writeWarp s [(.q f.d.toNat, wordOfBool (t.errUpTo v))]) (fun _ => c.next)

/-- TLGET that shows commands complete orders the writes of their fix-up lists before later loads (R355). -/
def bodyTlget (f : Base) (x : Ext) (c : Ctx) (s : State) : Act :=
  if !c.on s then .done s (fun _ => c.next)
  else
    let tl := mBits x 1 0
    let t := s.part.timeline c.g tl
    let v := match mBits x 3 2 with
      | 0 => t.completed
      | 1 => if tl = 2 then c.g.xtLast else t.issued
      | _ => t.errFirst
    let lists (k : Core) : Core := t.listLines.foldl Core.forget (k.see t.listClock)
    let s := if mBits x 3 2 != 1 && v != 0 && !t.listLines.isEmpty then { s with part := s.part.onCore c.ref.core lists } else s
    .done (c.writeWarp s (sWrites f.d [word v, word (v / 2 ^ 32)])) (fun _ => c.next)

/-! ### FEMARK, FEFILL, R208, R209 -/

/-- Mark lines of a window full or empty. -/
def Wg.markLines (g : Wg) (full : Bool) (ls : List Nat) : Wg :=
  ls.foldl (fun g l => g.setLine l { g.lineState l with full := full }) g

def actLines (full : Bool) (f : Base) (c : Ctx) (s : State) : Act :=
  if !c.on s then .done s (fun _ => c.next)
  else
    let e := c.env s
    let a := (e.s f.a.toNat).toNat
    let n := (e.s f.b.toNat).toNat
    let rs := [(a, 128 * n)]
    if a % 128 != 0 then .trap { cause := causeMisalign, addr := a }
    else if n = 0 then .trap { cause := causeOob, addr := a }
    else
      match (oobTrap c.g.scratch rs).orElse (fun _ => ringTrap c.g.scratch rs) with
      | some t => .trap t
      | none =>
        let ls := (List.range n).map (fun i => a / 128 + i)
        let p := s.part.onWg c.ref.core c.ref.slot (fun g => g.markLines full ls)
        .done { s with part := p.wakeLines c.ref.core c.ref.slot } (fun _ => c.next)

def bodyFemark (f : Base) (_x : Ext) : Ctx → State → Act := actLines false f
def bodyFefill (f : Base) (_x : Ext) : Ctx → State → Act := actLines true f

/-! ### Transaction barriers, R210 -/

structure TBarrier where
  phase : Bool
  err : Bool
  epend : Bool
  pending : Nat
  count : Nat
  balance : Int
  deriving DecidableEq, Repr

/-- The 16 bytes of a barrier. -/
def TBarrier.ofBytes (bs : List Byte) : TBarrier :=
  let n := leNat bs
  { phase := n.testBit 31, err := n.testBit 30, epend := n.testBit 29, pending := n % 2 ^ 16,
    count := n / 2 ^ 32 % 2 ^ 16, balance := toSigned 64 (n / 2 ^ 64) }

/-- Its bytes over those that stand there: reserved bits keep their values. -/
def TBarrier.bytes (b : TBarrier) (old : List Byte) : List Byte :=
  let n := leNat old
  let bit (v : Bool) (i : Nat) : Nat := if v then 2 ^ i else 0
  let w0 := bit b.phase 31 + bit b.err 30 + bit b.epend 29 + n / 2 ^ 16 % 2 ^ 13 * 2 ^ 16 + b.pending
  let w1 := n / 2 ^ 48 % 2 ^ 16 * 2 ^ 16 + b.count
  leBytes 4 w0 ++ leBytes 4 w1 ++ leBytes 8 (wrapInt 64 b.balance)

/-- The flip rule, R212. -/
def TBarrier.settle (b : TBarrier) : TBarrier :=
  if b.pending = 0 && b.balance == 0 then
    { b with err := b.epend, epend := false, phase := !b.phase, pending := b.count }
  else b

/-- One step at the home slice, R211; none where a TBARV is refused. -/
def TBarrier.update (b : TBarrier) (kind : Nat) (value : Int) (error : Bool) : Option TBarrier :=
  match kind with
  | 0 => some { phase := false, err := false, epend := false, pending := value.toNat, count := value.toNat, balance := 0 }
  | 2 => if b.pending = 0 then none else some ({ b with pending := b.pending - 1, balance := b.balance + value }.settle)
  | _ => some ({ b with balance := b.balance + value, epend := b.epend || error }.settle)

/-- The reserved bits are written 0 by TBINIT. -/
def tbBase (kind : Nat) (old : List Byte) : List Byte := if kind = 0 then List.replicate 16 0 else old

/-! ### The barrier instructions, R211, R213 -/

/-- The barrier a record and TBI name: its address, or the trap of R33 and R210. -/
def tbAddress (c : Ctx) (e : Env) (r : BitVec 6) (tbi : Nat) : Except TrapInfo Nat :=
  let q := e.record r.toNat
  let a := q.base + 16 * tbi
  if !q.formOk e.fmt then .error (c.groupTrap { cause := causeBufBad, info0 := q.reg })
  else if q.stride != 16 || !q.a || decide (q.extent ≤ tbi) || a % 16 != 0 then .error { cause := causeTbBad, addr := a }
  else .ok a

/-- What the maker of an update learns: a TBARV its answer, a copy that its posting has been performed. -/
def Part.tbAnswer (p : Part) (kind : Nat) (w : WarpRef) (command : Option Nat) (ok : Bool) : Part :=
  match kind, command with
  | 2, _ => p.onWarp w (fun x => { x with answer := x.answer.map (fun a => (a.1, some ok.toNat)) })
  | 3, some id =>
    let mark (q : Command) : Command := if q.id = id then { q with posted := true } else q
    let p : Part := { p with cores := p.cores.map (fun k => { k with copyQueue := k.copyQueue.map mark }) }
    { p with dies := p.dies.map (fun d => { d with collQueue := d.collQueue.map mark }) }
  | _, _ => p

/-- Send a barrier update to its home slice, with the clock of the landings it counts, or to a peer; on a route without a port it
is lost (R367). -/
def Part.sendTb (p : Part) (w : WarpRef) (pc kind loc va : Nat) (value : Int) (error : Bool) (command : Option Nat) (clock : List Nat) : Part :=
  if isDevice loc then
    let p := p.onCore w.core (fun k => if kind < 3 then k.copyBack (lineOf loc) else k)
    let after := ((p.core? w.core).map (·.nextId)).getD 0
    { p with tbUpdates := p.tbUpdates ++ [⟨p.nextCommand, loc, kind, value, error, w, command, after, clock, pc, va⟩],
             nextCommand := p.nextCommand + 1 }
  else
    match p.portOf loc with
    | none => (p.cutLanes w none [0] va).tbAnswer kind w command true
    | some port => p.sendRemote { remoteReq 8 loc w pc with
        va := va, command := command, port := some port, op := kind, data := leBytes 8 (wrapInt 64 value),
        count := if error then 1 else 0 }

/-- TBINIT and TBEXP: the update leaves, and the warp goes on. -/
def actTbPost (kind : Nat) (value : Word → Option Int) (f : Base) (x : Ext) (c : Ctx) (s : State) : Act :=
  if !c.on s then .done s (fun _ => c.next)
  else
    let e := c.env s
    match tbAddress c e f.a (mBits x 12 9) with
    | .error t => .trap t
    | .ok a =>
      match value (e.s f.b.toNat) with
      | none => .trap { cause := causeTbBad, addr := a }
      | some v =>
        if s.part.acquiring c.ref then .hold 13
        else c.placed s a (fun p loc =>
          if p.lineBusy c.ref false [lineOf loc] [] then .hold 13
          else .done { s with part := p.sendTb c.ref c.pc kind loc a v false none [0, 0, 0, 0] } (fun _ => c.next))

/-- A count of TBINIT. -/
def tbCount (w : Word) : Option Int := if w.toNat = 0 || decide (65535 < w.toNat) then none else some w.toNat

def bodyTbinit (f : Base) (x : Ext) : Ctx → State → Act := actTbPost 0 tbCount f x

def bodyTbexp (f : Base) (x : Ext) : Ctx → State → Act := actTbPost 1 (fun w => some w.toInt) f x

/-- The answer that the instruction at hand awaits. -/
def Ctx.awaited (c : Ctx) : Option (Option Nat) := (c.w.answer.filter (fun a => a.1 == c.pc)).map (·.2)

def Part.setAnswer (p : Part) (r : WarpRef) (a : Option (Nat × Option Nat)) : Part :=
  p.onWarp r (fun w => { w with answer := a })

/-- TBARV: its release, then its update, whose answer it awaits: 1 performed, 0 refused. -/
def bodyTbarv (f : Base) (x : Ext) (c : Ctx) (s : State) : Act :=
  if !c.on s then .done s (fun _ => c.next)
  else
    let e := c.env s
    match tbAddress c e f.a (mBits x 12 9) with
    | .error t => .trap t
    | .ok a =>
      let clear := { s with part := s.part.setAnswer c.ref none }
      match c.awaited with
      | some none => .hold 13
      | some (some 0) => .trapState clear { cause := causeTbBad, addr := a }
      | some (some _) => .done clear (fun _ => c.next)
      | none =>
        c.placed s a (fun p loc =>
          c.releaseFirst { s with part := p } true (mBits x 2 0) (fun s =>
            let n : Int := if mBit x 8 then (e.s f.b.toNat).toInt else 0
            if !isDevice loc && (s.part.portOf loc).isNone then
              .done { s with part := s.part.cutLanes c.ref none c.group a } (fun _ => c.next)
            else
              let p := (s.part.setAnswer c.ref (some (c.pc, none))).sendTb c.ref c.pc 2 loc a n false none [0, 0, 0, 0]
              .holdState { s with part := p } 13))

/-- The barrier's bytes as the wait sees them: at the home, after the warp's own accesses, once its die has applied the writes
behind them (R262); none before. Those in a peer are read anew each time. -/
def State.tbRead (s : State) (c : Ctx) (loc : Nat) : Option (List Byte) :=
  if isDevice loc then
    let ready := s.part.atHome c.ref.core (lineOf loc) && !s.part.aheadOfHome (dieOf c.ref.core) (lineOf loc) &&
      (s.part.homeStamps loc 16).all (fun st => s.part.applied (dieOf c.ref.core) st.vc)
    if !ready || s.part.lineBusy c.ref false [lineOf loc] [] then none else some (s.homeRead loc 16)
  else ((s.part.syncReads c.ref c.pc).find? (fun q => q.op == 1)).map (·.data)

/-- The clock of a barrier in device memory covers the landings and releases of its phase, which the wait makes visible at
every scope (R213, R257). A pending CANCEL trap ends a wait that would park, with no effect (R213): its thread reaches no safe
point while it waits (DEDUCED, log entry 13). -/
def bodyTbwait (f : Base) (x : Ext) (c : Ctx) (s : State) : Act :=
  if !c.on s then .done s (fun _ => c.next)
  else
    match tbAddress c (c.env s) f.a (mBits x 12 9) with
    | .error t => .trap t
    | .ok a =>
      if s.part.acquiring c.ref then .hold 13
      else c.placed s a (fun p loc =>
        let s := { s with part := p }
        let mine := s.part.syncReads c.ref c.pc
        let reread (s : State) : Act :=
          if s.part.stepping c.ref then .stay (c.parkAt s .phase)
          else if (s.part.portOf loc).isNone && locTarget loc = 2 then
            .done { s with part := s.part.cutLanes c.ref none c.group a } (fun _ => c.next)
          else .holdState { s with part := s.part.sendRemote { remoteReq 0 loc c.ref c.pc with
            va := a, count := 16, port := s.part.portOf loc } } 7
        match s.tbRead c loc with
        | none =>
          if isDevice loc then
            .holdState { s with part := s.part.onCore c.ref.core (fun k => k.copyBack (lineOf loc)) } 13
          else if mine.any (fun q => q.op == 2) then
            .done { s with part := s.part.dropReads mine } (fun _ => c.next)
          else if mine.isEmpty then reread s else .hold 7
        | some bs =>
          let b := TBarrier.ofBytes bs
          let s := { s with part := s.part.dropReads mine }
          if b.phase = mBit x 8 then
            (match c.cancelled s c.group with
              | some (s, t) => .trapState s t
              | none => if isDevice loc then .stay (c.parkAt s .phase) else reread s)
          else
            let vc := (s.part.die (homeDie loc)).vc
            let acquire (k : Core) : Core := (if isDevice loc then k.see vc else k).acquire
            .done (c.writeWarp { s with part := s.part.onCore c.ref.core acquire } [(.q f.d.toNat, wordOfBool b.err)])
              (fun _ => c.next))

/-! ### The instructions -/

/-- TLWAIT, R196. -/
def execTlwait (f : Base) (x : Ext) (s : State) : Out :=
  issue ⟨.tlwait, f, .long x⟩ s (bodyTlwait f x)

/-- TLGET, R197. -/
def execTlget (f : Base) (x : Ext) (s : State) : Out :=
  issue ⟨.tlget, f, .long x⟩ s (bodyTlget f x)

/-- FEMARK, R208. -/
def execFemark (f : Base) (x : Ext) (s : State) : Out :=
  issue ⟨.femark, f, .long x⟩ s (bodyFemark f x)

/-- FEFILL, R208. -/
def execFefill (f : Base) (x : Ext) (s : State) : Out :=
  issue ⟨.fefill, f, .long x⟩ s (bodyFefill f x)

/-- TBINIT, R211. -/
def execTbinit (f : Base) (x : Ext) (s : State) : Out :=
  issue ⟨.tbinit, f, .long x⟩ s (bodyTbinit f x)

/-- TBEXP, R211. -/
def execTbexp (f : Base) (x : Ext) (s : State) : Out :=
  issue ⟨.tbexp, f, .long x⟩ s (bodyTbexp f x)

/-- TBARV, R211. -/
def execTbarv (f : Base) (x : Ext) (s : State) : Out :=
  issue ⟨.tbarv, f, .long x⟩ s (bodyTbarv f x)

/-- TBWAIT, R213. -/
def execTbwait (f : Base) (x : Ext) (s : State) : Out :=
  issue ⟨.tbwait, f, .long x⟩ s (bodyTbwait f x)

/-! ### TB_UPDATE, R212 -/

/-- An update may be performed: the first of its core for the barrier, what it counts at the home (R257), and for one of an
instruction, in its turn at the slice (R360, R362) after the core's own stores to the line. -/
def Part.tbReady (p : Part) (u : TbUpdate) : Bool :=
  let d := homeDie u.addr
  let line := lineOf u.addr
  !p.tbUpdates.any (fun v => v.w.core == u.w.core && decide (v.id < u.id) && (v.addr == u.addr ||
      (v.command.isNone && u.command.isNone && homeDie v.addr == d && lineSlice (lineOf v.addr) == lineSlice line))) &&
    (u.command.isSome || (p.arrives u.w.core u.after d line u.id && p.ownBefore u.w.core u.after d line)) &&
    p.applied d u.clock && !p.aheadOfHome (dieOf u.w.core) line && !p.outgoingFull d

/-- The agent of an update, R346: the core of an instruction, or the engine of a command. -/
def Part.tbAgent (p : Part) (u : TbUpdate) : Nat :=
  if p.dies.any (fun d => d.collQueue.any (fun q => some q.id == u.command)) then collAgent (dieOf u.w.core) else copyAgent u.w.core

/-- An update that its slice refuses: a violation, and the instruction that made it queues an imprecise XLATE (R373, R374). -/
def Part.refuseTb (p : Part) (u : TbUpdate) : Part :=
  let p := p.sliceViolation u.addr (p.tbAgent u) 4
  let p := if u.command.isSome then p else p.queueTrap u.w (impTrap causeXlate u.va 1 (word u.pc))
  p.tbAnswer u.kind u.w u.command true

/-- TB_UPDATE: one indivisible step at the home slice; refused on a line under a forward window in normal service. -/
def execTbUpdate (request : Nat) (s : State) : Out :=
  .next (match s.part.tbUpdates.find? (fun u => u.id == request) with
    | none => s
    | some u =>
      if !s.part.tbReady u then s
      else
        let p := { s.part with tbUpdates := s.part.tbUpdates.filter (fun v => v.id != request) }
        if p.refused (lineOf u.addr) then { s with part := (p.refuseTb u).wakePhase }
        else
          let old := s.homeRead u.addr 16
          match (TBarrier.ofBytes old).update u.kind u.value u.error with
          | none => { s with part := p.tbAnswer u.kind u.w u.command false }
          | some b =>
            let p := p.homeWrite u.addr (b.bytes (tbBase u.kind old))
            let own (k : Core) : Core := (k.forget (lineOf u.addr)).see (p.die (homeDie u.addr)).vc
            let p := if u.command.isNone then p.onCore u.w.core own else p
            { s with part := (p.tbAnswer u.kind u.w u.command true).wakePhase })

end Sys2Proof.Machine
end

