-- ==== Sys2Proof/Machine/Copy.lean ====
section
/-! DEFINITION. Copy commands at issue (R198 to R205, R207) and the dispatch of the commands of the copy unit and of the
collective engine (R201, R341, R344). -/

namespace Sys2Proof.Machine

/-! ### The box, R199 -/

/-- A copy as its checks find it. -/
structure Box where
  buf : Rec
  entry : Entry
  esz : Nat
  /-- Extents and strides of the four dimensions. -/
  ext : List Nat
  str : List Int
  /-- The origin term. -/
  org : Int
  pair : Pair
  span : Nat

/-- An element of a box: its place in box order, its row, its scratchpad offset within the row, its offset o. -/
structure BoxElem where
  index : Nat
  row : Nat
  i0 : Nat
  o : Int

def cpyBad : TrapInfo := trapOf causeCpyBad

/-- Element size of a copy; none where the entry is not one R199 lists. -/
def copySize (f : Entry) (stride : Nat) : Option Nat :=
  if !f.valid then none
  else if f.kind = kindBlock then (if stride = 0 then some (groupBytes f) else none)
  else if f.epw = 15 then some 8
  else if [1, 2, 4, 8].contains f.epw && f.sbits * f.epw == 32 then some 4
  else none

/-- The extents of a layout record, absent dimensions 0. -/
def layoutExtents (l : List Word) : List Nat :=
  let w (i : Nat) : Word := nth l i 0
  [field (w 4) 15 0, field (w 4) 31 16, field (w 5) 15 0, field (w 5) 31 16]

/-- The pairing of an operation of CPYR with an entry, R204. -/
def cpyrAccepts (rop idx : Nat) (f : Entry) : Bool :=
  if rop = 3 then idx == 3 else f.kind == kindInteger && (f.epw == 1 || f.epw == 15)

/-- Step 3 of R200: the layout slot, then R199. -/
def boxOf (c : Ctx) (e : Env) (r : Rec) (org : Word) : Except TrapInfo Box :=
  let slot := mBits c.x 7 5
  let lay := nth c.g.layouts slot []
  let ext := layoutExtents lay
  let f := e.fmt.entry r.fmt
  let q := pairOf (e.sPair c.f.d)
  if ext.all (· == 0) then .error { cause := causeLayoutBad, info0 := slot }
  else if nth ext 0 0 = 0 then .error cpyBad
  else
    match copySize f r.stride with
    | none => .error cpyBad
    | some esz =>
      let ext := ext.map (max 1)
      let bytes := ext.foldl (· * ·) esz
      let pairOk := q.base % 16 == 0 && q.pitch != 0 && q.pitch % 16 == 0 && !q.t && q.fmt == r.fmt
        && decide (nth ext 0 1 * esz ≤ q.pitch) && (q.bandp == 0 || decide (16 * q.pitch ≤ q.bandp * 256))
      let reduces := c.parts.op != .cpyr || cpyrAccepts (mBits c.x 2 0) r.fmt f
      if !pairOk || !reduces || decide (2 ^ 24 < bytes) then .error cpyBad
      else .ok { buf := r, entry := f, esz := esz, ext := ext, str := (lay.take 4).map (·.toInt),
                 org := org.toNat * (if r.stride = 0 then esz else r.stride), pair := q, span := r.span e.fmt }

def Box.extent (b : Box) (i : Nat) : Nat := nth b.ext i 1
def Box.rows (b : Box) : Nat := b.extent 1 * b.extent 2 * b.extent 3
def Box.bytes (b : Box) : Nat := b.ext.foldl (· * ·) b.esz

/-- Extra offset of index i of dimension n. -/
def Box.step (b : Box) (n i : Nat) : Int := i * nth b.str n 0

/-- The elements in box order. -/
def Box.elems (b : Box) : List BoxElem :=
  (List.range b.rows).flatMap (fun r =>
    let i1 := r % b.extent 1
    let i2 := r / b.extent 1 % b.extent 2
    let i3 := r / (b.extent 1 * b.extent 2)
    let o := b.org + b.step 1 i1 + b.step 2 i2 + b.step 3 i3
    (List.range (b.extent 0)).map (fun i => ⟨r * b.extent 0 + i, r, i, o + b.step 0 i⟩))

def Box.inBounds (b : Box) (x : BoxElem) : Bool := decide (0 ≤ x.o) && decide (x.o + b.esz ≤ b.span)

/-- The affine extremes of o, R200 step 6. -/
def Box.extremes (b : Box) : Int × Int :=
  (List.range 4).foldl (fun (m : Int × Int) n =>
    let d := b.step n (b.extent n - 1)
    if d < 0 then (m.1 + d, m.2) else (m.1, m.2 + d)) (b.org, b.org)

/-- Scratchpad ranges of the box, row by row. -/
def Box.ranges (b : Box) : List (Nat × Nat) :=
  (List.range b.rows).map (fun r => (b.pair.base + b.pair.rowOff r, b.extent 0 * b.esz))

/-- Steps 5 to 7 of R200; `writes` tells that the scratchpad is the destination. -/
def Box.check (b : Box) (size : Nat) (writes : Bool) : Option TrapInfo :=
  let unit : Nat := min b.esz 16
  let aligned (v : Int) : Bool := v % (unit : Int) == 0
  let strides := (List.range 4).all (fun n => b.extent n ≤ 1 || aligned (nth b.str n 0))
  let (lo, hi) := b.extremes
  if !aligned b.buf.base || !aligned b.org || !strides then some { cause := causeMisalign, addr := b.buf.base }
  else if b.buf.oob = 0 && (decide (lo < 0) || decide ((b.span : Int) < hi + b.esz)) then
    let out := (b.elems.filter (fun x => !b.inBounds x)).map (fun x =>
      if x.o < 0 then wrapInt 64 (b.buf.base + x.o) else b.buf.addr x.o.toNat)
    some { cause := causeOob, addr := (minList? out).getD b.buf.base }
  else (oobTrap size b.ranges).orElse fun _ => if writes then ringTrap size b.ranges else none

/-! ### Requests, R343 -/

/-- A request being formed, with the bank words it touches. -/
structure Forming where
  run : CopyRun
  words : List (Nat × Nat)

/-- The granules of an element. -/
def Box.granules (b : Box) (x : BoxElem) : List Forming :=
  let row := b.pair.base + b.pair.rowOff x.row
  let inb := b.inBounds x
  let va (k : Nat) : Nat := if x.o < 0 then wrapInt 64 (b.buf.base + x.o + 16 * k) else b.buf.addr (x.o.toNat + 16 * k)
  (List.range ((b.esz + 15) / 16)).map (fun k =>
    let sp := row + x.i0 * b.esz + 16 * k
    let n := min 16 (b.esz - 16 * k)
    let word (i : Nat) : Nat × Nat := (sp / 16 + i, (sp / 16 + i + b.pair.rot * x.row) % 37)
    ⟨⟨x.index * b.esz + 16 * k, va k, sp, n, inb, 0⟩,
      (List.range ((sp + n - 1) / 16 + 1 - sp / 16)).map word⟩)

/-- A granule continues a request: contiguous on both sides, within one global line and one scratchpad line. -/
def Forming.joins (a b : Forming) : Bool :=
  a.run.inBounds == b.run.inBounds && a.run.sp + a.run.len == b.run.sp && a.run.sp / 128 == (b.run.sp + b.run.len - 1) / 128
    && (!a.run.inBounds || (a.run.va + a.run.len == b.run.va && a.run.va / 128 == (b.run.va + b.run.len - 1) / 128))

/-- Gather granules into requests in box order. -/
def formRuns : Option Forming → List Forming → List CopyRun
  | none, [] => []
  | some a, [] => [{ a.run with extra := bankExtra a.words }]
  | none, b :: r => formRuns (some b) r
  | some a, b :: r =>
    if a.joins b then formRuns (some ⟨{ a.run with len := a.run.len + b.run.len }, a.words ++ b.words⟩) r
    else { a.run with extra := bankExtra a.words } :: formRuns (some b) r

def Box.runs (b : Box) : List CopyRun := formRuns none (b.elems.flatMap b.granules)

/-! ### The command, R200, R201, R207 -/

/-- Commands of a core's copy unit, and of a die's collective engine. -/
def Part.commands (p : Part) : List Command :=
  p.cores.flatMap (·.copyQueue) ++ p.dies.flatMap (·.collQueue)

def Part.command? (p : Part) (id : Nat) : Option Command := p.commands.find? (fun q => q.id == id)

/-- Change a command wherever it is queued. -/
def Part.onCommand (p : Part) (id : Nat) (f : Command → Command) : Part :=
  let go (q : Command) : Command := if q.id = id then f q else q
  { p with cores := p.cores.map (fun k => { k with copyQueue := k.copyQueue.map go }),
           dies := p.dies.map (fun d => { d with collQueue := d.collQueue.map go }) }

/-- A command of the collective engine, and its timeline: 0 CT, 2 XT. -/
def Command.collective (q : Command) : Bool := q.op == .cpyr || q.op == .send
def Command.tl (q : Command) : Nat := if q.collective then 2 else 0

/-- OPCODE of R207. -/
def Command.opcode (q : Command) : Nat :=
  match q.op with
  | .cpy => 0x30
  | .cpyo => 0x31
  | .cpym => 0x32
  | .cpyc => 0x33
  | .cpyr => 0x34
  | _ => 0x40

/-- The scratchpad is the source. -/
def opReadsSpad : Op → Bool
  | .cpyo => true
  | .cpyr => true
  | _ => false

/-- The ring entry, R207. -/
def Command.ringEntry (q : Command) : List Byte :=
  leBytes 8 q.number ++ leBytes 1 q.opcode ++ leBytes 1 q.status ++ leBytes 1 q.tl ++ leBytes 1 q.w.warp ++
    leBytes 4 q.bytes ++ leBytes 4 q.spBase ++ leBytes 4 q.done ++ leBytes 8 (if q.segments.isEmpty then 0 else q.listVa)

/-- Write the ring entry of a copy instruction. -/
def Part.writeRing (p : Part) (q : Command) : Part :=
  if q.op == .send then p
  else
    match p.wg? q.w.core q.w.slot with
    | none => p
    | some g => p.winWrite q.w.core q.w.slot (g.ringBase + 32 * q.ring) q.ringEntry

/-- A command of the workgroup in a slot holds ring slot j. -/
def Part.ringBusy (p : Part) (core slot j : Nat) : Bool :=
  p.commands.any (fun q => q.w.core == core && q.w.slot == slot && q.op != .send && q.ring == j)
    || ((p.core? core).map (fun k => k.numbering.any (fun q => q.w.slot == slot && q.op != .send && q.ring == j))).getD false

def copyQueueSize : Nat := 32
def collQueueSize : Nat := 64

/-- The engine that takes a command has no entry free. -/
def Part.engineFull (p : Part) (core : Nat) (op : Op) : Bool :=
  if op == .cpyr || op == .send then
    let d := dieOf core
    let waiting := (p.cores.zipIdx.filter (fun k => dieOf k.2 == d)).map (fun k => k.1.numbering.length)
    decide (collQueueSize ≤ (p.die d).collQueue.length + waiting.sum)
  else
    match p.core? core with
    | none => true
    | some k => decide (copyQueueSize ≤ k.copyQueue.length)

/-- Fix-up list of a command with number j in its workgroup, 0 where the job has no fix-up region (R355). -/
def Part.fixupVa (p : Part) (job : Nat) (w : WarpRef) (j : Nat) : Nat :=
  match p.context? job with
  | none => 0
  | some t => if t.fixup = 0 then 0 else t.fixup + 1024 * (32 * (48 * w.core + w.slot) + j)

/-- A destination line of a member has four copies pending. -/
def Part.linesBusy (p : Part) (members : List (Nat × Nat)) (ls : List Nat) : Bool :=
  members.any (fun m => match p.wg? m.1 m.2 with
    | none => false
    | some g => ls.any (fun l => decide (4 ≤ (g.lineState l).pending)))

/-- Mark the destination lines of a command empty, with one more copy pending each. -/
def Part.markDestinations (p : Part) (q : Command) : Part :=
  q.lines.foldl (fun p l => p.onWg l.1.1 l.1.2 (fun g =>
    g.setLine l.2.1 ⟨false, (g.lineState l.2.1).pending + 1⟩)) p

/-- Missing bytes of each line that some requests fill. -/
def lineBytes (runs : List CopyRun) : List (Nat × Nat) :=
  runs.foldl (fun m r => insertKey (r.sp / 128) ((lookupKey (r.sp / 128) m).getD 0 + r.len) m) []

/-- Dispatch of a command that has its number, R201. -/
def Part.dispatchCommand (p : Part) (q : Command) (barrierVa : Nat) : Part :=
  let p := if q.collective then p.onDie (dieOf q.w.core) (fun d => { d with collQueue := d.collQueue ++ [q] })
    else p.onCore q.w.core (fun k => { k with copyQueue := k.copyQueue ++ [q] })
  let p := (p.writeRing q).markDestinations q
  match q.barrier with
  | none => p
  | some loc => p.sendTb q.w q.pc 3 loc barrierVa (q.bytes * q.members.length) false (some q.id) [0, 0, 0, 0]

/-- The die whose collective engine hands out the XT numbers of a launch. -/
def Part.anchorOf (p : Part) (launch die : Nat) : Nat := ((p.launch? launch).bind (·.anchor)).getD die

/-- Take the next XT number of a launch for a workgroup. -/
def Part.takeXt (p : Part) (w : WarpRef) (launch : Nat) : Part × Nat :=
  let n := ((p.launch? launch).map (fun l => l.xt.issued)).getD 0 + 1
  let p := p.onLaunch launch (fun l => { l with xt := l.xt.take })
  (p.onWg w.core w.slot (fun g => { g with xtLast := n, xtOpen := g.xtOpen ++ [n] }), n)

/-- A collective command whose checks have passed: it takes its number here, or asks the anchor die for it. -/
def Ctx.collect (c : Ctx) (s : State) (q : Command) (names : List Nat) (barrierVa : Nat) : Act :=
  let die := dieOf c.ref.core
  if s.part.anchorOf c.g.launch die = die then
    let (p, n) := s.part.takeXt c.ref c.g.launch
    .done (c.markDispatched { s with part := p.dispatchCommand { q with number := n } barrierVa }) (fun _ => c.next)
  else
    let p := s.part.onCore c.ref.core (fun k => { k with numbering := k.numbering ++ [q] })
    .holdState (c.markIssued { s with part := p.setAnswer c.ref (some (c.pc, none)) } names) 12

/-- A collective command that was held for its number: still waiting, or dispatched now. -/
def Ctx.numbered (c : Ctx) (s : State) (barrierVa : Nat) : Option Act :=
  match c.awaited with
  | none => none
  | some none => some (.hold 12)
  | some (some _) =>
    let p := s.part.setAnswer c.ref none
    match (p.core? c.ref.core).bind (fun k => k.numbering.find? (fun q => q.w == c.ref)) with
    | none => some (.hold 12)
    | some q =>
      let p := p.onCore c.ref.core (fun k => { k with numbering := k.numbering.filter (fun x => x.id != q.id) })
      some (.done (c.markDispatched { s with part := p.dispatchCommand q barrierVa }) (fun _ => c.next))

/-! ### The five copy instructions -/

/-- The permission a copy asks of its record, R200 step 2. -/
def copyAllowed (op : Op) (r : Rec) : Bool :=
  match op with
  | .cpyo => r.w
  | .cpyr => r.a
  | _ => r.r

/-- Members that receive the data: those of the mask for CPYC, the workgroup itself otherwise; none traps PROT. -/
def Ctx.receivers (c : Ctx) (e : Env) : Option (List (Nat × Nat)) :=
  if c.parts.op != .cpyc then some [(c.ref.core, c.ref.slot)]
  else
    let mask := field (e.s (c.f.b.toNat + 1)) 7 0
    if c.g.cluster < 2 || mask = 0 || decide (2 ^ c.g.cluster ≤ mask) then none
    else some ((lanesOf 8 mask).filterMap (fun i => c.g.members[i]?))

/-- The barrier address of a copy under TB. -/
def Ctx.copyBarrier (c : Ctx) (e : Env) : Except TrapInfo (Option Nat) :=
  if c.parts.op = .cpym || !mBit c.x 8 then .ok none
  else
    match tbAddress c e c.x.c (mBits c.x 12 9) with
    | .error t => .error t
    | .ok a => .ok (some a)

/-- Translate the barrier's line under TB, then go on with its location. -/
def Ctx.withBarrier (c : Ctx) (s : State) (va : Option Nat) (go : State → Option Nat → Act) : Act :=
  match va with
  | none => go s none
  | some a => c.placed s a (fun p loc => go { s with part := p } (some loc))

/-- The command of a copy that may be dispatched. -/
def Ctx.command (c : Ctx) (s : State) (b : Box) (members : List (Nat × Nat)) (barrier : Option Nat) : Command :=
  let runs := b.runs
  let ring := c.g.copies % 16
  let lines := if opReadsSpad c.parts.op then [] else members.flatMap (fun m => (lineBytes runs).map (fun l => (m, l)))
  { id := s.part.nextCommand, w := c.ref, pc := c.pc, launch := c.g.launch, job := c.g.job, op := c.parts.op, number := 0, ring := ring,
    spBase := b.pair.base, bytes := b.bytes, esz := b.esz, entry := b.entry, rop := mBits c.x 2 0, members := members,
    barrier := barrier, posted := barrier.isNone, todo := runs, flying := [], done := 0, segments := [],
    listVa := s.part.fixupVa c.g.job c.ref ring, lines := lines, status := 0, settled := false, clock := [0, 0, 0, 0],
    need := ((s.part.core? c.ref.core).map (·.seen)).getD [0, 0, 0, 0], listClock := [0, 0, 0, 0], listLines := [], dest := 0,
    payload := [], dropped := false, after := ((s.part.core? c.ref.core).map (·.nextId)).getD 0 }

/-- Count a copy instruction: its ring slot and its id are taken. -/
def Ctx.countCopy (c : Ctx) (p : Part) : Part :=
  { p.onWg c.ref.core c.ref.slot (fun g => { g with copies := g.copies + 1 }) with nextCommand := p.nextCommand + 1 }

/-- Format entries a copy names: the record's, and for CPYM the one of the MMA's A operand. -/
def Ctx.copyNames (c : Ctx) (e : Env) : List Nat :=
  let r := (e.record c.f.a.toNat).fmt
  if c.parts.op = .cpym then [r, (pairOf [e.s c.x.c.toNat, e.s (c.x.c.toNat + 1)]).fmt] else [r]

/-- Steps 1 to 8 of R200; `go` dispatches the command. -/
def Ctx.copy (c : Ctx) (s : State) (go : State → Env → Box → Command → Act) : Act :=
  let e := c.env s
  let op := c.parts.op
  let r := e.record c.f.a.toNat
  match r.check e.fmt (copyAllowed op) c.group with
  | some t => .trap t
  | none =>
    match boxOf c e r (e.s c.f.b.toNat) with
    | .error t => .trap t
    | .ok b =>
      match c.copyBarrier e with
      | .error t => .trap t
      | .ok va =>
        c.withBarrier (c.markIssued s (c.copyNames e)) va (fun s barrier =>
          match b.check c.g.scratch (!opReadsSpad op), c.receivers e with
          | some t, _ => .trap t
          | none, none => .trap (trapOf causeProt)
          | none, some members =>
            let empty := if opReadsSpad op then c.g.emptyLines (linesTouched b.ranges) else []
            let dests := if opReadsSpad op then [] else linesTouched b.ranges
            if !empty.isEmpty then .stay (c.parkAt s (.lines c.ref.core c.ref.slot empty))
            else if s.part.ringBusy c.ref.core c.ref.slot (c.g.copies % 16) || s.part.linesBusy members dests then
              .stay (c.parkAt s .ring)
            else if s.part.engineFull c.ref.core op || s.part.vexFull (dieOf c.ref.core) (barrier.filter (fun a => locTarget a == 2)).toList.length then .holdState s 12
            else go s e b (c.command s b members barrier))

/-- The address that names the barrier in traps of R367. -/
def Ctx.barrierVa (c : Ctx) (s : State) : Nat :=
  match c.copyBarrier (c.env s) with
  | .ok (some a) => a
  | _ => 0

/-- CPY, CPYO and CPYC: dispatch under the next CT number. -/
def actCopy (c : Ctx) (s : State) : Act :=
  if !c.on s then .done s (fun _ => c.next)
  else c.copy s (fun s _ _ q =>
    let p := (c.countCopy s.part).onWg c.ref.core c.ref.slot (fun g => { g with ct := g.ct.take })
    .done (c.markDispatched { s with part := p.dispatchCommand { q with number := c.g.ct.issued + 1 } (c.barrierVa s) })
      (fun _ => c.next))

/-- CPYR, whose number the collective engine of the anchor die hands out. -/
def actCpyr (c : Ctx) (s : State) : Act :=
  if !c.on s then .done s (fun _ => c.next)
  else
    match c.numbered s (c.barrierVa s) with
    | some a => a
    | none => c.copy s (fun s e _ q =>
        c.collect { s with part := c.countCopy s.part } q (c.copyNames e) (c.barrierVa s))

/-- The follow-on MMA of a CPYM: B is the copy's destination, R205. -/
def Ctx.followOn (c : Ctx) (s : State) (e : Env) : Except TrapInfo TilePlan :=
  let w (i : Nat) : Word := e.s (c.x.c.toNat + i)
  let d := field (w 3) 3 0
  let edge := if (w 3).toNat.testBit 4 then edgeFor (w 2) true false else .ok Edge.whole
  let cmd := { c.tileCmd e with op := .mma, m := 0, d := d, pairA := [w 0, w 1], pairB := e.sPair c.f.d }
  if c.g.ntiles ≤ d then .error (c.groupTrap { cause := causePartition, info0 := d })
  else if field (w 3) 31 5 != 0 then .error (trapOf causeMmaBad)
  else mmaPlan c s cmd false edge

/-- CPYM: the copy and its MMA are dispatched together; the MMA waits for the copy in the array queue. -/
def actCpym (c : Ctx) (s : State) : Act :=
  if !c.on s then .done s (fun _ => c.next)
  else c.copy s (fun s e _ q =>
    match c.followOn s e with
    | .error t => .trap t
    | .ok m =>
      match m.space c s with
      | some t => .trap t
      | none =>
        let empty := c.g.emptyLines (linesTouched m.reads)
        if !empty.isEmpty then .stay (c.parkAt s (.lines c.ref.core c.ref.slot empty))
        else if s.part.arrayFull c.ref.core then .holdState s 12
        else
          let p := (c.countCopy s.part).onWg c.ref.core c.ref.slot (fun g => { g with ct := g.ct.take })
          let p := (p.dispatchCommand { q with number := c.g.ct.issued + 1 } 0).enqueueTile { m.cmd with waits := some q.id }
          .done (c.markDispatched { s with part := p }) (fun _ => c.next))

/-! ### The instructions -/

/-- CPY, R198. -/
def execCpy (f : Base) (x : Ext) (s : State) : Out :=
  issue ⟨.cpy, f, .long x⟩ s actCopy

/-- CPYO, R198. -/
def execCpyo (f : Base) (x : Ext) (s : State) : Out :=
  issue ⟨.cpyo, f, .long x⟩ s actCopy

/-- CPYM, R205. -/
def execCpym (f : Base) (x : Ext) (s : State) : Out :=
  issue ⟨.cpym, f, .long x⟩ s actCpym

/-- CPYC, R203. -/
def execCpyc (f : Base) (x : Ext) (s : State) : Out :=
  issue ⟨.cpyc, f, .long x⟩ s actCopy

/-- CPYR, R204. -/
def execCpyr (f : Base) (x : Ext) (s : State) : Out :=
  issue ⟨.cpyr, f, .long x⟩ s actCpyr

/-! ### XT_NUMBER_REQUEST, R344 -/

/-- XT_NUMBER_REQUEST: the anchor die numbers the collective command that a warp is held for. -/
def execXtNumberRequest (w : WarpRef) (s : State) : Out :=
  .next (match (s.part.core? w.core).bind (fun k => k.numbering.find? (fun q => q.w == w && q.number == 0)) with
    | none => s
    | some q =>
      let (p, n) := s.part.takeXt w q.launch
      let name (y : Command) : Command := if y.id = q.id then { y with number := n } else y
      let p := p.onCore w.core (fun k => { k with numbering := k.numbering.map name })
      { s with part := p.setAnswer w (some (q.pc, some 1)) })

end Sys2Proof.Machine
end

