-- ==== Sys2Proof/Machine/CopyEvents.lean ====
section
/-! DEFINITION. Copies and reductions under way: landings (R201, R202), fix-up lists (R206, R355 to R357), completion (R345)
and requests without an answer (R356). -/

namespace Sys2Proof.Machine

/-! ### Fix-up lists, R355 -/

def maxSegments : Nat := 30

/-- A segment waits for its fault record. -/
def Segment.waiting (g : Segment) : Bool := g.state == 0

/-- Box offset from which nothing was attempted. -/
def Command.tail (q : Command) : Nat := ((q.todo.head?).map (·.off)).getD q.bytes

/-- Some part of the box never moved. -/
def Command.failed (q : Command) : Bool := q.segments.any (fun g => g.state != 1) || !q.todo.isEmpty || q.dropped

/-- STATE of the list: 0 open, 1 all replayed, 2 some abandoned. -/
def Command.listState (q : Command) : Nat := if !q.settled then 0 else if q.failed then 2 else 1

def Segment.bytes (g : Segment) : List Byte :=
  leBytes 8 g.va ++ leBytes 4 g.off ++ leBytes 4 g.len ++ leBytes 4 g.state ++ leBytes 4 g.cause ++ leBytes 4 g.fault ++ leBytes 4 0

/-- The list as the engine writes it. -/
def Command.listBytes (q : Command) : List Byte :=
  let tail := if maxSegments ≤ q.segments.length then q.tail else q.bytes
  leBytes 8 q.number ++ leBytes 4 q.bytes ++ leBytes 4 q.segments.length ++ leBytes 4 q.listState ++ leBytes 4 q.opcode ++
    leBytes 4 tail ++ leBytes 36 0 ++ q.segments.flatMap Segment.bytes

/-- The agent field of a command's engine, R346. -/
def Command.agent (q : Command) : Nat :=
  if q.collective then collAgent (dieOf q.w.core) else copyAgent q.w.core

/-- Requester of its fault records, R354. -/
def Command.requester (q : Command) : Nat := if q.collective then 0x100 + dieOf q.w.core else q.w.core

/-- A list write at a location: the command's completion orders it before later loads of a reader (R355). -/
def Command.listed (q : Command) (loc : Nat) (vc : List Nat) : Command :=
  { q with listClock := joinClock q.listClock vc, listLines := if q.listLines.contains (lineOf loc) then q.listLines else q.listLines ++ [lineOf loc] }

/-- Write the list line by line under the job's page table; a line that does not translate, or that its slice refuses (R373), is
dropped. -/
def State.writeList (s : State) (q : Command) : State :=
  if q.listVa = 0 || q.segments.isEmpty then s
  else
    (chunks 128 8 q.listBytes).zipIdx.foldl (fun s l =>
      match s.translate q.job (q.listVa + 128 * l.2) .write with
      | .ok loc =>
        if isDevice loc && s.part.refused (lineOf loc) then { s with part := s.part.sliceViolation loc q.agent 2 }
        else if isDevice loc then
          let s := s.agentWrite q.agent false loc l.1
          { s with part := s.part.onCommand q.id (fun x => x.listed loc (s.homeClock loc)) }
        else if locTarget loc = 2 && (s.part.portOf loc).isNone then s
        else { s with part := s.part.sendRemote { remoteReq 4 loc q.w q.pc with data := l.1, command := some q.id, port := s.part.portOf loc } }
      | _ => s) s

/-! ### What a request does to its command -/

/-- Lower the pending count of a line of a member; it turns full at 0 (R201, R209). Copies that wait for a place on the line, of any
member of the cluster, look again (R200). -/
def Part.landLine (p : Part) (m : Nat × Nat) (l : Nat) : Part :=
  let lower (g : Wg) : Wg :=
    let x := g.lineState l
    g.setLine l ⟨x.full || decide (x.pending ≤ 1), x.pending - 1⟩
  let p := (p.onWg m.1 m.2 lower).wakeLines m.1 m.2
  let members := ((p.wg? m.1 m.2).map (·.members)).getD []
  (if members.isEmpty then [m] else members).foldl (fun p x => p.wakeSlot x.1 x.2 (fun c => c == .ring)) p

/-- Bytes of a run have landed in the lines of a command: the lines left, and those now complete. -/
def landBytes (lines : List ((Nat × Nat) × Nat × Nat)) (run : CopyRun) : List ((Nat × Nat) × Nat × Nat) × List ((Nat × Nat) × Nat) :=
  let hit (l : (Nat × Nat) × Nat × Nat) : Bool := l.2.1 == run.sp / 128
  let less := lines.map (fun l => if hit l then (l.1, l.2.1, l.2.2 - run.len) else l)
  (less.filter (fun l => !(hit l && l.2.2 == 0)), (less.filter (fun l => hit l && l.2.2 == 0)).map (fun l => (l.1, l.2.1)))

/-- Update a command and its ring entry. -/
def State.putCommand (s : State) (q : Command) : State :=
  let q := { q with status := if q.segments.any Segment.waiting then 2 else 1 }
  { s with part := (s.part.onCommand q.id (fun _ => q)).writeRing q }

/-- Nothing of a command is on its way any more. -/
def Command.resolved (q : Command) : Bool :=
  (q.todo.isEmpty || decide (maxSegments ≤ q.segments.length)) && q.flying.isEmpty && !q.segments.any Segment.waiting && q.posted

/-- Once nothing is on its way, lines that did not land turn full and their barrier bytes are counted down with EPEND
(R206), and the list gets its final STATE. -/
def State.settleCommand (s : State) (id : Nat) : State :=
  match s.part.command? id with
  | none => s
  | some q =>
    if q.settled || !q.resolved then s
    else
      let q := { q with settled := true }
      let left := q.bytes - q.done
      let p := q.lines.foldl (fun p l => p.landLine l.1 l.2.1) (s.part.onCommand id (fun _ => { q with lines := [] }))
      let p := match q.barrier with
        | none => p
        | some loc => if left = 0 then p
            else p.sendTb q.w q.pc 4 loc 0 (-((left * q.members.length : Nat) : Int)) true (some id) [0, 0, 0, 0]
      ({ s with part := p }.writeList q)

/-- A run has landed: bytes moved, lines, barrier, the segment it replays. -/
def State.landed (s : State) (q : Command) (run : CopyRun) (seg : Option Nat) : State :=
  let (lines, full) := landBytes q.lines run
  let segs := match seg with
    | none => q.segments
    | some i => modifyNth q.segments i (fun g => { g with state := 1, due := false })
  let q := { q with lines := lines, done := q.done + run.len, segments := segs }
  let s := s.putCommand q
  let p := full.foldl (fun p l => p.landLine l.1 l.2) s.part
  let p := match q.barrier with
    | none => p
    | some loc => p.sendTb q.w q.pc 4 loc 0 (-((run.len * q.members.length : Nat) : Int)) false (some q.id) q.clock
  let p := p.charge q.w.core q.w.slot run.extra
  let s := { s with part := p }
  let s := if seg.isSome then s.writeList q else s
  s.settleCommand q.id

/-- Record a segment, or change the one replayed: state 0 waiting on a fault record, or 2 abandoned with its cause. -/
def State.segment (s : State) (q : Command) (run : CopyRun) (seg : Option Nat) (state cause fault : Nat) : State :=
  let g : Segment := ⟨run.va, run.off, run.len, run.sp, state, cause, fault, run.extra, false⟩
  let segs := match seg with
    | none => q.segments ++ [g]
    | some i => setNth q.segments i g
  let q := { q with segments := segs }
  ((s.putCommand q).writeList q).settleCommand q.id

/-- Write bytes into the windows of the members that have not completed. -/
def Part.fillMembers (p : Part) (q : Command) (sp : Nat) (bs : List Byte) : Part :=
  q.members.foldl (fun p m => match p.wg? m.1 m.2 with
    | none => p
    | some g => if g.complete then p else p.winWrite m.1 m.2 sp bs) p

/-- The die whose slice serves an engine of a die: its own where it has a good copy, or the home. -/
def State.l2Die (s : State) (die loc : Nat) : Nat := if (s.dieByte die loc).isSome then die else homeDie loc

/-- Bytes that the L2 serves to an engine of a die. -/
def State.l2Byte (s : State) (die loc : Nat) : Byte := (s.dieByte die loc).getD (s.homeByte loc)

/-- A request of a command may be performed at a location: a read where every write before the command's dispatch has been applied
(R202, R257), a write at the home after those, each after what its requester sent to the slice before the dispatch (R360, R362);
one to a peer once the Vexlink engine takes it (R341). -/
def State.engineReady (s : State) (q : Command) (loc : Nat) : Bool :=
  let d := dieOf q.w.core
  if !isDevice loc then locTarget loc != 2 || !s.part.vexFull d 1
  else
    let h := homeDie loc
    let line := lineOf loc
    let turn (e : Nat) : Bool := s.part.crossClear d e q.id &&
      (q.collective || ((s.part.core? q.w.core).map (fun k => k.portClear q.w.core q.after e (lineSlice line))).getD true)
    if !opReadsSpad q.op && (s.dieByte d (128 * line)).isSome then s.part.applied d q.need && turn d
    else s.part.applied h q.need && !s.part.aheadOfHome d line && (!opReadsSpad q.op || !s.part.outgoingFull h) && turn h

/-- Atomic operation of a ROP of CPYR, R204. -/
def ropAtom (rop : Nat) : Nat := if rop = 3 then 10 else rop

/-- Join the clock of a home into a command's. -/
def Command.wrote (q : Command) (vc : List Nat) : Command := { q with clock := joinClock q.clock vc }

/-- Reduce the elements of a run at their home slice, in box order. -/
def State.reduceRun (s : State) (q : Command) (run : CopyRun) (loc : Nat) : State :=
  let bs := s.part.winRead q.w.core q.w.slot run.sp run.len
  (chunks q.esz (run.len / q.esz) bs).zipIdx.foldl (fun s x =>
    (s.agentAtomic q.agent q.entry (ropAtom q.rop) (loc + q.esz * x.2) (bytesWords x.1)).1) s

/-- Send a request of a command to the host or a peer; on a route without a port it fails at once (R367). -/
def State.sendRun (s : State) (q : Command) (run : CopyRun) (seg : Option Nat) (kind loc : Nat) : State :=
  let port := s.part.portOf loc
  if locTarget loc = 2 && port.isNone then s.segment q run seg 2 causeEngTimeout 0
  else
    let data := if kind = 3 then [] else s.part.winRead q.w.core q.w.slot run.sp run.len
    let r := { remoteReq kind loc q.w q.pc with
      va := run.va, command := some q.id, count := run.len, data := data, port := port, op := ropAtom q.rop,
      signed := q.entry.isSigned }
    let s := { s with part := s.part.sendRemote r }
    s.putCommand { q with flying := q.flying ++ [⟨s.part.nextCommand - 1, run, seg⟩] }

/-- What a request needs of its leaf. -/
def Command.access (q : Command) : Access :=
  match q.op with
  | .cpyo => .write
  | .cpyr => .atomic
  | _ => .read

/-- Perform a request whose line has translated. -/
def State.perform (s : State) (q : Command) (run : CopyRun) (seg : Option Nat) (loc : Nat) : State :=
  let bad := isDevice loc && s.part.poisonedAt (if opReadsSpad q.op then homeDie loc else s.l2Die (dieOf q.w.core) loc) (lineOf loc)
  match q.op with
  | .cpyo =>
    if !isDevice loc then s.sendRun q run seg 4 loc
    else if bad then s.segment q run seg 2 causePoison 0
    else if s.part.refused (lineOf loc) then { s with part := s.part.sliceViolation loc q.agent 2 }.segment q run seg 2 causeProt 0
    else
      let s := s.agentWrite q.agent false loc (s.part.winRead q.w.core q.w.slot run.sp run.len)
      s.landed (q.wrote (s.homeClock loc)) run seg
  | .cpyr =>
    if !(s.part.pathMask loc).testBit (atomClass (ropAtom q.rop) q.esz) then s.segment q run seg 2 causePathAtomic 0
    else if bad then s.segment q run seg 2 causePoison 0
    else if !isDevice loc then s.sendRun q run seg 5 loc
    else if s.part.refused (lineOf loc) then { s with part := s.part.sliceViolation loc q.agent 4 }.segment q run seg 2 causeProt 0
    else
      let s := s.reduceRun q run loc
      s.landed (q.wrote (s.homeClock loc)) run seg
  | _ =>
    if !isDevice loc then s.sendRun q run seg 3 loc
    else if bad then s.segment q run seg 2 causePoison 0
    else
      let bs := (List.range run.len).map (fun i => s.l2Byte (dieOf q.w.core) (loc + i))
      let p := s.part.fillMembers q run.sp bs
      let p := if s.l2Die (dieOf q.w.core) loc = homeDie loc then p.serve (lineOf loc) else p
      { s with part := p.consume q.w.core (lineOf loc) }.landed q run seg

/-- Try a request under the current translation, R350, R353 to R357. One that may not be performed yet stays as it was. -/
def State.attempt (s : State) (q : Command) (run : CopyRun) (seg : Option Nat) : State :=
  if !run.inBounds then
    let s := if opReadsSpad q.op then s else { s with part := s.part.fillMembers q run.sp (List.replicate run.len 0) }
    s.landed q run seg
  else
    match (if seg.isSome then s.retranslate q.job run.va q.access else s.translate q.job run.va q.access) with
    | .ok loc => if s.engineReady q loc then s.perform q run seg loc else s
    | .denied cause _ => s.segment q run seg 2 cause 0
    | .absent reason =>
      if q.listVa = 0 && reason != 3 then s.segment q run seg 2 causeXlate 0
      else
        let (p, id) := s.part.postFault (dieOf q.w.core) q.requester q.job run.va q.access reason seg.isSome
        { s with part := p }.segment q run seg (if id = 0 then 2 else 0) causeXlate id

/-! ### COPY_LANDING, CPYR_REDUCTION -/

/-- Requests of a command that are under way at once, R341. -/
def inFlight : Nat := 16

/-- Requests of a command that the engine has issued and that have not landed: the first of the box, 16 at most, and no
more than the list has places for (R341, R356). -/
def Command.window (q : Command) : Nat := min inFlight (maxSegments - q.segments.length) - q.flying.length

/-- The command has something to move: one that only waits for the fault service has not (R341). -/
def Command.active (q : Command) : Bool :=
  (!q.todo.isEmpty && decide (q.segments.length < maxSegments)) || !q.flying.isEmpty || q.segments.any (·.due)

/-- Up to 4 commands of a copy unit move at once, R341. -/
def Part.moving (p : Part) (q : Command) : Bool :=
  q.collective || ((p.core? q.w.core).map (fun k => ((k.copyQueue.filter Command.active).take 4).any (fun x => x.id == q.id))).getD false

/-- The run of the i-th request under way, with the command that no longer lists it. -/
def Command.takeRun (q : Command) (i : Nat) : Option (CopyRun × Command) :=
  if q.window ≤ i then none
  else (q.todo[i]?).map (fun run => (run, { q with todo := q.todo.eraseIdx i }))

/-- The request that a segment replays. -/
def Segment.run (g : Segment) : CopyRun := ⟨g.off, g.va, g.sp, g.len, true, g.extra⟩

/-- Requests from 16 on are the replays that are due, by segment: performed as one request each (R357). -/
def Command.takeReplay (q : Command) (i : Nat) : Option (CopyRun × Nat) :=
  if i < inFlight then none
  else ((q.segments[i - inFlight]?).filter (fun g => g.waiting && g.due)).map (fun g => (g.run, i - inFlight))

/-- A SEND reads its bytes, and its message leaves for the destination, R216. -/
def State.sendMessage (s : State) (q : Command) : State :=
  let bs := s.part.winRead q.w.core q.w.slot q.spBase q.bytes
  let m : Message := ⟨q.w.core, q.w.slot, field q.dest 31 16, field q.dest 7 0, field q.dest 13 8, bs, bs.length, 0⟩
  let p := s.part.onCommand q.id (fun x => { x with payload := bs, todo := [], status := 1 })
  { s with part := p.onDie (dieOf q.w.core) (fun d => { d with messages := d.messages ++ [(q.id, m)] }) }

/-- COPY_LANDING: a request of a copy lands or is skipped; a SEND reads its source. -/
def execCopyLanding (command request : Nat) (s : State) : Out :=
  .next (match s.part.command? command with
    | none => s
    | some q =>
      if q.op == .cpyr || !q.posted || !s.part.moving q then s
      else if q.op == .send then (if q.todo.isEmpty then s else s.sendMessage q)
      else
        match q.takeReplay request, q.takeRun request with
        | some (run, i), _ => s.attempt q run (some i)
        | none, some (run, q) => s.attempt q run none
        | none, none => s)

/-- An element of a run comes after another one of the same word that has not been reduced. -/
def Command.before (q : Command) (run : CopyRun) : Bool :=
  let clash (off va len : Nat) : Bool := decide (off < run.off) && decide (va < run.va + q.esz) && decide (run.va < va + len)
  run.inBounds && (q.todo.any (fun x => x.inBounds && clash x.off x.va x.len) || q.flying.any (fun x => clash x.run.off x.run.va x.run.len)
    || q.segments.any (fun g => g.waiting && clash g.off g.va g.len))

/-- The first element of a run, and what is left of it. -/
def CopyRun.split (r : CopyRun) (n : Nat) : CopyRun × Option CopyRun :=
  if r.len ≤ n then (r, none)
  else ({ r with len := n, extra := 0 }, some { r with off := r.off + n, va := r.va + n, sp := r.sp + n, len := r.len - n })

/-- The line of a run translates and carries the operation: its elements go one by one. -/
def State.runOpen (s : State) (q : Command) (run : CopyRun) : Bool :=
  match s.translate q.job run.va .atomic with
  | .ok loc => (s.part.pathMask loc).testBit (atomClass (ropAtom q.rop) q.esz) && !s.part.poisoned (lineOf loc)
  | _ => false

/-- CPYR_REDUCTION: the next element of a request is reduced at its home slice; a line that cannot be reached is
skipped whole. -/
def execCpyrReduction (command element : Nat) (s : State) : Out :=
  .next (match s.part.command? command with
    | none => s
    | some q =>
      if q.op != .cpyr || !q.posted then s
      else
        match q.takeReplay element, q.takeRun element with
        | some (run, i), _ => if q.before run then s else s.attempt q run (some i)
        | none, none => s
        | none, some (run, rest) =>
          if q.before run then s
          else if !run.inBounds || !s.runOpen q run then s.attempt rest run none
          else
            let (one, more) := run.split q.esz
            let todo := match more with
              | none => rest.todo
              | some r => rest.todo.take element ++ [r] ++ rest.todo.drop element
            s.attempt { rest with todo := todo } one none)

/-! ### Answers -/

/-- An answer to a fault record for one segment of a command: its replay is due, or it is abandoned. -/
def State.answerSegment (s : State) (fault : Nat) (resolve : Bool) (id i : Nat) : State :=
  match s.part.command? id with
  | none => s
  | some q =>
    match q.segments[i]? with
    | none => s
    | some g =>
      if !(g.waiting && g.fault == fault) then s
      else if resolve then { s with part := s.part.onCommand id (fun q => { q with segments := modifyNth q.segments i (fun g => { g with due := true }) }) }
      else s.segment q g.run (some i) 2 causeXlate fault

/-- The engine side of an answer to a fault record (R354, R357). -/
def State.answerSegments (s : State) (fault : Nat) (resolve : Bool) : State :=
  let places := s.part.commands.flatMap (fun q => (List.range q.segments.length).map (fun i => (q.id, i)))
  places.foldl (fun s x => s.answerSegment fault resolve x.1 x.2) s

/-- Take a request off the list of those under way. -/
def State.landFlying (s : State) (id remote : Nat) : Option (State × Command × Flying) :=
  match s.part.command? id with
  | none => none
  | some q =>
    match q.flying.find? (fun x => x.remote == remote) with
    | none => none
    | some x =>
      let p := s.part.onMgmt (fun m => { m with remotes := m.remotes.filter (fun r => r.id != remote) })
      some ({ s with part := p }, { q with flying := q.flying.filter (fun y => y.remote != remote) }, x)

/-- The host or a peer has answered a request: its bytes land (R371). A write of a list has been applied. -/
def State.completeFlying (s : State) (id remote : Nat) (bs : List Byte) : State :=
  match s.landFlying id remote with
  | none => { s with part := s.part.onMgmt (fun m => { m with remotes := m.remotes.filter (fun r => r.id != remote) }) }
  | some (s, q, x) =>
    if opReadsSpad q.op then s.landed q x.run x.seg
    else { s with part := s.part.fillMembers q x.run.sp (bs.take x.run.len) }.landed q x.run x.seg

/-- A request of a command fails: its segment is abandoned (R356); a write of its list is dropped (R355). -/
def State.failFlying (s : State) (id remote cause : Nat) : State :=
  match s.landFlying id remote with
  | none => { s with part := s.part.onMgmt (fun m => { m with remotes := m.remotes.filter (fun r => r.id != remote) }) }
  | some (s, q, x) => s.segment q x.run x.seg 2 cause 0

/-- A request to the host or a peer is answered within 10 ms, in core cycles of R2. -/
def engineTimeout : Nat := 40000000

/-- ENGINE_REQUEST_TIMEOUT: no answer in that time. -/
def execEngineRequestTimeout (command request : Nat) (s : State) : Out :=
  .next (match s.part.mgmt.remotes.find? (fun r => r.id == request && r.command == some command) with
    | none => s
    | some r => if r.issued + engineTimeout ≤ s.part.now then s.failFlying command request causeEngTimeout else s)

/-! ### COPY_COMPLETE, R345, R357 -/

/-- Cause and address of the trap of a failed command. -/
def Command.trapOf (q : Command) : Nat × Nat :=
  let rest := if q.collective then causeCollFault else causeCpyFault
  match q.segments.find? (fun g => g.state == 2) with
  | none => (rest, ((q.todo.head?).map (·.va)).getD 0)
  | some g => (if g.cause = causePathAtomic || g.cause = causeEngTimeout then g.cause else rest, g.va)

/-- Complete the number of a command on its timeline, with the clocks of its writes. -/
def Timeline.report (t : Timeline) (q : Command) (err : Bool) : Timeline :=
  { t.complete q.number err with
    clock := joinClock t.clock (joinClock q.clock q.listClock), listClock := joinClock t.listClock q.listClock,
    listLines := (t.listLines ++ q.listLines).eraseDups }

/-- Report a number to its holder and wake those who wait on the timeline. -/
def Part.reportNumber (p : Part) (q : Command) (err : Bool) : Part :=
  if q.collective then
    let p := p.onLaunch q.launch (fun l => { l with xt := l.xt.report q err })
    let p := p.onWg q.w.core q.w.slot (fun g => { g with xtOpen := g.xtOpen.filter (fun n => n != q.number) })
    let look (g : Wg) : Wg :=
      if g.launch != q.launch then g
      else { g with warps := g.warps.map (fun w => { w with threads := w.threads.map (fun t => t.wake (fun c => c == .timeline)) }) }
    { p with cores := p.cores.map (fun k => { k with slots := k.slots.map (Option.map look) }) }
  else
    (p.onWg q.w.core q.w.slot (fun g => { g with ct := g.ct.report q err })).wakeSlot q.w.core q.w.slot
      (fun c => c == .timeline)

/-- The MMA of a CPYM learns how its copy ended, R205. -/
def Core.handOver (k : Core) (id : Nat) (err : Bool) : Core :=
  let give (t : TileCmd) : TileCmd := if t.waits = some id then { t with waits := none, failed := err } else t
  { k with arrayQueue := k.arrayQueue.map give }

/-- A command leaves its engine. -/
def Part.dropCommand (p : Part) (id : Nat) : Part :=
  { p with cores := p.cores.map (fun k => { k with copyQueue := k.copyQueue.filter (fun q => q.id != id) }),
           dies := p.dies.map (fun d => { d with collQueue := d.collQueue.filter (fun q => q.id != id) }) }

/-- COPY_COMPLETE: a command of which nothing is left to land, and whose barrier has counted it down. A SEND has
queued the traps of its drop. -/
def execCopyComplete (command : Nat) (s : State) : Out :=
  .next (match s.part.command? command with
    | none => s
    | some q =>
      if !q.settled || s.part.tbUpdates.any (fun u => u.command == some command)
          || s.part.mgmt.remotes.any (fun r => r.command == some command && r.kind != 6) then s
      else
        let err := q.failed
        let q := { q with status := if err then 4 else 3 }
        let p := s.part.writeRing q
        let p := (p.onCore q.w.core (fun k => k.handOver command err)).reportNumber q err
        let p := if !err || q.op == .send then p
          else p.engineTrap q.w q.trapOf.1 q.trapOf.2 q.tl q.number
        { s with part := (p.dropCommand command).wakeSlot q.w.core q.w.slot (fun c => c == .ring) })

end Sys2Proof.Machine
end

