-- ==== Sys2Proof/Machine/Message.lean ====
section
/-! DEFINITION. Messages between workgroups of a launch: SEND, RECVP and MPROBE, their arrival, and the hampers (R216 to
R221). -/

namespace Sys2Proof.Machine

/-! ### SEND, R216 -/

/-- Longest message, R216. -/
def maxMessage : Nat := 4096

def msgBad : TrapInfo := trapOf causeMsgBad

/-- The list at a SEND's place belongs to one that is not complete, R355. -/
def Part.sendListBusy (p : Part) (w : WarpRef) (j : Nat) : Bool :=
  p.commands.any (fun q => q.op == .send && q.w.core == w.core && q.w.slot == w.slot && q.ring == j && !q.segments.isEmpty)

/-- The command of a SEND: one run for the whole message, which the engine reads at once. -/
def Ctx.sendCommand (c : Ctx) (s : State) (dest : Word) (a n : Nat) : Command :=
  let j := 16 + c.g.sends % 16
  { id := s.part.nextCommand, w := c.ref, pc := c.pc, launch := c.g.launch, job := c.g.job, op := .send, number := 0, ring := j,
    spBase := a, bytes := n, esz := 1, entry := c.g.fmt.entry 0, rop := 0, members := [], barrier := none, posted := true,
    todo := [⟨0, 0, a, n, true, 0⟩], flying := [], done := 0, segments := [], listVa := s.part.fixupVa c.g.job c.ref j,
    lines := [], status := 0, settled := false, clock := [0, 0, 0, 0], need := [0, 0, 0, 0], listClock := [0, 0, 0, 0], listLines := [], dest := dest, payload := [], dropped := false, after := 0 }

def bodySend (f : Base) (_x : Ext) (c : Ctx) (s : State) : Act :=
  if !c.on s then .done s (fun _ => c.next)
  else
    match c.numbered s 0 with
    | some a => a
    | none =>
      let e := c.env s
      let dest := e.s f.d.toNat
      let a := (e.s f.a.toNat).toNat
      let n := (e.s f.b.toNat).toNat
      if field dest 15 14 != 0 || decide (47 < field dest 13 8) || n = 0 || decide (maxMessage < n) || a % 16 != 0 then
        .trap msgBad
      else
        match oobTrap c.g.scratch [(a, n)] with
        | some t => .trap t
        | none =>
          let empty := c.g.emptyLines (linesTouched [(a, n)])
          let q := c.sendCommand s dest a n
          if !empty.isEmpty then .stay (c.parkAt s (.lines c.ref.core c.ref.slot empty))
          else if s.part.sendListBusy c.ref q.ring || s.part.engineFull c.ref.core .send then .hold 12
          else
            let p := s.part.onWg c.ref.core c.ref.slot (fun g => { g with sends := g.sends + 1 })
            c.collect { s with part := { p with nextCommand := p.nextCommand + 1 } } q [] 0

/-! ### Match words, R217, R221 -/

/-- A match word accepts a message: bits 14 and 15 take any source and any tag. -/
def matchWord (mw : Word) (m : Message) : Bool :=
  (field mw 14 14 == 1 || (field mw 7 0 == m.srcCore && field mw 13 8 == m.srcSlot))
    && (field mw 15 15 == 1 || field mw 31 16 == m.tag)

/-- CORE, WGID and TAG of a message in one word. -/
def Message.source (m : Message) : Word := word (m.srcCore + 256 * m.srcSlot + 65536 * m.tag)

/-- Hampered messages of the workgroup in a slot, oldest first. -/
def Core.hampered (k : Core) (slot : Nat) : List Message := k.hamper.filter (fun m => m.dstSlot == slot)

/-! ### Receiving, R217, R218 -/

def hamperSize : Nat := 64

/-- Payload address of an entry of a core's hamper, R327. -/
def Part.hamperAt (p : Part) (core entry : Nat) : Nat := p.cox.hambase + 2 ^ 18 * core + 4096 * entry

/-- Lines of a receive: its destination range, then the line of its receipt. -/
def Receive.lines (r : Receive) : List Nat := linesTouched [(r.dst, r.max)] ++ [r.receipt / 128]

/-- Deliver a message with its bytes to a receive of the workgroup in a slot, R218. -/
def Part.deliverMessage (p : Part) (core slot : Nat) (r : Receive) (m : Message) (bs : List Byte) : Part :=
  let n := min bs.length r.max
  let cut := decide (r.max < bs.length)
  let receipt := leBytes 4 n ++ leBytes 4 (m.srcCore + 256 * m.srcSlot + (if cut then 65536 else 0)) ++
    leBytes 4 bs.length ++ leBytes 4 m.tag
  let p := (p.winWrite core slot r.dst (bs.take n)).winWrite core slot r.receipt receipt
  let p := (p.onWg core slot (fun g => g.markLines true r.lines)).wakeLines core slot
  if cut then p.queueTrap ⟨core, slot, r.warp⟩ (impTrap causeRecvTrunc 0 m.source (word bs.length)) else p

/-- Range checks of a receive. -/
def receiveTrap (size : Nat) (r : Receive) : Option TrapInfo :=
  let len := roundUp r.max 128
  let rs := [(r.dst, len), (r.receipt, 16)]
  if r.dst % 128 != 0 || r.receipt % 16 != 0 || r.max = 0 || decide (maxMessage < r.max) then some msgBad
  else if r.dst ≤ r.receipt ∧ r.receipt < r.dst + len then some msgBad
  else (oobTrap size rs).orElse fun _ => ringTrap size rs

def bodyRecvp (f : Base) (x : Ext) (c : Ctx) (s : State) : Act :=
  if !c.on s then .done s (fun _ => c.next)
  else
    let e := c.env s
    let v (r : BitVec 6) : Nat := (e.s r.toNat).toNat
    let r : Receive := ⟨c.ref.warp, v f.d, e.s f.a.toNat, v f.b, v x.c⟩
    match receiveTrap c.g.scratch r with
    | some t => .trap t
    | none =>
      if 16 ≤ c.g.receives.length then .trap msgBad
      else
        let p := s.part.onWg c.ref.core c.ref.slot (fun g => g.markLines false r.lines)
        let old := (((s.part.core? c.ref.core).map (fun k => k.hampered c.ref.slot)).getD []).find? (matchWord r.mw)
        match old with
        | none =>
          let p := p.onWg c.ref.core c.ref.slot (fun g => { g with receives := g.receives ++ [r] })
          .done { s with part := p } (fun _ => c.next)
        | some m =>
          let bs := s.homeRead (s.part.hamperAt c.ref.core m.entry) m.len
          let p := p.onCore c.ref.core (fun k => { k with hamper := k.hamper.filter (fun y => y.entry != m.entry) })
          .done { s with part := p.deliverMessage c.ref.core c.ref.slot r m bs } (fun _ => c.next)

def bodyMprobe (f : Base) (x : Ext) (c : Ctx) (s : State) : Act :=
  if !c.on s then .done s (fun _ => c.next)
  else
    let mw := (c.env s).s f.a.toNat
    let ms := ((s.part.core? c.ref.core).map (fun k => k.hampered c.ref.slot)).getD []
    match ms.find? (matchWord mw) with
    | none => .done (c.writeWarp s [(.q x.c.toNat, 0)]) (fun _ => c.next)
    | some m => .done (c.writeWarp s (sWrites f.d [word m.len, m.source] ++ [(.q x.c.toNat, 1)])) (fun _ => c.next)

/-! ### The instructions -/

/-- SEND, R216. -/
def execSend (f : Base) (x : Ext) (s : State) : Out :=
  issue ⟨.send, f, .long x⟩ s (bodySend f x)

/-- RECVP, R217. -/
def execRecvp (f : Base) (x : Ext) (s : State) : Out :=
  issue ⟨.recvp, f, .long x⟩ s (bodyRecvp f x)

/-- MPROBE, R221. -/
def execMprobe (f : Base) (x : Ext) (s : State) : Out :=
  issue ⟨.mprobe, f, .long x⟩ s (bodyMprobe f x)

/-! ### MESSAGE_ARRIVAL, R216, R219, R220 -/

/-- An earlier SEND of the same workgroup to the same destination with the same tag has not arrived. -/
def Part.sendWaits (p : Part) (q : Command) : Bool :=
  let all := p.commands ++ p.cores.flatMap (·.numbering)
  all.any (fun x => x.op == .send && x.w.core == q.w.core && x.w.slot == q.w.slot && x.dest == q.dest && x.number != 0
    && decide (x.number < q.number) && !x.settled)

/-- The SEND of a message has done its part. -/
def Part.sendDone (p : Part) (id : Nat) (drop : Bool) : Part :=
  p.onCommand id (fun q => { q with settled := true, dropped := drop })

/-- Lowest free entry of a hamper; none when all 64 are taken. -/
def Core.freeHamper (k : Core) : Option Nat :=
  (List.range hamperSize).find? (fun i => !k.hamper.any (fun m => m.entry == i))

/-- Keep a message that no receive takes, or drop it. -/
def Part.hamperMessage (p : Part) (q : Command) (m : Message) : Part :=
  match (p.core? m.dstCore).bind Core.freeHamper with
  | none =>
    let g := p.wg? m.dstCore m.dstSlot
    let first := (g.bind Wg.lowestLive).getD 0
    (p.queueTrap ⟨m.dstCore, m.dstSlot, first⟩ (impTrap causeMsgOverflow 0 m.source 0)).sendDone q.id true
  | some i =>
    let at_ := p.hamperAt m.dstCore i
    let p := if p.refused (lineOf at_) then p.sliceViolation at_ (collAgent (dieOf m.srcCore)) 2 else p.homeWrite at_ m.bytes
    let kept : Message := { m with bytes := [], len := m.bytes.length, entry := i }
    (p.onCore m.dstCore (fun k => { k with hamper := k.hamper ++ [kept] })).sendDone q.id false

/-- A message that has arrived is matched, hampered or dropped; a cluster member that has completed is no workgroup of its slot any
more (DEDUCED, log entry 32). -/
def Part.arrive (p : Part) (q : Command) (m : Message) : Part :=
  match p.wg? m.dstCore m.dstSlot with
  | none => (p.engineTrap q.w causeMsgBad 0 2 q.number).sendDone q.id true
  | some g =>
    if g.launch != q.launch || g.complete then (p.engineTrap q.w causeMsgBad 0 2 q.number).sendDone q.id true
    else
      match g.receives.findIdx? (fun r => matchWord r.mw m) with
      | none => p.hamperMessage q m
      | some i =>
        match g.receives[i]? with
        | none => p
        | some r =>
          let p := p.onWg m.dstCore m.dstSlot (fun g => { g with receives := g.receives.eraseIdx i })
          (p.deliverMessage m.dstCore m.dstSlot r m m.bytes).sendDone q.id false

/-- MESSAGE_ARRIVAL: the message of a SEND reaches the core that it names, after what its die sent there before (R362). -/
def execMessageArrival (message : Nat) (s : State) : Out :=
  .next (match s.part.command? message with
    | none => s
    | some q =>
      match (s.part.die (dieOf q.w.core)).messages.find? (fun m => m.1 == message) with
      | none => s
      | some (_, m) =>
        if s.part.sendWaits q || !s.part.crossClear (dieOf q.w.core) (dieOf m.dstCore) q.id then s
        else
          let p := s.part.onDie (dieOf q.w.core) (fun d => { d with messages := d.messages.filter (fun m => m.1 != message) })
          { s with part := p.arrive q m })

end Sys2Proof.Machine
end

