-- ==== Sys2Proof/Machine/Superstep.lean ====
section
/-! DEFINITION. Supersteps: CATCH, the recovery step and the catch (R214, R215). -/

namespace Sys2Proof.Machine

/-! ### CATCH, R214 -/

/-- Scope code of .DV, R128. -/
def scopeDv : Nat := 3

/-- CATCH: a .DV release, the arrival of the group, and its park. -/
def bodyCatch (f : Base) (x : Ext) (c : Ctx) (s : State) : Act :=
  if !c.on s then .done s (fun _ => c.next)
  else if c.g.cls != 2 || !c.g.phaseMode || c.w.lock.isSome then .trap (trapOf causeCatchBad)
  else
    c.releaseFirst s true scopeDv (fun s =>
      let reg := if mBit x 0 then some f.d.toNat else none
      let here := c.group.map (fun l => (c.ref.warp * 32 + l, reg))
      let join (g : Wg) : Wg :=
        let g := { g with caught := g.caught.filter (fun (a : Nat × Option Nat) => !here.any (fun b => b.1 == a.1)) ++ here }
        g.onWarp c.ref.warp (fun w => w.onLanes c.group (fun t =>
          { t with st := .live (.parked (.catchStep c.size)), since := s.part.now }))
      let s := c.finish { s with part := s.part.onWg c.ref.core c.ref.slot join } (fun _ => c.pc)
      .stay { s with part := s.part.settle c.ref.core c.ref.slot })

/-- CATCH, R214. -/
def execCatchOp (f : Base) (s : State) : Out :=
  issue ⟨.catchOp, f, .short⟩ s (bodyCatch f Ext.absent)

/-- CATCH_LONG, R214. -/
def execCatchOpLong (f : Base) (x : Ext) (s : State) : Out :=
  issue ⟨.catchOp, f, .long x⟩ s (bodyCatch f x)

/-! ### CATCH_RELEASE, R215 -/

/-- Warp i of a workgroup has arrived: every thread of it that is not exited has, and is not halted. -/
def Wg.warpCaught (g : Wg) (i : Nat) (w : Warp) : Bool :=
  w.threads.zipIdx.all (fun q => q.1.isExited || (!q.1.isHalted && g.caught.any (fun a => a.1 == i * 32 + q.2)))

def Wg.allCaught (g : Wg) : Bool := g.warps.zipIdx.all (fun q => g.warpCaught q.2 q.1)

/-- Resident workgroups of a launch. -/
def Part.wgsOf (p : Part) (launch : Nat) : List Wg :=
  p.cores.flatMap (fun k => (k.slots.filterMap id).filter (fun g => g.launch == launch))

/-- Every workgroup of a launch has arrived, and some thread waits. -/
def Part.launchCaught (p : Part) (l : Launch) : Bool :=
  let gs := p.wgsOf l.id
  decide (l.total ≤ l.placed.length) && gs.all Wg.allCaught && gs.any (fun g => !g.caught.isEmpty)

def WaitFor.isCatch : WaitFor → Bool
  | .catchStep _ => true
  | _ => false

/-- A sleep that an event ends, R215, R229. -/
def TState.rouse : TState → TState
  | .live (.asleep _) => .live .ready
  | .halted (.asleep _) c => .halted .ready c
  | st => st

def Thread.rouse (t : Thread) : Thread :=
  { t with st := t.st.rouse, saved := t.saved.map (fun r => (r.1, r.2.rouse)) }

/-- The catch in one workgroup: the step's number, and its threads go on. -/
def Wg.release (g : Wg) (step : Nat) : Wg :=
  let give (q : Warp × Nat) : Warp :=
    let regs := (g.caught.filter (fun a => a.1 / 32 == q.2)).filterMap (·.2)
    let w := regs.foldl (fun w r => w.putS (.s r) (word step)) q.1
    { w with threads := w.threads.map (fun t => (t.wake WaitFor.isCatch).rouse) }
  { g with warps := g.warps.zipIdx.map give, caught := [] }

/-- Release a launch: every core of it acquires at .DV, and the superstep is counted. -/
def Part.catchLaunch (p : Part) (l : Launch) : Part :=
  let mine (g : Wg) : Bool := g.launch == l.id
  let go (k : Core) : Core :=
    if k.slots.any (fun g => (g.map mine).getD false) then
      let slots := k.slots.map (Option.map (fun g => if mine g then g.release l.superstep else g))
      { (k.see l.xt.clock).acquire with slots := slots }
    else k
  ({ p with cores := p.cores.map go }).onLaunch l.id (fun l => { l with superstep := l.superstep + 1, caughtWait := none })

/-- CATCH_RELEASE: the recovery step notes the launch's ISSUED and waits for its XT numbers; then the catch releases. -/
def execCatchRelease (launch : Nat) (s : State) : Out :=
  .next (match s.part.launch? launch with
    | none => s
    | some l =>
      if l.caughtWait.isNone && !s.part.launchCaught l then s
      else
        let n := l.caughtWait.getD l.xt.issued
        if l.xt.completed < n then { s with part := s.part.onLaunch launch (fun l => { l with caughtWait := some n }) }
        else { s with part := s.part.catchLaunch l })

end Sys2Proof.Machine
end

