-- ==== Sys2Proof/Machine/Cox.lean ====
section
/-! DEFINITION. What the cox keeps and shares among its commands: launch records (R16, R17, R29, R222), the decision stream
(R332, R333), decision counters (R321), completion counters (R18, R330, R331) and their waiters (R226). -/

namespace Sys2Proof.Machine

/-! ### Launch records, R222 -/

def recEntry (ws : List Word) : Nat := (nth ws 0 0).toNat + 2 ^ 32 * field (nth ws 1 0) 24 0
def recClass (ws : List Word) : Nat := field (nth ws 1 0) 27 26
def recPrio (ws : List Word) : Nat := field (nth ws 1 0) 31 28
def recWarps (ws : List Word) : Nat := field (nth ws 4 0) 4 0
def recRegs (ws : List Word) : Nat := 8 * field (nth ws 4 0) 8 5
def recCluster (ws : List Word) : Nat := field (nth ws 4 0) 12 9
def recTiles (ws : List Word) : Nat := field (nth ws 4 0) 17 13
def recScratch (ws : List Word) : Nat := 4096 * field (nth ws 4 0) 27 18
def recPhaseMode (ws : List Word) : Bool := field (nth ws 4 0) 28 28 == 1
def recParam (ws : List Word) : Nat := (nth ws 5 0).toNat + 2 ^ 32 * field (nth ws 6 0) 24 0
def recCva (ws : List Word) : Nat := (nth ws 7 0).toNat + 2 ^ 32 * field (nth ws 8 0) 24 0
def recCmode (ws : List Word) : Nat := field (nth ws 8 0) 26 25
def recGraph (ws : List Word) : Nat := (nth ws 9 0).toNat
def recPhase (ws : List Word) : Nat := (nth ws 10 0).toNat

/-- Threads of a workgroup, R14. -/
def recThreads (ws : List Word) : Nat :=
  let n := field (nth ws 13 0) 9 0
  if n = 0 then 32 * recWarps ws else n

def poolRow : Nat := 37888

def ceilDiv (a b : Nat) : Nat := (a + b - 1) / b

/-- Rows that m workgroups of w warps, n registers, S scratchpad bytes and T tiles need, R326. -/
def rowsFor (m w n sp t : Nat) : Nat × Nat × Nat :=
  (ceilDiv (m * w * n * 128) poolRow, ceilDiv (m * sp) poolRow, ceilDiv (32 * m * t) 37)

def rowsFit (r : Nat × Nat × Nat) : Bool := decide (r.1 + r.2.1 + r.2.2 ≤ 32)

/-- The checks of R222, R14, R16, R17 and R29 on a record; the entry is word aligned. -/
def recordOk (ws : List Word) : Bool :=
  let w (i : Nat) : Word := nth ws i 0
  let gx := field (w 2) 30 0
  let cl := recCluster ws
  field (w 0) 1 0 == 0 && field (w 1) 25 25 == 0 && recClass ws != 3 && field (w 2) 31 31 == 0 && gx != 0
    && field (w 3) 15 0 != 0 && field (w 3) 31 16 != 0 && field (w 4) 31 29 == 0 && (!recPhaseMode ws || recClass ws == 2)
    && recScratch ws != 0 && decide (recScratch ws ≤ 222 * 4096) && decide (recTiles ws ≤ 16) && decide (cl ≤ 8)
    && (decide (cl ≤ 1) || gx % cl == 0) && recRegs ws != 0 && decide (recRegs ws ≤ 64) && recWarps ws != 0
    && decide (recWarps ws ≤ 16) && field (w 6) 31 25 == 0 && field (w 8) 31 27 == 0 && recCmode ws != 3
    && (recCmode ws == 0 || recCva ws % 8 == 0) && field (w 13) 31 10 == 0 && decide (recThreads ws ≤ 32 * recWarps ws)
    && rowsFit (rowsFor 1 (recWarps ws) (recRegs ws) (recScratch ws) (recTiles ws))

/-- The partition chosen for a launch, R326. -/
def partitionFor (ws : List Word) : Word :=
  let rows (m : Nat) : Nat × Nat × Nat := rowsFor m (recWarps ws) (recRegs ws) (recScratch ws) (recTiles ws)
  let best := ((List.range (48 / max 1 (recWarps ws) + 1)).filter (fun m => rowsFit (rows m))).foldl max 0
  let r := rows best
  word (r.1 + 32 * r.2.1 + 1024 * r.2.2)

/-! ### The decision stream and its counters, R321, R332, R333 -/

/-- What a decision record says beside its time and number. -/
structure Note where
  type : Nat
  flags : Nat
  queue : Nat
  core : Nat
  launch : Nat
  job : Nat
  wg : Nat
  payload : List Byte

def noWg : Nat := 2 ^ 32 - 1
def noCore : Nat := 0xFFFF

def Note.bytes (n : Note) (time seq : Nat) : List Byte :=
  leBytes 8 time ++ leBytes 4 seq ++ leBytes 2 n.type ++ leBytes 2 n.flags ++ leBytes 2 n.queue ++ leBytes 2 n.core ++
    leBytes 4 n.launch ++ leBytes 4 n.job ++ leBytes 4 n.wg ++ (n.payload ++ List.replicate 32 0).take 32

/-- Advance a part-wide counter. -/
def Part.countPart (p : Part) (n : Nat) : Part := p.onCox (fun x => { x with pcount := modifyNth x.pcount n (· + 1) })

/-- Append a record; one that finds the stream full is lost. -/
def Part.append (p : Part) (n : Note) : Part :=
  let x := p.cox
  let cap := ringCap x.dssize (2 ^ 24)
  if cap ≤ x.dswr - x.dsrd then (p.countPart 15).onCox (fun x => { x with dslost := x.dslost + 1 })
  else
    let p := p.homeWrite (x.dsbase + 64 * (x.dswr % cap)) (n.bytes p.gtime x.dswr)
    ((p.countPart 14).onCox (fun x => { x with dswr := x.dswr + 1 })).announce .decision

def Part.queue? (p : Part) (q : Nat) : Option Queue := p.cox.queues.find? (fun x => x.id == q)

def Part.onQueue (p : Part) (q : Nat) (f : Queue → Queue) : Part :=
  p.onCox (fun x => { x with queues := x.queues.map (fun y => if y.id = q then f y else y) })

/-- Advance counter n of a queue, in its QCB, and the PCOUNT of the same number. -/
def Part.count (p : Part) (n queue : Nat) : Part :=
  let p := p.countPart n
  match p.queue? queue with
  | none => p
  | some q =>
    let v := nth q.counts n 0 + 1
    (p.onQueue queue (fun q => { q with counts := setNth q.counts n v })).homeWrite (q.qcb + 0x40 + 8 * n) (leBytes 8 v)

/-- The record of a launch, with the DEVICE flag. -/
def Launch.note (l : Launch) (type : Nat) (payload : List Byte) : Note :=
  { type := type, flags := if l.pusher.isSome then 8 else 0, queue := l.queue, core := noCore, launch := l.id, job := l.job,
    wg := noWg, payload := payload }

/-! ### Queue control blocks, R319 -/

/-- Field of a queue's QCB as memory holds it. -/
def State.qcb (s : State) (queue off n : Nat) : Nat :=
  match s.part.queue? queue with
  | none => 0
  | some q => s.homeNat (q.qcb + off) n

/-- Deadline of a queue in µs. -/
def State.deadlineOf (s : State) (queue : Nat) : Nat :=
  let d := s.qcb queue 0x2C 4
  if d = 0 then 200 else d

/-- Effective priority of a launch, R324. -/
def State.prioOf (s : State) (l : Launch) : Nat := min (recPrio l.words) (s.qcb l.queue 0x20 4 % 16)

/-! ### Completion counters, R18, R228, R330 -/

def Counter.flags (c : Counter) : Nat := c.complete.toNat + 2 * c.cancelled.toNat + 4 * c.error.toNat

/-- The launches whose counters a job keeps: its 65,536 most recently admitted, and those not admitted yet. -/
def Part.keeps (p : Part) (l : Launch) : Bool :=
  let later := p.cox.launches.filter (fun x => x.job == l.job && x.admitted && decide (l.turn ≤ x.turn))
  !l.admitted || decide (later.length ≤ 65536)

/-- A counter by level and id within a job. -/
def Part.counter? (p : Part) (job level id : Nat) : Option Counter :=
  match level with
  | 1 => ((p.launch? id).filter (fun l => l.job == job && p.keeps l)).map (·.counter)
  | 2 => (p.job? job).bind (fun j => lookupKey id j.graphs)
  | 3 => (p.job? job).bind (fun j => lookupKey id j.phases)
  | 4 => if id = job then (p.job? job).map (·.counter) else none
  | _ => none

/-- A CWAIT's condition, R226. -/
def Counter.meets (c : Counter) (target : Nat) (done : Bool) : Bool := decide (target ≤ c.count) || (done && c.complete)

/-- Threads that wait on a counter which meets their condition go on, and swapped-out workgroups are noted. -/
def Part.notify (p : Part) (job level id : Nat) (c : Counter) : Part :=
  let hit : WaitFor → Bool
    | .counter l i t d => l == level && i == id && c.meets t d
    | _ => false
  let waits (t : Thread) : Bool := match t.st with
    | .live (.parked w) => hit w
    | .halted (.parked w) _ => hit w
    | _ => false
  let look (w : Warp) : Warp :=
    let pcs := (w.threads.filter waits).map (·.pc)
    if pcs.isEmpty then w
    else { w with threads := w.threads.map (fun t => t.wake hit),
                  granted := w.granted ++ pcs.eraseDups.filter (fun pc => !w.granted.contains pc) }
  let meets (r : SwapReq) : Bool := r.level == level && r.id == id && c.meets r.target r.done
  let note (r : SwapReq × Nat × Option Nat) : SwapReq × Nat × Option Nat := ({ r.1 with met := r.1.met || meets r.1 }, r.2)
  let wg (g : Wg) : Wg := if g.job = job then { g with warps := g.warps.map look, swapping := g.swapping.map note } else g
  let away (x : Swapped) : Swapped :=
    if x.job = job && meets x.wait then { x with met := true } else x
  ({ p with cores := p.cores.map (fun (k : Core) => { k with slots := k.slots.map (Option.map wg) }) }).onCox
    (fun x => { x with swapped := x.swapped.map away })

/-- Change a counter and tell its waiters. -/
def Part.setCounter (p : Part) (job level id : Nat) (f : Counter → Counter) : Part :=
  match p.counter? job level id with
  | none => if level = 1 then p.onLaunch id (fun l => { l with counter := f l.counter }) else p
  | some c =>
    let p := match level with
      | 1 => p.onLaunch id (fun l => { l with counter := f l.counter })
      | 2 => p.onJob job (fun j => { j with graphs := modifyKey id f j.graphs })
      | 3 => p.onJob job (fun j => { j with phases := modifyKey id f j.phases })
      | _ => p.onJob job (fun j => { j with counter := f j.counter })
    p.notify job level id (f c)

/-- An instance is to complete; the cox says so at the port, once. -/
def Part.levelDue (p : Part) (job level id : Nat) (by_ : Option Launch) : Part :=
  -- what a cancel completes with nothing running names no launch (R447)
  let named := by_.filter (fun l => level == 1 || !l.idle)
  let x : LevelDone :=
    { job := job, level := level, id := id, launch := (named.map (·.id)).getD 0, queue := (named.map (·.queue)).getD 0,
      core := if level = 1 then (by_.map (·.lastCore)).getD noCore else noCore,
      wg := if level = 1 then (by_.map (·.lastWg)).getD noWg else noWg,
      flags := if (named.map (·.pusher.isSome)).getD false then 8 else 0, last := (by_.map (·.id)).getD 0, counter := none }
  if p.cox.levels.any (fun y => y.job == job && y.level == level && y.id == id) then p
  else p.onCox (fun c => { c with levels := c.levels ++ [x] })

/-- An instance is complete: its flag and its waiters. -/
def Part.completeLevel (p : Part) (job level id : Nat) : Part := p.setCounter job level id (fun c => { c with complete := true })

/-- The LEVELDONE record of an instance with its counter. -/
def LevelDone.note (x : LevelDone) (c : Counter) : Note :=
  { type := 5, flags := x.flags + (if c.error then 2 else 0), queue := x.queue, core := x.core, launch := x.launch, job := x.job,
    wg := x.wg, payload := leBytes 4 x.level ++ leBytes 4 x.id ++ leBytes 8 c.count ++ leBytes 4 c.flags }

/-- The instances a record names exist from the moment it is pending. -/
def Part.addInstances (p : Part) (job : Nat) (ws : List Word) : Part :=
  let add (id : Nat) (t : List (Nat × Counter)) : List (Nat × Counter) :=
    if id = 0 || (lookupKey id t).isSome then t else insertKey id Counter.zero t
  p.onJob job (fun j => { j with graphs := add (recGraph ws) j.graphs, phases := add (recPhase ws) j.phases })

/-- Some launch of a job that meets a condition is not complete. -/
def Part.openLaunch (p : Part) (job : Nat) (f : Launch → Bool) : Bool :=
  p.cox.launches.any (fun l => l.job == job && !l.counter.complete && f l)

/-- A phase is not complete: a launch that names it is open, or a graph of it is still to complete. -/
def Part.phaseOpen (p : Part) (job phase : Nat) : Bool :=
  p.openLaunch job (fun x => recPhase x.words == phase) ||
    p.cox.levels.any (fun y => y.job == job && y.level == 2 &&
      p.cox.launches.any (fun l => l.job == job && recGraph l.words == y.id && recPhase l.words == phase))

/-- A closed job with no work left is to complete. -/
def Part.checkJob (p : Part) (job : Nat) (by_ : Option Launch) : Part :=
  match p.job? job with
  | none => p
  | some j =>
    if !j.closed || p.openLaunch job (fun _ => true) || p.cox.left.any (fun x => (p.launch? x.launch).any (fun l => l.job == job))
        || p.cox.levels.any (fun x => x.job == job && x.level != 4)
    then p else p.levelDue job 4 job by_

/-- The counter of an instance advances by one. -/
def Part.advance (p : Part) (job level id : Nat) : Part := p.setCounter job level id (fun c => { c with count := c.count + 1 })

/-- A phase of which no launch and no graph is open any more is to complete. -/
def Part.checkPhase (p : Part) (job phase : Nat) (by_ : Option Launch) : Part :=
  if phase = 0 || p.phaseOpen job phase then p else p.levelDue job 3 phase by_

/-- The advances that follow a launch's own, R331, R448: of its graph, or, where it names none, of its phase. -/
def Part.advanceLevels (p : Part) (l : Launch) : Part :=
  let g := recGraph l.words
  let ph := recPhase l.words
  if g = 0 then (if ph = 0 then p else (p.advance l.job 3 ph).checkPhase l.job ph (some l))
  else
    let p := p.advance l.job 2 g
    if p.openLaunch l.job (fun x => recGraph x.words == g) then p else p.levelDue l.job 2 g (some l)

/-- A graph completes: the phase of the launch that came last advances, and every phase that a launch of the graph names may be
complete. Which phase advances when the launches of a graph name different ones, or some name none, the spec does not say: a
DESIGN CHOICE (log entry 14). -/
def Part.graphDone (p : Part) (job g : Nat) (by_ : Option Launch) : Part :=
  let ph := (by_.map (fun l => recPhase l.words)).getD 0
  let p := p.onJob job (fun j => { j with graphs := eraseKey g j.graphs })
  let p := if ph = 0 then p else p.advance job 3 ph
  let all := ((p.cox.launches.filter (fun l => l.job == job && recGraph l.words == g)).map (fun l => recPhase l.words)).eraseDups
  all.foldl (fun p ph => p.checkPhase job ph by_) p

/-- The CMODE counter of a launch, R222: an atomic add of 1 at its home slice. Where the address does not translate
for an atomic, or does not lie in device memory, nothing is added (log entry 14). -/
def State.addCva (s : State) (l : Launch) : State :=
  match s.translate l.job (recCva l.words) .atomic with
  | .ok loc =>
    if !isDevice loc then s
    else { s with part := s.part.homeWrite loc (leBytes 8 (s.homeNat loc 8 + 1)) }
  | _ => s

/-- What the completion of an instance brings about, R331: of a launch the CMODE counter, then the graph; of a graph its phase;
of a phase the job; a job is forgotten with every instance of it. -/
def State.afterLevel (s : State) (x : LevelDone) : State :=
  let by_ := s.part.launch? x.last
  match x.level with
  | 1 =>
    match s.part.launch? x.id with
    | none => s
    | some l =>
      let n := if recCva l.words % 8 != 0 then 0 else if recCmode l.words = 1 then 1 else l.owed
      let s := (List.range n).foldl (fun s _ => s.addCva l) s
      { s with part := (s.part.advanceLevels l).checkJob x.job (some l) }
  | 2 => { s with part := (s.part.graphDone x.job x.id by_).checkJob x.job by_ }
  | 3 =>
    let p := s.part.onJob x.job (fun j => { j with phases := eraseKey x.id j.phases })
    let ends (l : Launch) : Launch := if l.job = x.job && recPhase l.words == x.id then { l with past := true } else l
    let p := p.onCox (fun c => { c with launches := c.launches.map ends })
    { s with part := (p.advance x.job 4 x.job).checkJob x.job by_ }
  | _ =>
    let p : Part := { s.part with jobs := s.part.jobs.filter (fun j => j.id != x.job) }
    { s with part := p.onCox (fun c => { c with launches := c.launches.filter (fun l => l.job != x.job) }) }

/-- The instance is complete by R18. -/
def Part.levelOver (p : Part) (x : LevelDone) : Bool :=
  (match x.level with
    | 1 => (p.launch? x.id).any (fun l => !l.counter.complete)
    | 2 => !p.openLaunch x.job (fun l => recGraph l.words == x.id)
    | 3 => !p.phaseOpen x.job x.id
    | _ => (p.job? x.job).any (·.closed) && !p.openLaunch x.job (fun _ => true) &&
        !p.cox.levels.any (fun y => y.job == x.job && y.level != 4 && y.counter.isNone)) && (p.counter? x.job x.level x.id).isSome

/-- A level completes at the port: its counter, the count of a launch whose workgroups have all completed, its record, and what
follows. -/
def State.completeNow (s : State) (x : LevelDone) : State :=
  let full (l : Launch) (c : Counter) : Counter := if l.total ≤ l.done then { c with count := l.total } else c
  let p := match x.level, s.part.launch? x.id with
    | 1, some l => s.part.setCounter x.job 1 x.id (full l)
    | _, _ => s.part
  let p := p.completeLevel x.job x.level x.id
  let c := (p.counter? x.job x.level x.id).getD Counter.zero
  ({ s with part := p.append (x.note c) } : State).afterLevel x

/-- Where a workgroup of a launch is resident: core and slot. -/
def Part.findWg (p : Part) (launch number : Nat) : Option (Nat × Nat) :=
  p.cores.zipIdx.findSome? (fun k =>
    (k.1.slots.findIdx? (fun g => (g.map (fun g => g.launch == launch && g.number == number)).getD false)).map (fun i => (k.2, i)))

/-- A drain that is not over, R328: for a launch until it, and those that have joined, are placed in full (R329). -/
def Part.drainOpen (p : Part) (d : Drain) : Bool :=
  let waits (id : Nat) : Bool := match p.launch? id with
    | none => false
    | some l => !l.counter.complete && !l.counter.cancelled && !l.noMore && decide (l.placed.length < l.total)
  if d.cause = 0 then d.victims.any (fun v => (p.findWg v.1 v.2).isSome) else (d.cause :: d.joined).any waits

/-- Drains that are over end, and what no drain names any more is not drained. -/
def Part.endDrains (p : Part) : Part :=
  let open_ := p.cox.drains.filter p.drainOpen
  if open_.length = p.cox.drains.length then p
  else
    let keep (g : Wg) : Wg :=
      if open_.any (fun d => d.victims.contains (g.launch, g.number)) then g else { g with drain := false, deadline := none }
    { p.onCox (fun x => { x with drains := open_ }) with
        cores := p.cores.map (fun (k : Core) => { k with slots := k.slots.map (Option.map keep) }) }

/-- Queue an imprecise trap to the warp that pushed a launch, on its core or for its return from the save area. -/
def Part.trapPusher (p : Part) (l : Launch) (t : TrapRec) : Part :=
  match l.pusher with
  | none => p
  | some (launch, number, warp) =>
    match p.findWg launch number with
    | none =>
      let keep (x : Swapped) : Swapped := if x.launch = launch && x.number == number then { x with traps := x.traps ++ [(warp, t)] } else x
      p.onCox (fun x => { x with swapped := x.swapped.map keep })
    | some (core, slot) => p.queueTrap ⟨core, slot, warp⟩ t

/-- An accepted command of the decision port. -/
def Part.portAccept (p : Part) : Part := p.onCox (fun x => { x with portErr := false })

/-- The DENY record of a launch with its cause. -/
def Part.recordDeny (p : Part) (l : Launch) (cause : Nat) : Part :=
  let utag := leBytes 4 (nth l.words 14 0).toNat ++ leBytes 4 (nth l.words 15 0).toNat
  (p.portAccept.count 1 l.queue).append (l.note 2 (utag ++ leBytes 4 cause))

/-- The cox refuses a launch with a cause at the port, R224, R318, R323: a DENY record, and its counter is to complete with ERROR,
with the CMODE counter as at any completion where CMODE and CVA are valid (DEDUCED, log entry 14). -/
def State.deny (s : State) (l : Launch) (cause : Nat) : State :=
  let p := s.part.recordDeny l cause
  let p := p.setCounter l.job 1 l.id (fun c => { c with error := true })
  let p := p.trapPusher l (impTrap causeLaunchDenied 0 (word l.id) 0)
  { s with part := (p.onLaunch l.id (fun l => { l with noMore := true })).levelDue l.job 1 l.id (some l) }

/-- A launch with a new id whose record stands in the cox's hands or in a pending queue. -/
def Part.addLaunch (p : Part) (ws : List Word) (queue job parent : Nat) (pusher : Option (Nat × Nat × Nat)) (atCox : Bool) : Part × Nat :=
  let id := p.cox.nextLaunch
  let ws := setNth (setNth ws 11 (word job)) 12 (word parent)
  let l : Launch :=
    { id := id, words := ws, queue := queue, job := job, parent := parent, pusher := pusher, atCox := atCox, admitted := false, turn := 0, idle := false,
      placed := [], noMore := false, done := 0, counter := Counter.zero, cores := [], boundary := none, xt := Timeline.zero,
      anchor := none, superstep := 0, caughtWait := none, lastCore := noCore, lastWg := noWg, owed := 0 }
  let next := if id + 1 = 2 ^ 32 then 1 else id + 1
  ((p.onCox (fun x => { x with launches := x.launches ++ [l], nextLaunch := next })).addInstances job ws, id)

end Sys2Proof.Machine
end

