-- ==== Sys2Proof/Machine/Launching.lean ====
section
/-! DEFINITION. Launches from the device: LREC, LAUNCH, CWAIT, CGET and CANCEL (R223 to R229), and the drain of
pending-launch queues to the cox (R224). -/

namespace Sys2Proof.Machine

/-! ### LREC, LAUNCH, R223, R224 -/

def bodyLrec (f : Base) (x : Ext) (c : Ctx) (s : State) : Act :=
  if !c.on s then .done s (fun _ => c.next)
  else
    let e := c.env s
    let base := (e.s f.d.toNat).toNat
    let a := base + 32 * mBits x 0 0
    if base % 64 != 0 then .trap { cause := causeMisalign, addr := base }
    else
      match (oobTrap c.g.scratch [(a, 32)]).orElse (fun _ => ringTrap c.g.scratch [(a, 32)]) with
      | some t => .trap t
      | none =>
        let bs := (groupRegs f.a 3).flatMap (fun r => leBytes 4 (e.s r).toNat)
        .done { s with part := s.part.winWrite c.ref.core c.ref.slot a bs } (fun _ => c.next)

def pendingSize : Nat := 4

/-- Push a record whose checks have passed: its id, and the entry of the pending-launch queue. -/
def Ctx.push (c : Ctx) (s : State) (ws : List Word) : State × Nat :=
  let queue := ((s.part.launch? c.g.launch).map (·.queue)).getD 0
  let (p, id) := s.part.addLaunch ws queue c.g.job c.g.launch (some (c.g.launch, c.g.number, c.ref.warp)) false
  let p := p.onWg c.ref.core c.ref.slot (fun g =>
    { g with pending := g.pending ++ [⟨id, ws, c.ref.warp⟩], pushed := g.pushed ++ [id] })
  ({ s with part := p }, id)

def bodyLaunch (f : Base) (x : Ext) (c : Ctx) (s : State) : Act :=
  let nb := mBit x 0
  if !c.on s then .done s (fun _ => c.next)
  else
    let e := c.env s
    let a := (e.s f.a.toNat).toNat
    if a % 64 != 0 then .trap { cause := causeMisalign, addr := a }
    else
      match oobTrap c.g.scratch [(a, 64)] with
      | some t => .trap t
      | none =>
        let empty := c.g.emptyLines (linesTouched [(a, 64)])
        let ws := bytesWords (s.part.winRead c.ref.core c.ref.slot a 64)
        if !empty.isEmpty then .stay (c.parkAt s (.lines c.ref.core c.ref.slot empty))
        else if !recordOk ws then .trap (trapOf causeLaunchBad)
        else if pendingSize ≤ c.g.pending.length then
          let fresh (w : Warp) : Warp := { w with release := w.release.filter (fun r => !r.done) }
          let s := { s with part := s.part.onWarp c.ref fresh }
          if nb then .done (c.writeWarp s [(.q x.c.toNat, 0)]) (fun _ => c.next)
          else .stay (c.parkAt s .queue)
        else
          c.releaseFirst s true scopeDv (fun s =>
            let (s, id) := c.push s ws
            let qs := if nb then [(Target.q x.c.toNat, (1 : Word))] else []
            .done (c.writeWarp s ([(.s f.d.toNat, word id)] ++ qs)) (fun _ => c.next))

/-- PENDING_LAUNCH_DRAIN: the oldest entry reaches the cox; its record is checked against its job (R323). -/
def execPendingLaunchDrain (core slot : Nat) (s : State) : Out :=
  .next (match s.part.wg? core slot with
    | none => s
    | some g =>
      match g.pending with
      | [] => s
      | e :: rest =>
        let p := s.part.onWg core slot (fun g => { g with pending := rest })
        let p := (p.onLaunch e.id (fun l => { l with atCox := true })).wakeSlot core slot (fun c => c == .queue)
        match p.launch? e.id with
        | none => { s with part := p }
        | some l =>
          let open_ := ((p.job? l.job).map (fun j => !j.closed)).getD false
          if open_ then { s with part := p } else { s with part := p }.deny l causeLaunchBad)

/-! ### Naming a counter, R225 -/

/-- The id that an instruction names at a level: none where R225 traps CWAIT_BAD. -/
def Ctx.named (c : Ctx) (s : State) (level id : Nat) : Option (Nat × Counter) :=
  let id := if level = 4 && id = 0 then c.g.job else id
  (s.part.counter? c.g.job level id).map (fun k => (id, k))

def cwaitBad : TrapInfo := trapOf causeCwaitBad

/-! ### CWAIT, R226, R227 -/

/-- Bytes of the save image of a workgroup, R288. -/
def Wg.imageSize (g : Wg) : Nat :=
  256 + g.warps.length * (1280 + 160 * g.nregs) + 2048 + roundUp (g.scratch / 1024) 128 + g.scratch + 32768 * g.ntiles

/-- First fit of an image in the save area of a queue, at multiples of 4 KiB (log entry 15). -/
def State.saveSpace (s : State) (queue bytes : Nat) : Option Nat :=
  let base := s.qcb queue 0x30 8
  let size := s.qcb queue 0x38 8
  let busy (a : Nat) : Bool := s.part.cox.saves.any (fun x => decide (x.1 < a + bytes) && decide (a < x.1 + x.2))
  let ends := s.part.cox.saves.map (fun x => roundUp (x.1 + x.2) 4096)
  let ok (a : Nat) : Bool := decide (base ≤ a) && decide (a + bytes ≤ base + size) && !busy a
  if base = 0 then none else minList? ((base :: ends).filter ok)

/-- The workgroup waits in place whatever its CWAIT says, R227. -/
def Ctx.staysPut (c : Ctx) (s : State) : Bool :=
  c.g.cls == 2 || decide (2 ≤ c.g.cluster) || c.g.warps.any (fun w => w.lock.isSome) || !c.g.receives.isEmpty
    || !(((s.part.core? c.ref.core).map (fun k => k.hampered c.ref.slot)).getD []).isEmpty

/-- A warp whose workgroup is to be swapped out is on the herd, and stops where it is in its skid, n more instructions in it. -/
def Warp.leaveCore (w : Warp) (n : Nat) : Warp :=
  match w.skid with
  | none => w.demote
  | some k => w.stopSkid k.by_ (k.issued + n)

/-- Begin a swap-out: the other warps halt, and the issuing warp issues no more. -/
def Ctx.beginSwap (c : Ctx) (s : State) (req : SwapReq) (at_ bytes : Nat) : State :=
  let stop (q : Warp × Nat) : Warp :=
    if q.2 = c.ref.warp then q.1.leaveCore 1 else (q.1.leaveCore 0).haltAll [.swap]
  let p := s.part.onWg c.ref.core c.ref.slot (fun g =>
    { g with warps := g.warps.zipIdx.map stop, swapping := some (req, at_, none) })
  { s with part := p.onCox (fun x => { x with saves := x.saves ++ [(at_, bytes)] }) }

/-- A CWAIT that goes on: it acquires at .DV. -/
def Ctx.counted_ (c : Ctx) (s : State) (d : BitVec 6) : Act :=
  let p := s.part.onCore c.ref.core (fun k => (s.part.dies.foldl (fun k x => k.see x.vc) k).acquire)
  let p := p.onWarp c.ref (fun w => { w with granted := w.granted.filter (fun pc => pc != c.pc) })
  .done (c.writeWarp { s with part := p } [(.q d.toNat, 0)]) (fun _ => c.next)

def bodyCwait (f : Base) (x : Ext) (c : Ctx) (s : State) : Act :=
  let level := mBits x 2 0
  if !c.on s then .done s (fun _ => c.next)
  else
    let e := c.env s
    let target := (e.s f.b.toNat).toNat
    if c.w.granted.contains c.pc then c.counted_ s f.d
    else
      match if level = 0 then none else c.named s level (e.s f.a.toNat).toNat with
      | none => .trap cwaitBad
      | some (id, k) =>
        let wait := WaitFor.counter level id target (mBit x 4)
        let meets := k.meets target (mBit x 4)
        let swap := mBit x 3 && (!meets || c.g.drain) && !c.staysPut s
        let space := if swap then s.saveSpace (((s.part.launch? c.g.launch).map (·.queue)).getD 0) c.g.imageSize else none
        match space with
        | some a =>
          let s := c.finish (c.writeWarp s [(.q f.d.toNat, 1)]) (fun _ => c.next)
          .stay (c.beginSwap s ⟨c.ref.warp, level, id, target, mBit x 4, meets⟩ a c.g.imageSize)
        | none =>
          let p := if !swap then s.part
            else match s.part.launch? c.g.launch with
              | none => s.part
              | some l => s.part.append { l.note 7 [] with
                  flags := (if l.pusher.isSome then 8 else 0) + 4, core := c.ref.core, wg := c.g.number }
          if meets then c.counted_ { s with part := p } f.d else .stay (c.parkAt { s with part := p } wait)

/-! ### CGET, R225, R228 -/

/-- CGET: count and flags of a counter, or at level 0 the warps that have finished, with no flag: CANCELLED and ERROR read 0 there
by DESIGN CHOICE, log entry 26. -/
def bodyCget (f : Base) (x : Ext) (c : Ctx) (s : State) : Act :=
  let level := mBits x 2 0
  if !c.on s then .done s (fun _ => c.next)
  else
    let id := ((c.env s).s f.a.toNat).toNat
    let give (k : Counter) : Act := .done (c.writeWarp s (sWrites f.d [word k.count, word k.flags])) (fun _ => c.next)
    if level = 0 then
      (if id != 0 then .trap cwaitBad else give { Counter.zero with count := (c.g.warps.filter Warp.finished).length })
    else
      match c.named s level id with
      | none => .trap cwaitBad
      | some (_, k) => give k

/-! ### CANCEL, R225, R229 -/

/-- Launches that some launches cover: themselves, and what they pushed, transitively. -/
def Part.closure (p : Part) : Nat → List Nat → List Nat
  | 0, ids => ids
  | fuel + 1, ids =>
    let more := (p.cox.launches.filter (fun l => !ids.contains l.id &&
      (l.pusher.map (fun q => ids.contains q.1)).getD false)).map (·.id)
    if more.isEmpty then ids else Part.closure p fuel (ids ++ more)

def Part.pushedBy (p : Part) (ids : List Nat) : List Nat := p.closure p.cox.launches.length ids

/-- A running workgroup that a cancel covers: sleepers wake, and those that wait on a barrier phase look again (R213). -/
def Wg.cancelled (g : Wg) (level : Nat) : Wg :=
  let rouse (w : Warp) : Warp := { w with threads := w.threads.map (fun t => t.rouse.wake (fun c => c == .phase)) }
  { g with cancel := true, cancelTrap := if g.cancel then g.cancelTrap else some level, warps := g.warps.map rouse }

/-- Core number that stands for a workgroup in the save area, by its image. -/
def awayCore (image : Nat) : Nat := 2 ^ 32 + image

/-- The slice comparators of a discarded image are released (R242), and the HALT commands its workgroup owes are answered. -/
def Part.dropAway (p : Part) (x : Swapped) : Part :=
  let p : Part := { p with comparators := p.comparators.map (fun q => q.filter (fun q => q.core != awayCore x.image)) }
  p.closeHalts x.core 0 x.kept

/-- Cancel one launch: its record, its unstarted and its swapped-out workgroups are counted as completed. -/
def Part.cancelLaunch (p : Part) (level id : Nat) : Part :=
  match p.launch? id with
  | none => p
  | some l =>
    if l.counter.complete then p
    else
      let gone := p.cox.swapped.filter (fun x => x.launch == id)
      let done := l.done + gone.length + (if l.noMore then 0 else l.total - l.placed.length)
      let mark (g : Wg) : Wg :=
        let left := g.pending.filter (fun e => e.id != id)
        let free (w : Warp) : Warp := { w with threads := w.threads.map (fun t => t.wake (fun c => c == .queue)) }
        let g := if left.length < g.pending.length then { g with pending := left, warps := g.warps.map free } else g
        if g.launch = id && g.dead.isNone && !g.complete then g.cancelled level else g
      let p := { p with cores := p.cores.map (fun (k : Core) => { k with slots := k.slots.map (Option.map mark) }) }
      let keep (a : Nat × Nat) : Bool := !gone.any (fun x => x.image == a.1)
      let p := p.onCox (fun x => { x with swapped := x.swapped.filter (fun y => y.launch != id), saves := x.saves.filter keep })
      let p := gone.foldl (fun p x => p.dropAway x) p
      let p := p.onLaunch id (fun l => { l with done := done, noMore := true, atCox := true, admitted := true, idle := decide (l.total ≤ done) })
      p.setCounter l.job 1 id (fun c => { c with cancelled := true, count := if done < l.total then done else c.count })

/-- Cancel what an instance at level 1 to 4 covers. -/
def Part.cancelLevel (p : Part) (job level id : Nat) : Part :=
  let inPhase := (p.cox.launches.filter (fun l => l.job == job && recPhase l.words == id)).map (fun l => recGraph l.words)
  let names (l : Launch) : Bool := l.job == job && (match level with
    | 1 => l.id == id
    | 2 => recGraph l.words == id
    | 3 => recPhase l.words == id || (recGraph l.words != 0 && inPhase.contains (recGraph l.words))
    | _ => true)
  let roots := p.cox.launches.filter names
  let mark (c : Counter) : Counter := { c with cancelled := true }
  let graphs := (roots.map (fun l => recGraph l.words)).filter (fun g => g != 0 && decide (3 ≤ level)) |>.eraseDups
  let phases := (roots.map (fun l => recPhase l.words)).filter (fun g => g != 0 && level == 4) |>.eraseDups
  let p := (p.pushedBy (roots.map (·.id))).foldl (fun p i => p.cancelLaunch level i) p
  let p := graphs.foldl (fun p g => p.setCounter job 2 g mark) p
  let p := phases.foldl (fun p g => p.setCounter job 3 g mark) p
  if level = 1 then p else p.setCounter job level id mark

/-- CANCEL at level 0, which the core answers: the workgroup itself and every launch it pushed. -/
def Part.cancelSelf (p : Part) (core slot : Nat) (g : Wg) : Part :=
  let roots := (p.cox.launches.filter (fun l => (l.pusher.map (fun q => (q.1, q.2.1))) == some (g.launch, g.number))).map (·.id)
  let p := (p.pushedBy roots).foldl (fun p i => p.cancelLaunch 0 i) p
  (p.onWg core slot (fun g => g.cancelled 0)).endDrains

def bodyCancel (f : Base) (x : Ext) (c : Ctx) (s : State) : Act :=
  let level := mBits x 2 0
  if !c.on s then .done s (fun _ => c.next)
  else if level = 4 && !c.w.trapMode then .trap (c.wordTrap causePriv)
  else
    let id := ((c.env s).s f.a.toNat).toNat
    if level = 0 then
      (if id != 0 then .trap cwaitBad
        else .done { s with part := s.part.cancelSelf c.ref.core c.ref.slot c.g } (fun _ => c.next))
    else
      match c.awaited with
      | some none =>
        -- the cox finds the id unknown by now
        if (c.named s level id).isNone then
          .trapState { s with part := (s.part.setAnswer c.ref none).onCox (fun x => { x with asked := x.asked.filter (fun a => a.1 != c.ref) }) } cwaitBad
        else .hold 15
      | some (some _) => .done { s with part := s.part.setAnswer c.ref none } (fun _ => c.next)
      | none =>
        match c.named s level id with
        | none => .trap cwaitBad
        | some (id, _) =>
          let p := (s.part.setAnswer c.ref (some (c.pc, none))).onCox (fun x => { x with asked := x.asked ++ [(c.ref, level, id)] })
          .holdState { s with part := p } 15

/-! ### The instructions -/

/-- LREC, R223. -/
def execLrec (f : Base) (x : Ext) (s : State) : Out :=
  issue ⟨.lrec, f, .long x⟩ s (bodyLrec f x)

/-- LAUNCH, R224. -/
def execLaunch (f : Base) (x : Ext) (s : State) : Out :=
  issue ⟨.launch, f, .long x⟩ s (bodyLaunch f x)

/-- CWAIT, R226, R227. -/
def execCwait (f : Base) (x : Ext) (s : State) : Out :=
  issue ⟨.cwait, f, .long x⟩ s (bodyCwait f x)

/-- CGET, R228. -/
def execCget (f : Base) (x : Ext) (s : State) : Out :=
  issue ⟨.cget, f, .long x⟩ s (bodyCget f x)

/-- CANCEL, R229. -/
def execCancel (f : Base) (x : Ext) (s : State) : Out :=
  issue ⟨.cancel, f, .long x⟩ s (bodyCancel f x)

end Sys2Proof.Machine
end

