-- ==== Sys2Proof/Machine/Completing.lean ====
section
/-! DEFINITION. How workgroups and launches complete (R17 to R19, R277, R331) and the commands of the decision port that
record it or decide on whole launches (R318, R321 to R323, R334, R447). -/

namespace Sys2Proof.Machine

/-! ### What a workgroup leaves behind -/

/-- A warp reference of the workgroup in a slot. -/
def inSlot (core slot : Nat) (w : WarpRef) : Bool := w.core == core && w.slot == slot

/-- Commands of a workgroup in its engines, or waiting for a number. -/
def Part.engineBusy (p : Part) (core slot : Nat) : Bool :=
  let k := (p.core? core).getD Core.reset
  (p.commands ++ p.cores.flatMap (fun k => k.numbering)).any (fun q => inSlot core slot q.w)
    || !(k.tileCmds slot).isEmpty || (k.running.map (fun x => x.w.slot == slot)).getD false

/-- Requests of a workgroup on their way: atomics, log entries, flushes, discards, unlocks, barrier updates and remote
requests other than for a lock. -/
def Part.requestsOpen (p : Part) (core slot : Nat) : Bool :=
  let k := (p.core? core).getD Core.reset
  k.atoms.any (fun a => inSlot core slot a.w) || k.oplog.any (fun e => inSlot core slot e.w)
    || k.walkers.any (fun w => inSlot core slot w.w) || k.discards.any (fun d => inSlot core slot d.2.2)
    || k.releases.any (fun x => (x.unlock.map (fun u => inSlot core slot u.1)).getD false)
    || p.tbUpdates.any (fun u => inSlot core slot u.w && u.command.isNone)
    || p.mgmt.remotes.any (fun r => inSlot core slot r.w && (r.kind != 7 || r.op == 2))

/-- Its engines have completed everything and nothing of it is on its way. -/
def Part.atRest (p : Part) (core slot : Nat) (g : Wg) : Bool :=
  g.ct.completed == g.ct.issued && g.mt.completed == g.mt.issued && g.xtOpen.isEmpty && g.pending.isEmpty
    && !p.engineBusy core slot && !p.requestsOpen core slot

/-- Lock requests of a workgroup are withdrawn. -/
def Part.withdrawLocks (p : Part) (core slot : Nat) : Part :=
  let entry (e : LockEntry) : LockEntry := { e with waiting := e.waiting.filter (fun q => !inSlot core slot q.w) }
  let die (d : Die) : Die :=
    { d with lockSends := d.lockSends.filter (fun q => q.frees || !inSlot core slot q.w),
             locks := (d.locks.map entry).filter (fun e => e.holder.isSome || !e.waiting.isEmpty) }
  { p with dies := p.dies.map die }

/-- Locks of a workgroup that no message has freed: those held, and those of releases under way (R415). -/
def Part.heldLocks (p : Part) (core slot : Nat) (g : Wg) : List (WarpRef × LockRef) :=
  g.warps.zipIdx.filterMap (fun q => q.1.lock.map (fun l => (⟨core, slot, q.2⟩, l)))
    ++ ((p.core? core).map (fun k => k.releases.filterMap (fun x => x.unlock.filter (fun u => inSlot core slot u.1)))).getD []

/-- Locks that a workgroup holds are freed without a release (R277, R307). -/
def Part.dropLocks (p : Part) (core slot : Nat) (g : Wg) : Part :=
  (p.heldLocks core slot g).foldl (fun p q => p.forfeitLock q.1 q.2) (p.withdrawLocks core slot)

/-- Predicates and slice comparators of a workgroup are released, its hampered messages and posted receives discarded (R220). -/
def Part.releaseOwned (p : Part) (core slot : Nat) : Part :=
  let free (d : Predicate) : Predicate := if d.owner = some slot then Predicate.start else d
  let p := p.onCore core (fun k =>
    { k with preds := k.preds.map free, oldPreds := k.oldPreds.map (fun ps => ps.map free), hamper := k.hamper.filter (fun m => m.dstSlot != slot) })
  let keep (q : Option Comparator) : Option Comparator := q.filter (fun q => !(q.core == core && q.slot == slot))
  { p.onWg core slot (fun g => { g with receives := [] }) with comparators := p.comparators.map keep }

/-- Empty slots of a core. -/
def Part.clearSlots (p : Part) (places : List (Nat × Nat)) : Part :=
  places.foldl (fun p m => p.onCore m.1 (fun k => { k with slots := setNth k.slots m.2 none })) p

/-- Every member of the cluster of a workgroup has completed. -/
def Part.clusterDone (p : Part) (g : Wg) : Bool :=
  g.members.all (fun m => match p.wg? m.1 m.2 with
    | none => true
    | some h => h.launch != g.launch || h.complete)

/-- The promotions of a workgroup that leaves its core end and are counted (R339). -/
def Part.endPromotionsOf (p : Part) (core : Nat) (g : Wg) : Part :=
  let n := (g.warps.filter (fun w => w.sprint.isSome)).length
  p.onCore core (fun k => { k with demo := modifyNth k.demo 0 (fun m => m + n) })

/-- A workgroup completes: it leaves its core, with the other members of its cluster when they have all completed. -/
def Part.leave (p : Part) (core slot : Nat) (g : Wg) : Part :=
  let p := (((p.closeHalts core slot g).dropLocks core slot g).releaseOwned core slot).endPromotionsOf core g
  let p := p.onWg core slot (fun g => { g with complete := true })
  let p := if g.cluster < 2 then p.clearSlots [(core, slot)] else if p.clusterDone g then p.clearSlots g.members else p
  let place := g.swapping.map (fun w => w.2.1)
  p.onCox (fun x => { x with left := x.left ++ [⟨g.launch, g.number, core, slot, g.dead, g.double⟩],
                             saves := x.saves.filter (fun a => some a.1 != place) })

/-- WORKGROUP_COMPLETE: its warps have exited, or it is disposed of, and its engines are done. -/
def execWorkgroupComplete (core slot : Nat) (s : State) : Out :=
  .next (match s.part.wg? core slot with
    | none => s
    | some g =>
      let exited := g.warps.all (fun w => w.finished && w.pend.isEmpty)
      if g.complete || g.dump.isSome || !(exited || g.dead.isSome) || !s.part.atRest core slot g then s
      else { s with part := (s.part.leave core slot g).endDrains })

/-! ### DPORT_WGDONE, DPORT_LEVELDONE -/

/-- The 32 bytes of a trap record, R290. -/
def TrapRec.bytes (r : TrapRec) : List Byte :=
  leBytes 4 ((if r.imp then 2 ^ 31 else 0) + r.cause) ++ leBytes 8 r.epc ++ leBytes 4 r.lanes ++ leBytes 8 r.addr ++
    leBytes 4 r.info0.toNat ++ leBytes 4 r.info1.toNat

/-- FLAGS bits of a note besides those it has. -/
def Note.flag (n : Note) (bits : Nat) : Note := { n with flags := n.flags + bits }

/-- A refused command of the decision port. -/
def State.portRefuse (s : State) : State := { s with part := s.part.onCox (fun x => { x with portErr := true }) }

/-- The records of a completed workgroup, R277, R334, R392. -/
def Part.recordLeft (p : Part) (l : Launch) (x : LeftWg) : Part :=
  let note (type : Nat) (payload : List Byte) : Note := { l.note type payload with core := x.core, wg := x.number % 2 ^ 32 }
  let p := p.count 3 l.queue
  match x.fatal with
  | none => p.append (note 4 [])
  | some r =>
    let p := p.append ((note 4 (leBytes 4 r.cause)).flag 2)
    let p := (p.countPart 9).append ((note 10 r.bytes).flag (2 + x.double.toNat))
    p.wakeEvent (dieOf x.core) 5 x.core (word r.cause)

/-- The counters of a launch one of whose workgroups has completed. The CMODE counter of a workgroup advances at some time after its
record: at once, or with that of the last workgroup, after the launch counter (R331); which, is a free value (log entry 14). -/
def State.countDone (s : State) (l : Launch) (x : LeftWg) : State :=
  let last := decide (l.total ≤ l.done + 1)
  let later := last || Config.freeBit (freeAt s.part.oracle (2 ^ 39))
  let owes := recCmode l.words == 2 && later
  let s := { s with part := { s.part with oracle := s.part.oracle + 1 } }
  let p := s.part.onLaunch l.id (fun l =>
    { l with done := l.done + 1, lastCore := x.core, lastWg := x.number % 2 ^ 32, owed := l.owed + owes.toNat })
  let p := p.setCounter l.job 1 l.id (fun c =>
    { c with error := c.error || x.fatal.isSome, count := if last then c.count else l.done + 1 })
  let s := { s with part := p }
  if recCmode l.words == 2 && !later then s.addCva l else s

/-- DPORT_WGDONE: the completion of a workgroup that has left its core. -/
def execDportWgdone (launch number : Nat) (s : State) : Out :=
  .next (match s.part.launch? launch, s.part.cox.left.find? (fun x => x.launch == launch && x.number == number) with
    | some l, some x =>
      let p := s.part.portAccept.onCox (fun c => { c with left := c.left.filter (fun y => !(y.launch == launch && y.number == number)) })
      { s with part := p.recordLeft l x }.countDone l x
    | _, _ => s.portRefuse)

/-- DPORT_LEVELDONE: an instance completes, R318; one that a reset has completed is recorded. -/
def execDportLeveldone (job level id : Nat) (s : State) : Out :=
  let hit (x : LevelDone) : Bool := x.job == job && x.level == level && x.id == id
  .next (match s.part.cox.levels.find? hit with
    | none => s.portRefuse
    | some x =>
      let p := s.part.portAccept.onCox (fun c => { c with levels := c.levels.eraseP hit })
      match x.counter with
      | some c => { s with part := p.append (x.note c) }
      | none => if s.part.levelOver x then { s with part := p : State }.completeNow x else s.portRefuse)

/-! ### LAUNCH_COMPLETE, R19, R331 -/

/-- Every workgroup of a launch has completed and is recorded. -/
def Part.launchOver (p : Part) (l : Launch) : Bool :=
  !l.counter.complete && decide (l.total ≤ l.done) && !p.cox.left.any (fun x => x.launch == l.id)

/-- The kernel boundary of R19 at a core: a release at .DV of its L1, which is invalid afterwards. It begins once the core has a
round free. -/
def Part.boundaryAt (p : Part) (core : Nat) : Part × Option Nat :=
  match p.beginRound core with
  | (p, none) => (p, none)
  | (p, some id) => (p.onCore core Core.boundary, some id)

/-- The kernel boundary begins where it has not yet: the L1s of the launch's cores are flushed and invalidated. -/
def Part.beginBoundary (p : Part) (l : Launch) (rounds : List (Nat × Option Nat)) : Part :=
  let go (a : Part × List (Nat × Option Nat)) (r : Nat × Option Nat) : Part × List (Nat × Option Nat) :=
    if r.2.isSome then (a.1, a.2 ++ [r])
    else
      let (p, id) := a.1.boundaryAt r.1
      (p, a.2 ++ [(r.1, id)])
  let (p, rounds) := rounds.foldl go (p, [])
  p.onLaunch l.id (fun l => { l with boundary := some rounds })

/-- The kernel boundary has been answered at every core. -/
def Part.boundaryOver (p : Part) (rounds : List (Nat × Option Nat)) : Bool :=
  rounds.all (fun r => (r.2.map (p.answered r.1)).getD false)

/-- LAUNCH_COMPLETE: the kernel boundary begins, and once its writes are visible the launch is to complete at the port. -/
def execLaunchComplete (launch : Nat) (s : State) : Out :=
  .next (match s.part.launch? launch with
    | none => s
    | some l =>
      if !s.part.launchOver l then s
      else
        let rounds := l.boundary.getD (l.cores.map (fun c => (c, none)))
        if !s.part.boundaryOver rounds then { s with part := s.part.beginBoundary l rounds }
        else
          { s with part := s.part.levelDue l.job 1 l.id (some l) })

/-! ### DPORT_ADMIT, DPORT_DENY, DPORT_CANCEL -/

def Launch.utag (l : Launch) : List Byte := leBytes 4 (nth l.words 14 0).toNat ++ leBytes 4 (nth l.words 15 0).toNat

/-- A launch that awaits a decision. -/
def Launch.undecided (l : Launch) : Bool := l.atCox && !l.admitted && !l.noMore && !l.counter.complete

/-- The record passes its checks (R323); that its job was open was checked when it was read. -/
def Part.recordGood (p : Part) (l : Launch) : Bool := recordOk l.words && (p.job? l.job).isSome

/-- DPORT_ADMIT: a launch is admitted. -/
def execDportAdmit (launch : Nat) (s : State) : Out :=
  .next (match s.part.launch? launch with
    | none => s.portRefuse
    | some l =>
      if !l.undecided || !s.part.recordGood l then s.portRefuse
      else
        let p := s.part.portAccept.onCox (fun x =>
          { x with launches := x.launches.map (fun y => if y.id = launch then { y with admitted := true, turn := x.admits + 1 } else y),
                   admits := x.admits + 1 })
        let payload := l.utag ++ leBytes 4 (nth l.words 1 0).toNat ++ leBytes 4 (nth l.words 4 0).toNat ++ leBytes 4 l.parent
        { s with part := (p.count 0 l.queue).append (l.note 1 payload) })

/-- DPORT_DENY: a launch is refused. -/
def execDportDeny (launch : Nat) (s : State) : Out :=
  .next (match s.part.launch? launch with
    | none => s.portRefuse
    | some l =>
      if !l.undecided then s.portRefuse
      else
        let s := s.deny l (if s.part.recordGood l then causeLaunchDenied else causeLaunchBad)
        { s with part := s.part.endDrains })

/-- The cox's answer to warps whose CANCEL it carries out. -/
def Part.answerAsked (p : Part) (f : WarpRef × Nat × Nat → Bool) : Part :=
  let told (p : Part) (a : WarpRef × Nat × Nat) : Part :=
    p.onWarp a.1 (fun w => { w with answer := w.answer.map (fun x => (x.1, some 1)) })
  ((p.cox.asked.filter f).foldl told p).onCox (fun x => { x with asked := x.asked.filter (fun a => !f a) })

/-- DPORT_CANCEL: a cancel over what an instance covers. -/
def execDportCancel (job level id : Nat) (s : State) : Out :=
  let mine (a : WarpRef × Nat × Nat) : Bool :=
    a.2 == (level, id) && ((s.part.wg? a.1.core a.1.slot).map (fun g => g.job == job)).getD false
  .next (if (s.part.counter? job level id).isNone then s.portRefuse
    else
      let l := if level = 1 then s.part.launch? id else none
      let n : Note :=
        { type := 9, flags := if (l.map (·.pusher.isSome)).getD false then 8 else 0, queue := (l.map (·.queue)).getD 0, core := noCore, launch := (l.map (·.id)).getD 0, job := job,
          wg := noWg, payload := leBytes 4 level ++ leBytes 4 id }
      let p := ((s.part.portAccept.cancelLevel job level id).answerAsked mine).endDrains
      { s with part := (p.countPart 8).append n })

end Sys2Proof.Machine
end

