-- ==== Sys2Proof/Machine/SysReg.lean ====
section
/-! DEFINITION. Traps, control registers, the format context and the watch bank (R230 to R244, R378). -/

namespace Sys2Proof.Machine

/-! ### TRAP and RTE, R235, R236 -/

def bodyTrap (_f : Base) (x : Ext) (c : Ctx) (s : State) : Act :=
  if !c.on s then .done s (fun _ => c.next) else swTrap (mBits x 11 0) (maskOf c.group) c s

/-- RTE: decoding has checked the mode. -/
def bodyRte (_f : Base) (_x : Ext) (c : Ctx) (s : State) : Act :=
  if s.part.debugHolds c.ref then .hold 15
  else
    let s := c.finish s (fun _ => c.next)
    let p := s.part.onWg c.ref.core c.ref.slot (fun g => g.returnFromTrap c.tbase c.ref.warp)
    .stay { s with part := p.settle c.ref.core c.ref.slot }

/-! ### Reading control registers, R231 to R234 -/

/-- Low or high half of a 64-bit register, by its number. -/
def csrHalf (n v : Nat) : Word := if n % 2 = 0 then word v else word (v / 2 ^ 32)

/-- Registers of a warp. -/
def Warp.csr (w : Warp) (n : Nat) : Word :=
  match n with
  | 0x000 => w.tcause
  | 0x001 => w.tlanes
  | 0x002 => csrHalf n w.tepc
  | 0x003 => csrHalf n w.tepc
  | 0x004 => csrHalf n w.taddr
  | 0x005 => csrHalf n w.taddr
  | 0x006 => w.tinfo0
  | 0x007 => w.tinfo1
  | 0x008 => word w.tskid
  | 0x009 => word (min 7 w.tqueue.length + 256 * w.tlost)
  | 0x010 => word w.fstat.toNat
  | 0x011 => word w.ften.toNat
  | 0x012 => word ((if w.trapMode then 2 ^ 31 else 0) + (if w.hchk then 1 else 0))
  | n => nth w.tsave (n - 0x00A) 0

/-- Word j of format entry i, R75. -/
def FmtCtx.word (c : FmtCtx) (i j : Nat) : Word :=
  let e := c.entry i
  nth [e.w0, e.w1, e.w2, e.w3] j 0

/-- One value of a timeline pair of registers: COMPLETED, ISSUED, ERRFIRST. -/
def Timeline.csr (t : Timeline) (n : Nat) : Word :=
  csrHalf n (nth [t.completed, t.issued, t.errFirst] (n / 2) 0)

/-- Registers of a core. -/
def Core.csr (k : Core) (n : Nat) : Word :=
  if 0x200 ≤ n ∧ n < 0x280 then (nth k.preds ((n - 0x200) / 8) Predicate.start).word (n % 8)
  else if 0x300 ≤ n ∧ n < 0x312 then csrHalf n (nth k.ehist ((n - 0x300) / 2) 0)
  else if 0x320 ≤ n ∧ n < 0x340 then csrHalf n (nth k.stall ((n - 0x320) / 2) 0)
  else if n = 0x342 then (if k.pctl then 1 else 0)
  else k.part

/-- A control register as it stands at issue. -/
def Ctx.csr (c : Ctx) (s : State) (n : Nat) : Word :=
  let k := (s.part.core? c.ref.core).getD Core.reset
  let d := s.part.die (dieOf c.ref.core)
  if n < 0x100 then c.w.csr n
  else if n < 0x180 then c.g.fmt.word ((n - 0x100) / 4) (n % 4)
  else if n < 0x1C0 then nth (nth c.g.fmt.tables ((n - 0x180) / 8) []) (n % 8) 0
  else if 0x280 ≤ n ∧ n < 0x284 then nth c.g.swsel (n - 0x280) 0
  else if n = 0x284 then word c.g.swheld
  else if n = 0x340 ∨ n = 0x341 then csrHalf n c.g.bconf
  else if n ≤ 0x400 then k.csr n
  else if n < 0x404 then csrHalf n c.tbase
  else if n < 0x416 then c.g.ct.csr (n - 0x410)
  else if n < 0x41C then c.g.mt.csr (n - 0x416)
  else if n < 0x420 then (((s.part.launch? c.g.launch).map (·.xt)).getD Timeline.zero).csr (n - 0x41C)
  else if n = 0x420 then word ((if k.narrow then 1 else 0) + (if d.alarm then 2 else 0))
  else if n = 0x421 then word d.palarm
  else if n = 0x430 then word s.part.mgmt.devid
  else if n = 0x431 then word (0x72000000 + Config.stepping.toNat)
  else if n = 0x432 then s.part.cox.ucver
  else if n = 0x433 then word c.g.job
  else if n < 0x436 then csrHalf n Config.serial.toNat
  else word (nth s.part.clusters (clusterOf c.ref.core) Cluster.reset).trlost

/-- A lane instruction whose flags are still to come: one of fixed latency, or a decoding load. -/
def Pend.raisesFlags (e : Pend) : Bool :=
  e.due.isSome && e.lanes.any (fun l => l.lane != warpLane) || e.flags != 0 ||
    e.lanes.any (fun l => match l.form with
      | .dec _ _ _ => true
      | _ => false)

def bodyCsrr (f : Base) (_x : Ext) (c : Ctx) (s : State) : Act :=
  if !c.on s then .done s (fun _ => c.next)
  else if c.csrs.contains csrFstat && c.w.pend.any Pend.raisesFlags then .hold 15
  else .done (c.writeWarp s (sWrites f.d (c.csrs.map (c.csr s)))) (fun _ => c.next)

/-! ### Writing control registers, R233, R242, R378 -/

/-- Replace one half of a 64-bit register. -/
def putHalf (n old : Nat) (v : Word) : Nat :=
  if n % 2 = 0 then old / 2 ^ 32 * 2 ^ 32 + v.toNat else old % 2 ^ 32 + v.toNat * 2 ^ 32

/-- A write of a register of the warp; FSTAT clears where the value is 1. -/
def Warp.putCsr (w : Warp) (n : Nat) (v : Word) : Warp :=
  match n with
  | 0x001 => { w with tlanes := v }
  | 0x002 => { w with tepc := putHalf n w.tepc v }
  | 0x003 => { w with tepc := putHalf n w.tepc v }
  | 0x010 => { w with fstat := w.fstat &&& ~~~(BitVec.ofNat 8 v.toNat) }
  | 0x011 => { w with ften := BitVec.ofNat 4 v.toNat }
  | 0x012 => { w with hchk := v.toNat % 2 == 1 }
  | n => { w with tsave := setNth w.tsave (n - 0x00A) v }

/-- A write of a register of the core. -/
def Core.putCsr (k : Core) (n : Nat) (v : Word) : Core :=
  if n < 0x312 then { k with ehist := modifyNth k.ehist ((n - 0x300) / 2) (fun x => putHalf n x v) }
  else if n < 0x340 then { k with stall := modifyNth k.stall ((n - 0x320) / 2) (fun x => putHalf n x v) }
  else { k with pctl := v.toNat % 2 == 1 }

/-- The leaf of an address, whatever it permits. -/
def State.pageOf (s : State) (job va : Nat) : Option (Nat × Nat) :=
  match s.part.context? job with
  | none => none
  | some t =>
    match s.walk noCache va 0 tableLevels t.table with
    | .error _ => none
    | .ok (pte, span) => some (physical (leafLoc pte span va), span)

/-- The physical extents of a virtual range, R378: address, first virtual address and length; none when a page is not
present or more than four are needed. -/
def State.extents (s : State) (job : Nat) : Nat → Nat → Nat → List (Nat × Nat × Nat) → Option (List (Nat × Nat × Nat))
  | 0, _, _, _ => none
  | fuel + 1, va, stop, acc =>
    if stop ≤ va then some acc
    else
      match s.pageOf job va with
      | none => none
      | some (loc, span) =>
        let n := min (span - va % span) (stop - va)
        let acc := match acc.getLast? with
          | some (l, v, m) => if l + m = loc then acc.dropLast ++ [(l, v, m + n)] else acc ++ [(loc, va, n)]
          | none => [(loc, va, n)]
        if 4 < acc.length then none else State.extents s job fuel (va + n) stop acc

def Predicate.extents (s : State) (job : Nat) (d : Predicate) : Option (List (Nat × Nat × Nat)) :=
  s.extents job (d.len / 65536 + 3) d.addr (d.addr + d.len) []

/-- A write of SWSEL k: a trap, or the part after it. -/
def Ctx.putSwsel (c : Ctx) (s : State) (k : Nat) (v : Word) : Except TrapInfo Part :=
  let n := v.toNat % 16
  let on := field v 31 31 == 1
  let mine (q : Comparator) : Bool := q.core == c.ref.core && q.slot == c.ref.slot
  let cur := nth s.part.comparators k none
  let set (p : Part) (q : Option Comparator) (held : Bool) : Part :=
    let sel := word (n + (if on then 2 ^ 31 else 0))
    let other := c.g.swheld - bitNat c.g.swheld k * 2 ^ k
    let p := p.onWg c.ref.core c.ref.slot (fun g =>
      { g with swsel := setNth g.swsel k sel, swheld := other + (if held then 2 ^ k else 0) })
    { p with comparators := setNth p.comparators k q }
  let csrBad : TrapInfo := { cause := causeCsrBad, info0 := 0x280 + k }
  if (cur.map (fun q => !mine q)).getD false then .error { cause := causeProt, info0 := maskOf c.group }
  else if !on then .ok (set s.part none false)
  else
    let d := nth ((s.part.core? c.ref.core).getD Core.reset).preds n Predicate.start
    if d.owner != some c.ref.slot || (d.kind != 2 && d.kind != 3) || d.access.testBit 3 then .error csrBad
    else
      match Predicate.extents s c.g.job d with
      | none => .error csrBad
      | some xs => .ok (set s.part (some ⟨c.ref.core, c.ref.slot, n, d.words, xs⟩) true)

/-- CSRW: the value under OPW, the check of TEPC (log entry 13), and the write. -/
def bodyCsrw (f : Base) (x : Ext) (c : Ctx) (s : State) : Act :=
  if !c.on s then .done s (fun _ => c.next)
  else
    let n := mBits x 11 0
    let a := (c.env s).s f.a.toNat
    let old := c.csr s n
    let v := match mBits x 13 12 with
      | 0 => a
      | 1 => old ||| a
      | _ => old &&& ~~~a
    let done (p : Part) : Act := .done { s with part := p } (fun _ => c.next)
    if (n = 0x002 && field v 1 0 != 0) || (n = 0x003 && field v 31 25 != 0) then
      .trap { cause := causeBadTarget, addr := putHalf n c.w.tepc v % 2 ^ 57, info0 := maskOf c.group }
    else if n < 0x100 then done (s.part.onWarp c.ref (fun w => w.putCsr n v))
    else if n < 0x284 then
      match c.putSwsel s (n - 0x280) v with
      | .error t => .trap t
      | .ok p => done p
    else if n = 0x340 ∨ n = 0x341 then
      done (s.part.onWg c.ref.core c.ref.slot (fun g => { g with bconf := putHalf n g.bconf v }))
    else done (s.part.onCore c.ref.core (fun k => k.putCsr n v))

/-! ### The format context, R95, R237 -/

/-- The image with LOCKED clear and the next generation of the entry it replaces. -/
def Entry.installed (f : Entry) (old : Entry) : Entry :=
  { f with w1 := word (field f.w1 27 0 + (old.gen + 1) % 8 * 2 ^ 28) }

/-- An entry with the next generation. -/
def Entry.nextGen (f : Entry) : Entry :=
  { f with w1 := word (field f.w1 31 31 * 2 ^ 31 + (f.gen + 1) % 8 * 2 ^ 28 + field f.w1 27 0) }

/-- A tag of an outstanding lane result, or a command that has issued and is not dispatched, names an entry. -/
def Wg.fmtBusy (g : Wg) (i : Nat) : Bool :=
  g.warps.any (fun w =>
    w.heldCmd.any (fun h => w.waitsAt h.1 && h.2.contains i) ||
    w.pend.any (fun e => e.lanes.any (fun l => l.lane != warpLane && l.tags.any (fun t => tagIndex t == i))))

/-- Install a change of entries once nothing in flight names them. -/
def Ctx.install (c : Ctx) (s : State) (is : List Nat) (f : FmtCtx → FmtCtx) : Act :=
  let others := c.g.fmtWait.filter (fun q => q.1 != c.ref.warp || q.2.1 != c.pc)
  let set (h : Wg → Wg) : State := { s with part := s.part.onWg c.ref.core c.ref.slot h }
  if is.any c.g.fmtBusy then
    .holdState (set (fun g => { g with fmtWait := others ++ [(c.ref.warp, c.pc, is)] })) 15
  else .done (set (fun g => { g with fmtWait := others, fmt := f g.fmt })) (fun _ => c.next)

def bodyFmtset (f : Base) (x : Ext) (c : Ctx) (s : State) : Act :=
  let e := c.env s
  let i := mBits x 4 0
  let a := f.a.toNat
  let image : Entry := ⟨e.s a, e.s (a + 1), e.s (a + 2), e.s (a + 3)⟩
  if !c.on s then .done s (fun _ => c.next)
  else if (c.g.fmt.entry i).locked || !imageOk c.g.fmt image then .trap (fmtTrap causeFmtIllegal 0 2 i (c.g.fmt.tagOf i))
  else c.install s [i] (fun t => { t with entries := setNth t.entries i (image.installed (t.entry i)) })

def bodyFmtget (f : Base) (x : Ext) (c : Ctx) (s : State) : Act :=
  if !c.on s then .done s (fun _ => c.next)
  else .done (c.writeWarp s (sWrites f.d ((List.range 4).map (c.g.fmt.word (mBits x 4 0))))) (fun _ => c.next)

def bodyCpdset (f : Base) (x : Ext) (c : Ctx) (s : State) : Act :=
  let image := (groupRegs f.a 3).map (c.env s).s
  let n := mBits x 3 0
  let names (t : Entry) : Bool := !t.locked && t.cpd == n
  let is := (List.range 32).filter (fun i => names (c.g.fmt.entry i))
  if !c.on s then .done s (fun _ => c.next)
  else if !tableOk image then .trap (fmtTrap causeFmtIllegal 0 2 n 0)
  else c.install s is (fun t =>
    { tables := setNth t.tables (n - 1) image, entries := t.entries.map (fun e => if names e then e.nextGen else e) })

/-! ### The watch bank, R239, R243 -/

/-- A definition that WPSET refuses, R239. -/
def Predicate.badForm (d : Predicate) : Bool :=
  field (d.word 0) 31 24 != 0 || d.cmp == 7 || decide (5 < d.action) || decide (4 < d.kind)
    || field (d.word 2) 31 25 != 0 || field (d.word 4) 31 22 != 0 || field (d.word 7) 31 24 != 0
    || ((d.kind == 2 || d.kind == 3) && (d.len == 0 || decide (2 ^ 57 < d.addr + d.len) || d.access % 8 == 0))
    || (d.kind == 1 && (d.len != 0 || d.addr % 4 != 0))
    || (d.kind == 4 && d.fexc == 0)

/-- The number of WPDEF word 0 of a predicate, which CSR_BAD names. -/
def wpdefCsr (n : Nat) : Nat := 0x200 + 8 * n

/-- A predicate changes; what issues in this cycle still meets the old ones (R244). -/
def Core.putPred (k : Core) (n : Nat) (d : Predicate) : Core :=
  { k with preds := setNth k.preds n d, oldPreds := some (k.oldPreds.getD k.preds) }

def bodyWpset (f : Base) (x : Ext) (c : Ctx) (s : State) : Act :=
  let n := mBits x 3 0
  let d : Predicate := ⟨(groupRegs f.a 3).map (c.env s).s, some c.ref.slot, false, 0, false⟩
  let cur := nth ((s.part.core? c.ref.core).getD Core.reset).preds n Predicate.start
  if !c.on s then .done s (fun _ => c.next)
  else if d.badForm then .trap { cause := causeCsrBad, info0 := wpdefCsr n }
  else if d.launchScope && !c.w.trapMode then .trap (c.wordTrap causePriv)
  else if cur.owner.isSome && cur.owner != some c.ref.slot && cur.enabled then
    .trap { cause := causeProt, info0 := maskOf c.group }
  else .done { s with part := s.part.onCore c.ref.core (fun k => k.putPred n d) } (fun _ => c.next)

def bodyWpctl (f : Base) (x : Ext) (c : Ctx) (s : State) : Act :=
  let n := mBits x 3 0
  let cur := nth ((s.part.core? c.ref.core).getD Core.reset).preds n Predicate.start
  let mine := cur.owner == some c.ref.slot
  let set (d : Predicate) : Act :=
    .done { s with part := s.part.onCore c.ref.core (fun k => k.putPred n d) } (fun _ => c.next)
  let give (v : Word) : Act := .done (c.writeWarp s [(.s f.d.toNat, v)]) (fun _ => c.next)
  let op := mBits x 6 4
  if !c.on s then .done s (fun _ => c.next)
  else if op ≤ 2 && cur.owner.isSome && !mine then .trap { cause := causeProt, info0 := maskOf c.group }
  else
    match op with
    | 0 => if mine then set { cur with enabled := true } else .trap { cause := causeCsrBad, info0 := wpdefCsr n }
    | 1 => set { cur with enabled := false }
    | 2 => set { cur with count := 0, fired := false }
    | 3 => give (word cur.count)
    | _ => give (word (cur.enabled.toNat + 2 * cur.fired.toNat + 4 * mine.toNat))

/-! ### The instructions -/

/-- TRAP, R235. -/
def execTrap (f : Base) (x : Ext) (s : State) : Out :=
  issue ⟨.trap, f, .long x⟩ s (bodyTrap f x)

/-- RTE, R236. -/
def execRte (f : Base) (s : State) : Out :=
  issue ⟨.rte, f, .short⟩ s (bodyRte f Ext.absent)

/-- CSRR, R233. -/
def execCsrr (f : Base) (x : Ext) (s : State) : Out :=
  issue ⟨.csrr, f, .long x⟩ s (bodyCsrr f x)

/-- CSRW, R233. -/
def execCsrw (f : Base) (x : Ext) (s : State) : Out :=
  issue ⟨.csrw, f, .long x⟩ s (bodyCsrw f x)

/-- FMTSET, R237. -/
def execFmtset (f : Base) (x : Ext) (s : State) : Out :=
  issue ⟨.fmtset, f, .long x⟩ s (bodyFmtset f x)

/-- FMTGET, R237. -/
def execFmtget (f : Base) (x : Ext) (s : State) : Out :=
  issue ⟨.fmtget, f, .long x⟩ s (bodyFmtget f x)

/-- CPDSET, R237. -/
def execCpdset (f : Base) (x : Ext) (s : State) : Out :=
  issue ⟨.cpdset, f, .long x⟩ s (bodyCpdset f x)

/-- WPSET, R243. -/
def execWpset (f : Base) (x : Ext) (s : State) : Out :=
  issue ⟨.wpset, f, .long x⟩ s (bodyWpset f x)

/-- WPCTL, R243. -/
def execWpctl (f : Base) (x : Ext) (s : State) : Out :=
  issue ⟨.wpctl, f, .long x⟩ s (bodyWpctl f x)

end Sys2Proof.Machine
end

