-- ==== Sys2Proof/Machine/Halted.lean ====
section
/-! DEFINITION. Halted threads: reading, writing, stepping and resuming them (R245 to R248), and live-dump requests
(R250). -/

namespace Sys2Proof.Machine

/-! ### Targets and items, R245, R246 -/

/-- Warp and lane of a target word; none when bits 31 to 9 are not 0 or the warp is not declared. -/
def Wg.target (g : Wg) (t : Word) : Option (Nat × Nat) :=
  let w := field t 8 5
  if field t 31 9 != 0 || decide (g.warps.length ≤ w) then none else some (w, field t 4 0)

/-- A thread that HREAD accepts. -/
def Thread.readable (t : Thread) : Bool := t.isHalted || t.isExited

/-- Every register write of a thread of the warp has committed. -/
def Warp.committed (w : Warp) (lane : Nat) : Bool :=
  !w.pend.any (fun e => e.lanes.any (fun l => l.lane == lane || l.lane == warpLane))

/-- Predicates as bits 6 to 0. -/
def predBits (ps : List Bool) : Nat := maskOf ((List.range 7).filter (predAt ps))

def bitsPreds (v : Nat) : List Bool := (List.range 7).map (fun i => v.testBit i)

/-- State held under a halt: 0 ready, 1 parked, by K too (R50), 2 asleep. -/
def Thread.heldCode (t : Thread) (kPark : Bool) : Nat :=
  match t.st with
  | .halted .ready _ => kPark.toNat
  | .halted (.parked _) _ => 1
  | .halted (.asleep _) _ => 2
  | _ => 0

/-- Register of a v item that the workgroup does not have. -/
def Wg.beyond (g : Wg) (item : Nat) : Option Nat :=
  if item < 0x80 ∧ g.nregs ≤ item % 64 then some (item % 64) else none

/-- The value of an item. -/
def Warp.readItem (w : Warp) (lane item : Nat) : Word :=
  match w.lane? lane with
  | none => 0
  | some t =>
    if item < 0x40 then nth t.v item 0
    else if item < 0x80 then word (nth t.tags (item - 0x40) 0).toNat
    else if item < 0xC0 then nth w.s (item - 0x80) 0
    else
      match item with
      | 0xC0 => word (predBits t.p)
      | 0xC1 => word (predBits w.q)
      | 0xC2 => word t.pc
      | 0xC3 => word (t.pc / 2 ^ 32)
      | 0xC4 => word (t.heldCode w.kPark)
      | 0xC5 => word w.tskid
      | 0xC6 => word t.safePc
      | _ => word (t.safePc / 2 ^ 32)

/-- A value that HWRITE refuses for a half of the PC. -/
def badPc (item : Nat) (v : Word) : Bool :=
  (item == 0xC2 && field v 1 0 != 0) || (item == 0xC3 && field v 31 25 != 0)

/-- Write an item. -/
def Warp.writeItem (w : Warp) (lane item : Nat) (v : Word) : Warp :=
  let on (f : Thread → Thread) : Warp := w.onLane lane f
  if item < 0x40 then on (fun t => { t with v := setNth t.v item v })
  else if item < 0x80 then on (fun t => { t with tags := setNth t.tags (item - 0x40) (BitVec.ofNat 8 v.toNat) })
  else if item < 0xC0 then { w with s := setNth w.s (item - 0x80) v }
  else
    match item with
    | 0xC0 => on (fun t => { t with p := bitsPreds v.toNat })
    | 0xC1 => { w with q := bitsPreds v.toNat }
    | _ => on (fun t => { t with pc := putHalf item t.pc v, retry := false })

/-- BAD_TARGET of a target word (log entry 13). -/
def Ctx.badTarget (c : Ctx) (t : Word) : Act :=
  .trap { cause := causeBadTarget, addr := t.toNat, info0 := maskOf c.group }

/-- Go on with a target of another warp that a condition accepts, once its writes have committed. -/
def Ctx.target (c : Ctx) (s : State) (a : Word) (accept : Thread → Bool) (go : Nat → Nat → Warp → Act) : Act :=
  match c.g.target a with
  | none => c.badTarget a
  | some (i, l) =>
    match c.g.warps[i]? with
    | none => c.badTarget a
    | some w =>
      if i = c.ref.warp || !((w.lane? l).map accept).getD false then c.badTarget a
      else if !w.committed l || s.part.debugHolds c.ref then .hold 15
      else go i l w

def bodyHread (f : Base) (x : Ext) (c : Ctx) (s : State) : Act :=
  let item := mBits x 7 0
  if !c.on s then .done s (fun _ => c.next)
  else c.target s ((c.env s).s f.a.toNat) Thread.readable (fun _ l w =>
    .done (c.writeWarp s [(.s f.d.toNat, w.readItem l item)]) (fun _ => c.next))

def bodyHwrite (f : Base) (x : Ext) (c : Ctx) (s : State) : Act :=
  let e := c.env s
  let item := mBits x 7 0
  let v := e.s f.b.toNat
  if !c.on s then .done s (fun _ => c.next)
  else c.target s (e.s f.a.toNat) Thread.isHalted (fun i l _ =>
    if badPc item v then .trap { cause := causeBadTarget, addr := v.toNat, info0 := maskOf c.group }
    else .done { s with part := s.part.onWarp ⟨c.ref.core, c.ref.slot, i⟩ (fun w => w.writeItem l item v) }
      (fun _ => c.next))

/-! ### HSTEP, R247 -/

/-- HSTEP asks for the step, waits until it is done and its results have committed, and writes q(D). -/
def bodyHstep (f : Base) (_x : Ext) (c : Ctx) (s : State) : Act :=
  let a := (c.env s).s f.a.toNat
  let setAnswer (s : State) (x : Option (Nat × Option Nat)) : State :=
    { s with part := s.part.onWarp c.ref (fun w => { w with answer := x }) }
  if !c.on s then .done s (fun _ => c.next)
  else
    match (c.w.answer.filter (fun x => x.1 == c.pc)).map (·.2) with
    | some none => .hold 15
    | some (some r) =>
      let busy := match (c.g.target a).bind (fun t => (c.g.warps[t.1]?).map (fun w => !w.committed t.2)) with
        | none => false
        | some b => b
      if busy then .hold 15
      else .done (c.writeWarp (setAnswer s none) [(.q f.d.toNat, word r)]) (fun _ => c.next)
    | none =>
      c.target s a Thread.isHalted (fun i l _ =>
        if s.part.stepReq.isSome then .hold 15
        else
          let req : StepReq := ⟨⟨c.ref.core, c.ref.slot, i⟩, l, some c.ref, false, false⟩
          .holdState (setAnswer { s with part := { s.part with stepReq := some req } } (some (c.pc, none))) 15)

/-! ### HRES, R248 -/

/-- End the halts of some lanes of a warp; what the warp records of a halt goes with the last of them. -/
def Warp.resumeLanes (w : Warp) (lanes : List Nat) (f : HaltBy → Bool) : Warp :=
  let w := w.onLanes lanes (fun t => t.unhalt f)
  let own := w.threads.any (fun t => t.haltedBy (fun b => b == .watch))
  { w with ownHalt := w.ownHalt && own, haltCause := if w.anyHalted then w.haltCause else 0 }

def bodyHres (f : Base) (_x : Ext) (c : Ctx) (s : State) : Act :=
  let a := (c.env s).s f.a.toNat
  let i := field a 8 5
  if !c.on s then .done s (fun _ => c.next)
  else if field a 31 11 != 0 || decide (c.g.warps.length ≤ i) then c.badTarget a
  else if s.part.debugHolds c.ref then .hold 15
  else
    let lanes := if field a 10 9 != 0 then allLanes else [field a 4 0]
    let on (q : Warp × Nat) : Warp :=
      if field a 10 10 = 1 ∨ q.2 = i then q.1.resumeLanes lanes (fun _ => true) else q.1
    let p := s.part.onWg c.ref.core c.ref.slot (fun g => { g with warps := g.warps.zipIdx.map on })
    let s := c.finish { s with part := p } (fun _ => c.next)
    .stay { s with part := s.part.settle c.ref.core c.ref.slot }

/-! ### DUMPQ, R250 -/

/-- The ticket of a live dump of a workgroup: the pending one, a new one, or 0 for a job that permits none. -/
def Part.requestDump (p : Part) (core slot : Nat) (g : Wg) : Part × Nat :=
  match g.dump with
  | some (t, _) => (p, t)
  | none =>
    if !((p.job? g.job).map (·.debug)).getD false then (p, 0)
    else
      let t := p.cox.nextTicket
      ((p.onCox (fun x => { x with nextTicket := x.nextTicket + 1 })).onWg core slot
        (fun g => { g with dump := some (t, p.now) }), t)

def bodyDumpq (f : Base) (x : Ext) (c : Ctx) (s : State) : Act :=
  if !c.on s then .done s (fun _ => c.next)
  else
    let (p, t) := s.part.requestDump c.ref.core c.ref.slot c.g
    let s := { s with part := p }
    .done (if mBit x 0 then c.writeWarp s [(.s f.d.toNat, word t)] else s) (fun _ => c.next)

/-! ### The instructions -/

/-- HREAD, R246. -/
def execHread (f : Base) (x : Ext) (s : State) : Out :=
  issue ⟨.hread, f, .long x⟩ s (bodyHread f x)

/-- HWRITE, R246. -/
def execHwrite (f : Base) (x : Ext) (s : State) : Out :=
  issue ⟨.hwrite, f, .long x⟩ s (bodyHwrite f x)

/-- HSTEP, R247. -/
def execHstep (f : Base) (x : Ext) (s : State) : Out :=
  issue ⟨.hstep, f, .long x⟩ s (bodyHstep f x)

/-- HRES, R248. -/
def execHres (f : Base) (x : Ext) (s : State) : Out :=
  issue ⟨.hres, f, .long x⟩ s (bodyHres f x)

/-- DUMPQ, R250. -/
def execDumpq (f : Base) (s : State) : Out :=
  issue ⟨.dumpq, f, .short⟩ s (bodyDumpq f Ext.absent)

/-- DUMPQ_LONG, R250. -/
def execDumpqLong (f : Base) (x : Ext) (s : State) : Out :=
  issue ⟨.dumpq, f, .long x⟩ s (bodyDumpq f x)

end Sys2Proof.Machine
end

