-- ==== Sys2Proof/Machine/Placement.lean ====
section
/-! DEFINITION. Placement of workgroups on cores (R21, R23, R28, R29, R295, R318, R447), drains (R285, R328) and forced resets
(R287). -/

namespace Sys2Proof.Machine

/-! ### What fits, R28, R29, R294 -/

/-- Rows of a partition word: registers, scratchpad, tiles. -/
def regRows (w : Word) : Nat := field w 4 0
def scrRows (w : Word) : Nat := field w 9 5
def accRows (w : Word) : Nat := field w 14 10

def partitionOk (w : Word) : Bool := field w 31 15 == 0 && decide (regRows w + scrRows w + accRows w ≤ 32)

/-- Resident workgroups of a core. -/
def Core.wgs (k : Core) : List Wg := k.slots.filterMap id

def Core.isEmpty (k : Core) : Bool := k.wgs.isEmpty

/-- The needs of a workgroup. -/
structure Need where
  warps : Nat
  regs : Nat
  scratch : Nat
  tiles : Nat

def needOf (ws : List Word) : Need := ⟨recWarps ws, recRegs ws, recScratch ws, recTiles ws⟩

def Wg.need (g : Wg) : Need := ⟨g.warps.length, g.nregs, g.scratch, g.ntiles⟩

/-- Lowest multiple of 592 bytes at which a window of n bytes overlaps no segment of another. -/
def Core.windowAt (k : Core) (n : Nat) : Option Nat :=
  let ends := k.wgs.map (fun g => roundUp (g.base + g.scratch) segBytes)
  let free (a : Nat) : Bool :=
    decide (a + n ≤ scrRows k.part * poolRow) && !k.wgs.any (fun g =>
      decide (g.base < roundUp (a + n) segBytes) && decide (a < roundUp (g.base + g.scratch) segBytes))
  minList? ((0 :: ends).filter free)

/-- Room for one more workgroup: its slot and the base of its window. -/
def Core.room (k : Core) (n : Need) : Option (Nat × Nat) :=
  let sum (f : Wg → Nat) : Nat := (k.wgs.map f).foldl (· + ·) 0
  let fits := decide (sum (fun g => g.warps.length * g.nregs * 128) + n.warps * n.regs * 128 ≤ regRows k.part * poolRow)
    && decide (sum (fun g => g.scratch) + n.scratch ≤ scrRows k.part * poolRow)
    && decide (sum (fun g => g.ntiles) + n.tiles ≤ accRows k.part * 37 / 32)
    && decide (sum (fun g => g.warps.length) + n.warps ≤ 48)
  if !fits then none
  else match k.slots.findIdx? Option.isNone, k.windowAt n.scratch with
    | some slot, some base => some (slot, base)
    | _, _ => none

/-- A new partition word: scratchpad rows that enter service hold zeros, those that leave it lose their contents. -/
def Core.setPartition (k : Core) (w : Word) : Core :=
  let top := min (scrRows k.part) (scrRows w) * poolRow
  { k with part := w, spad := k.spad.filter (fun b => decide (b.1 < top)),
           owners := k.owners.filter (fun o => decide (o.1 < top / segBytes)) }

/-- The window of a workgroup that starts: segments last written by another job are cleared, and record the job (R23). -/
def Core.clearWindow (k : Core) (job base n : Nat) : Core :=
  let segs := (List.range (ceilDiv n segBytes)).map (fun i => base / segBytes + i)
  let stale := segs.filter (fun i => lookupKey i k.owners != some job)
  { k with spad := k.spad.filter (fun b => !stale.contains (b.1 / segBytes)),
           owners := stale.foldl (fun t i => insertKey i job t) k.owners }

/-! ### A workgroup starts, R16, R21 -/

/-- A workgroup of a launch as it starts. -/
def Launch.startWg (l : Launch) (number base now : Nat) : Wg :=
  let ws := l.words
  let gx := field (nth ws 2 0) 30 0
  let gy := field (nth ws 3 0) 15 0
  let warp (i : Nat) : Warp := Warp.start (recEntry ws) (recRegs ws) (recParam ws) (32 * i) (recThreads ws) now
  { launch := l.id, job := l.job, number := number, x := number % gx, y := number / gx % gy, z := number / (gx * gy),
    warps := (List.range (recWarps ws)).map warp, nregs := recRegs ws, ntiles := recTiles ws, scratch := recScratch ws,
    base := base, threads := recThreads ws, cls := recClass ws, phaseMode := recPhaseMode ws, cluster := recCluster ws,
    rank := if recCluster ws < 2 then 0 else number % recCluster ws, members := [],
    tiles := List.replicate (recTiles ws) Tile.start, layouts := List.replicate 8 (List.replicate 6 0),
    fmt := FmtCtx.initial, fmtWait := [], lines := [], bars := List.replicate 16 Barrier.start, caught := [],
    ct := Timeline.zero, mt := Timeline.zero, xtLast := 0, xtOpen := [], copies := 0, sends := 0, receives := [],
    pending := [], drain := false, deadline := none, cancel := false, cancelTrap := none, bconf := 0,
    swsel := List.replicate 4 0, swheld := 0, pushed := [], haltReq := false, haltsDue := 0, broadcast := none, dump := none,
    swapping := none, traceLost := 0, traceNotice := false, dead := none, double := false, complete := false, placed := now }

/-- A core acquires at .DV. -/
def Part.acquireDv (p : Part) (core : Nat) : Part :=
  p.onCore core (fun k => (p.dies.foldl (fun k x => k.see x.vc) k).acquire)

/-- Place one workgroup: none where the command is to be refused. The answer is where it stands. -/
def Part.placeOne (p : Part) (l : Launch) (x : Placing) : Option (Part × Nat × Nat) :=
  match p.core? x.core with
  | none => none
  | some k =>
    if x.partition != k.part && !(k.isEmpty && partitionOk x.partition) then none
    else
      let k := if x.partition = k.part then k else k.setPartition x.partition
      match k.room (needOf l.words) with
      | none => none
      | some (slot, base) =>
        let k := k.clearWindow l.job base (recScratch l.words)
        let k := { k with slots := setNth k.slots slot (some (l.startWg x.number base p.now)) }
        some (p.onCore x.core (fun _ => k), x.core, slot)

/-- Place workgroups one after the other: number, core and slot of each. -/
def Part.placeAll (p : Part) (l : Launch) : List Placing → Option (Part × List (Nat × Nat × Nat))
  | [] => some (p, [])
  | x :: xs =>
    match p.placeOne l x with
    | none => none
    | some (p, core, slot) => (Part.placeAll p l xs).map (fun r => (r.1, (x.number, core, slot) :: r.2))

/-! ### DPORT_PLACE -/

/-- The members of the cluster of a number among the places, in rank order. -/
def clusterOfNumber (size number : Nat) (places : List (Nat × Nat × Nat)) : List (Nat × Nat) :=
  (List.range size).filterMap (fun i => (places.find? (fun q => q.1 == number / size * size + i)).map (·.2))

/-- Clusters are whole, on distinct cores of one hardware cluster (R17). -/
def clustersWhole (size : Nat) (xs : List Placing) : Bool :=
  xs.all (fun x =>
    let mates := (List.range size).filterMap (fun i => xs.find? (fun y => y.number == x.number / size * size + i))
    let cores := mates.map (·.core)
    mates.length == size && cores.eraseDups.length == size && cores.all (fun c => clusterOf c == clusterOf x.core))

/-- A drained workgroup of a launch is still vacating a core, R285. -/
def Part.vacating (p : Part) (l : Launch) (core : Nat) : Bool :=
  p.cores.zipIdx.any (fun k => (recClass l.words == 2 || k.2 == core) && k.1.wgs.any (fun g => g.launch == l.id && g.drain))

/-- The checks of R17, R18, R20 and R318 that are not a core's. -/
def Part.mayPlace (p : Part) (l : Launch) (xs : List Placing) : Bool :=
  let ns := xs.map (·.number)
  let size := recCluster l.words
  l.admitted && !l.noMore && !l.counter.complete && !xs.isEmpty
    && decide (ns.eraseDups.length = ns.length) && ns.all (fun n => decide (n < l.total) && !l.placed.contains n)
    && (recClass l.words != 0 || ns.zipIdx.all (fun q => q.1 == l.placed.length + q.2))
    && (recClass l.words != 2 || decide (ns.length = l.total))
    && (decide (size < 2) || clustersWhole size xs)
    && !xs.any (fun x => p.vacating l x.core)

/-- Runs of consecutive numbers of one core: first number and slots. -/
def runsOf : List (Nat × Nat) → List (Nat × List Nat)
  | [] => []
  | (n, s) :: r =>
    match runsOf r with
    | (m, ss) :: rest => if m = n + 1 then (n, s :: ss) :: rest else (n, [s]) :: (m, ss) :: rest
    | [] => [(n, [s])]

/-- Places of one core by ascending number. -/
def sortedPlaces : List (Nat × Nat) → List (Nat × Nat)
  | [] => []
  | q :: r => insertKey q.1 q.2 (sortedPlaces r)

/-- The PLACE records of a command, R447. -/
def Part.recordPlaces (p : Part) (l : Launch) (places : List (Nat × Nat × Nat)) : Part :=
  (List.range p.cores.length).foldl (fun p c =>
    let mine := sortedPlaces ((places.filter (fun q => q.2.1 == c)).map (fun q => (q.1, q.2.2)))
    let word_ := ((p.core? c).map (·.part)).getD 0
    (runsOf mine).foldl (fun p run =>
      let payload := leBytes 4 word_.toNat ++ leBytes 4 run.2.length ++ leBytes 8 (maskOf run.2)
      p.append { l.note 3 payload with core := c, wg := run.1 % 2 ^ 32 }) p) p

/-- What follows an accepted placement: cluster members, acquires, counts and records. -/
def Part.placed (p : Part) (l : Launch) (places : List (Nat × Nat × Nat)) : Part :=
  let size := recCluster l.words
  let p := if size < 2 then p
    else places.foldl (fun p q => p.onWg q.2.1 q.2.2 (fun g => { g with members := clusterOfNumber size q.1 places })) p
  let cores := (places.map (fun q => q.2.1)).eraseDups
  let p := cores.foldl Part.acquireDv p
  let first := (cores.head?).map dieOf
  let p := p.onLaunch l.id (fun l =>
    { l with placed := l.placed ++ places.map (·.1), anchor := l.anchor.orElse (fun _ => first),
             cores := l.cores ++ cores.filter (fun c => !l.cores.contains c) })
  ((places.foldl (fun p _ => p.count 2 l.queue) p).recordPlaces l places).endDrains

/-- Places in the order of their numbers, in which a core's slots are taken (R447). -/
def byNumber (xs : List Placing) : List Placing :=
  (xs.foldl (fun t x => insertKey x.number x t) []).map (·.2)

/-- DPORT_PLACE: workgroups of one launch are placed, or the command is refused. -/
def execDportPlace (launch : Nat) (places : List Placing) (s : State) : Out :=
  .next (match s.part.launch? launch with
    | none => s.portRefuse
    | some l =>
      if !s.part.mayPlace l places then s.portRefuse
      else
        match s.part.placeAll l (byNumber places) with
        | none => s.portRefuse
        | some (p, at_) => { s with part := p.portAccept.placed l at_ })

/-! ### DPORT_DRAIN -/

/-- A workgroup is drained: %drain, the notice and the deadline. One already drained keeps its deadline (R329). -/
def Part.drainOne (p : Part) (core slot us : Nat) : Part :=
  p.onWg core slot (fun g =>
    if g.drain then g
    else
      let g := { g with drain := true, deadline := some (p.now + 4000 * us) }
      g.queueTrap (g.lowestLive.getD 0) (impTrap causePreempt 0 (word us) 0))

/-- The workgroups that a drain names stand there, and concurrent launches are drained whole. -/
def Part.mayDrain (p : Part) (cause : Nat) (vs : List Resident) : Bool :=
  let gs := vs.map (fun v => p.wg? v.core v.slot)
  let whole (g : Wg) : Bool := g.cls != 2 || (p.wgsOf g.launch).all (fun h => gs.any (fun x =>
    (x.map (fun x => x.launch == h.launch && x.number == h.number)).getD false))
  !vs.isEmpty && gs.all (fun g => match g with
    | none => false
    | some g => g.dead.isNone && !g.complete && whole g) && (cause == 0 || (p.launch? cause).isSome)

/-- Root queue of the workgroup in a slot. -/
def Part.rootQueue (p : Part) (core slot : Nat) : Nat :=
  (((p.wg? core slot).bind (fun g => p.launch? g.launch)).map (·.queue)).getD 0

/-- FLAGS.DEVICE of a record whose LAUNCH is a device launch (R333). -/
def Part.deviceFlag (p : Part) (launch : Nat) : Nat := if ((p.launch? launch).map (·.pusher.isSome)).getD false then 8 else 0

/-- The open drain that a launch joins, R329: one for a waiting launch of lower effective priority. -/
def State.drainToJoin (s : State) (launch : Nat) : Option Nat :=
  match s.part.launch? launch with
  | none => none
  | some l => s.part.cox.drains.findIdx? (fun d => s.part.drainOpen d && d.cause != launch &&
      ((s.part.launch? d.cause).map (fun x => decide (s.prioOf x < s.prioOf l))).getD false)

/-- Start a drain of workgroups for a launch, or for a close or host request (0): one record per root queue. A launch joins the
drain that is under way: only workgroups that no drain covers yet are drained and recorded for it. -/
def State.drainWgs (s : State) (cause : Nat) (vs : List Resident) : State :=
  let name (v : Resident) : Option (Nat × Nat) := (s.part.wg? v.core v.slot).map (fun g => (g.launch, g.number))
  let names := vs.filterMap name
  let join := s.drainToJoin cause
  let covered (v : Resident) : Bool := ((s.part.wg? v.core v.slot).map (·.drain)).getD false
  let vs := vs.filter (fun v => cause == 0 || !covered v)
  let queues := (vs.map (fun v => s.part.rootQueue v.core v.slot)).eraseDups
  let p := s.part.onCox (fun x => { x with drains := match join with
    | none => x.drains ++ [⟨cause, [], names⟩]
    | some i => modifyNth x.drains i (fun d =>
        { d with joined := d.joined ++ [cause], victims := d.victims ++ names.filter (fun n => !d.victims.contains n) }) })
  let p := vs.foldl (fun p v => p.drainOne v.core v.slot (s.deadlineOf (s.part.rootQueue v.core v.slot))) p
  { s with part := queues.foldl (fun p q =>
      let mine := vs.filter (fun v => s.part.rootQueue v.core v.slot == q)
      let n := mine.length
      let job := ((mine.head?).bind (fun v => (s.part.wg? v.core v.slot).map (·.job))).getD 0
      let note : Note :=
        { type := 6, flags := s.part.deviceFlag cause, queue := q, core := noCore, launch := cause, job := job, wg := noWg,
          payload := leBytes 4 cause ++ leBytes 4 (s.deadlineOf q) ++ leBytes 4 n }
      (p.count 4 q).append note) p }

/-- DPORT_DRAIN: a drain of resident workgroups starts. -/
def execDportDrain (cause : Nat) (victims : List Resident) (s : State) : Out :=
  .next (if !s.part.mayDrain cause victims then s.portRefuse
    else { s with part := s.part.portAccept }.drainWgs cause victims)

/-! ### FORCED_RESET, R287 -/

/-- A workgroup is thrown off its core without a word. -/
def Part.discardWg (p : Part) (core slot : Nat) (g : Wg) : Part :=
  let p := ((p.closeHalts core slot g).dropLocks core slot g).releaseOwned core slot
  let mine := inSlot core slot
  let p := p.onCore core (fun k =>
    { k with slots := setNth k.slots slot none, oplog := k.oplog.filter (fun e => !mine e.w),
             atoms := k.atoms.filter (fun a => !mine a.w), walkers := k.walkers.filter (fun w => !mine w.w),
             arrayQueue := k.arrayQueue.filter (fun x => !mine x.w), running := k.running.filter (fun x => !mine x.w),
             releases := k.releases.map (fun x => { x with unlock := x.unlock.filter (fun u => !mine u.1) }) })
  let p := p.onMgmt (fun m => { m with remotes := m.remotes.filter (fun r => !mine r.w) })
  { p with tbUpdates := p.tbUpdates.filter (fun u => !mine u.w) }

/-- Commands of a job abort: what has not moved is abandoned in a list kept readable, and the number completes in
error. -/
def State.abortCommands (s : State) (job : Nat) : State :=
  let one (s : State) (q : Command) : State :=
    let dropSeg (g : Segment) : Segment := if g.waiting then { g with state := 2, cause := causeDeadline } else g
    let q := { q with segments := q.segments.map dropSeg, flying := [], settled := true, dropped := true }
    let s := (s.putCommand q).writeList q
    { s with part := (s.part.reportNumber q true).dropCommand q.id }
  let mine := s.part.commands.filter (fun q => q.job == job)
  let s := mine.foldl one s
  let gone (k : Core) : Core := { k with numbering := k.numbering.filter (fun q => q.job != job) }
  let ids := mine.map (·.id)
  { s with part := { s.part with
      cores := s.part.cores.map gone,
      dies := s.part.dies.map (fun d => { d with messages := d.messages.filter (fun m => !ids.contains m.1) }) } }

/-- Every launch of a job completes with ERROR at every level; the cox records it afterwards. -/
def Part.failJob (p : Part) (job : Nat) : Part :=
  let mine := (p.cox.launches.filter (fun l => l.job == job && !l.counter.complete)).map (·.id)
  let fail (c : Counter) : Counter := { c with error := true }
  let p := p.onCox (fun x =>
    { x with launches := x.launches.map (fun l => if mine.contains l.id
        then { l with done := l.total, noMore := true, atCox := true, boundary := some [], owed := 0 } else l),
             left := x.left.filter (fun y => !mine.contains y.launch) })
  let p := p.onCox (fun x => { x with levels := x.levels.filter (fun y => y.job != job || y.counter.isSome) })
  let one (p : Part) (level id : Nat) (by_ : Option Launch) : Part :=
    let p := ((p.setCounter job level id fail).completeLevel job level id).levelDue job level id by_
    let c := ((p.counter? job level id).orElse (fun _ => (p.launch? id).map (·.counter))).getD Counter.zero
    let set (y : LevelDone) : LevelDone := if y.job = job && y.level == level && y.id == id then { y with counter := some c } else y
    p.onCox (fun x => { x with levels := x.levels.map set })
  let p := mine.foldl (fun p i => one p 1 i (p.launch? i)) p
  match p.job? job with
  | none => p
  | some j =>
    let p := j.graphs.foldl (fun p g => one p 2 g.1 none) p
    let p := j.phases.foldl (fun p g => one p 3 g.1 none) p
    let p := one p 4 job none
    { p with jobs := p.jobs.filter (fun j => j.id != job) }.onCox
      (fun x => { x with launches := x.launches.filter (fun l => l.job != job) })

/-- The reset of a job's work on the part, for the drain of a workgroup. -/
def State.resetJob (s : State) (cause : Nat) (core : Nat) (g : Wg) (queue : Nat) : State :=
  let s := s.abortCommands g.job
  let places := s.part.cores.zipIdx.flatMap (fun k => (k.1.slots.zipIdx.filterMap (fun q => q.1.bind (fun h =>
    if h.job = g.job then some (k.2, q.2, h) else none))))
  let away := s.part.cox.swapped.filter (fun x => x.job == g.job)
  let p := places.foldl (fun p q => p.discardWg q.1 q.2.1 q.2.2) s.part
  let p := p.onCox (fun x =>
    { x with swapped := x.swapped.filter (fun y => y.job != g.job),
             saves := x.saves.filter (fun a => !away.any (fun y => y.image == a.1)
               && !places.any (fun q => (q.2.2.swapping.map (fun w => w.2.1 == a.1)).getD false)),
             asked := x.asked.filter (fun a => !places.any (fun q => inSlot q.1 q.2.1 a.1)) })
  let p := away.foldl (fun p x => p.dropAway x) p
  let p := p.count 7 queue
  let note : Note :=
    { type := 11, flags := 2 + p.deviceFlag cause, queue := queue, core := noCore, launch := cause, job := g.job, wg := noWg,
      payload := leBytes 4 cause ++ leBytes 4 (places.length + away.length) }
  let p := (p.append note).wakeEvent (dieOf core) 1 core (word g.job)
  { s with part := (p.failJob g.job).endDrains }

/-- A drained workgroup is resident past its deadline. -/
def Wg.overdue (g : Wg) (now : Nat) : Bool :=
  g.drain && !g.complete && (g.deadline.map (fun d => decide (d ≤ now))).getD false

/-- Lowest core and slot of an overdue workgroup of a job. -/
def Part.overdueAt (p : Part) (job : Nat) : Option (Nat × Nat × Wg) :=
  (p.cores.zipIdx.flatMap (fun k => k.1.slots.zipIdx.filterMap (fun q => q.1.bind (fun h =>
    if h.job == job && h.overdue p.now then some (k.2, q.2, h) else none)))).head?

/-- FORCED_RESET: the deadline of a drained workgroup has passed. -/
def execForcedReset (core slot : Nat) (s : State) : Out :=
  .next (match s.part.wg? core slot with
    | none => s
    | some g =>
      if !g.overdue s.part.now then s
      else
        match s.part.overdueAt g.job with
        | none => s
        | some (c, i, h) =>
          let cause := ((s.part.cox.drains.find? (fun d => d.victims.contains (h.launch, h.number))).map (·.cause)).getD 0
          s.resetJob cause c h (s.part.rootQueue c i))

end Sys2Proof.Machine
end

