-- ==== Sys2Proof/Machine/Image.lean ====
section
/-! DEFINITION. Save images (R288 to R293): swap-out (R227, R327), resumption (R292, R380) and live dumps (R250, R391). -/

namespace Sys2Proof.Machine

def zeroBytes (n : Nat) : List Byte := List.replicate n 0

def byteOf (n : Nat) : Byte := BitVec.ofNat 8 n

/-- Bits of a list of predicates, 0 to 6. -/
def predByte (ps : List Bool) : Byte := byteOf (maskOf ((List.range 7).filter (predAt ps)))

/-! ### Writing, R289 to R291 -/

def Live.imageCode : Live → Nat
  | .ready => 0
  | .parked (.bar _ _) => 1
  | .parked (.conv _) => 1
  | .parked (.catchStep _) => 1
  | .parked _ => 0
  | .asleep _ => 2

/-- A halt made for the image alone. -/
def HaltBy.forImage : HaltBy → Bool
  | .swap => true
  | .dump => true
  | _ => false

/-- The state code of a thread; a halt made for the image is not told. -/
def TState.imageCode : TState → Nat
  | .live l => l.imageCode
  | .halted l bs => if bs.all HaltBy.forImage then l.imageCode else 3
  | .exited => 4
  | .never => 5

/-- The state under a halt. -/
def TState.under : TState → Live
  | .live l => l
  | .halted l _ => l
  | _ => .ready

/-- Remaining sleep in ns. -/
def Thread.sleepLeft (t : Thread) (now : Nat) : Nat :=
  match t.st.under with
  | .asleep z => ceilDiv (z - now) 4
  | _ => 0

def wordBytes (ws : List Word) : List Byte := ws.flatMap (fun w => leBytes 4 w.toNat)

/-- Halt cause as the image holds it: a cause of kind H or 0. -/
def Warp.haltCode (w : Warp) : Nat :=
  if w.haltCause = causeStep || w.haltCause = causeSibHalt || w.haltCause = causeHaltReq then w.haltCause else 0

/-- The record of warp i, R290. -/
def Wg.warpImage (g : Wg) (now i : Nat) (w : Warp) : List Byte :=
  let th := w.threads
  let conv := w.conv.headD (0, 0)
  let arrived (b : Barrier) : Nat := maskOf (allLanes.filter (fun l => b.arrived.contains (32 * i + l)))
  let queue := ((w.tqueue.take 7).flatMap TrapRec.bytes ++ zeroBytes 224).take 224
  th.flatMap (fun t => leBytes 8 t.pc) ++ th.map (fun t => byteOf t.st.imageCode) ++
    th.flatMap (fun t => leBytes 4 (t.sleepLeft now)) ++ th.map (fun t => predByte t.p) ++ wordBytes w.s ++
    [predByte w.q, byteOf (w.trapMode.toNat + 2 * w.ownHalt.toNat)] ++ leBytes 2 w.haltCode ++ leBytes 4 conv.2 ++
    leBytes 8 conv.1 ++ wordBytes ((List.range 14).map w.csr) ++ wordBytes ([0x010, 0x011, 0x012].map w.csr) ++ zeroBytes 4 ++
    g.bars.flatMap (fun b => leBytes 4 (arrived b)) ++ queue ++ zeroBytes 200 ++
    (List.range g.nregs).flatMap (fun r => th.flatMap (fun t => leBytes 4 (nth t.v r 0).toNat)) ++
    (List.range g.nregs).flatMap (fun r => th.map (fun t => nth t.tags r 0))

def Barrier.image (b : Barrier) : List Byte :=
  leBytes 4 (b.phase.toNat + match b.count with
    | none => 0
    | some n => 2 ^ 13 + 256 * n)

def Timeline.image (t : Timeline) : List Byte := leBytes 8 t.completed ++ leBytes 8 t.issued ++ leBytes 8 t.errFirst

/-- Predicate p of a core for the workgroup in a slot; one that it does not own is all zero. -/
def Predicate.image (d : Predicate) (slot : Nat) : List Byte :=
  if d.owner = some slot then
    wordBytes d.words ++ leBytes 4 d.count ++ leBytes 4 (d.enabled.toNat + 2 * d.fired.toNat + 4) ++ zeroBytes 8
  else zeroBytes 48

/-- The workgroup section, R291. -/
def Wg.section (g : Wg) (k : Core) (slot : Nat) : List Byte :=
  (List.range 32).flatMap (fun i => wordBytes ((List.range 4).map (g.fmt.word i))) ++ g.fmt.tables.flatMap wordBytes ++
    g.layouts.flatMap wordBytes ++ g.bars.flatMap Barrier.image ++ g.ct.image ++ g.mt.image ++ leBytes 8 g.xtLast ++
    leBytes 8 g.bconf ++ k.preds.flatMap (fun d => d.image slot) ++ wordBytes g.swsel ++ leBytes 4 g.pending.length ++ zeroBytes 4 ++
    (List.range 16).map (fun a => if a < g.ntiles then (g.tile a).tag else 0) ++ zeroBytes 152

def Wg.fullBytes (g : Wg) : Nat := roundUp (g.scratch / 1024) 128

/-- The full/empty bits. -/
def Wg.lineImage (g : Wg) : List Byte :=
  let full (l : Nat) : Bool := decide (128 * l < g.scratch) && (g.lineState l).full
  (List.range g.fullBytes).map (fun j => byteOf (maskOf ((List.range 8).filter (fun b => full (8 * j + b)))))

def Tile.image (t : Tile) : List Byte := wordBytes ((List.range 8192).map (fun i => t.word (i / 128) (i % 128)))

/-- Offset of the workgroup section. -/
def Wg.sectionAt (g : Wg) : Nat := 256 + g.warps.length * (1280 + 160 * g.nregs)

/-- The header, R289. -/
def Wg.header (g : Wg) (flags w4 ticket gtime core log : Nat) : List Byte :=
  let h := g.sectionAt
  leBytes 4 0x47534A4F ++ leBytes 2 1 ++ leBytes 2 flags ++ leBytes 8 g.imageSize ++ leBytes 4 g.launch ++ leBytes 4 g.x ++
    leBytes 4 (g.y + 2 ^ 16 * g.z) ++ leBytes 4 w4 ++ leBytes 4 g.threads ++ leBytes 4 ticket ++ leBytes 8 gtime ++ leBytes 4 core ++
    leBytes 4 log ++ leBytes 8 h ++ leBytes 8 (h + 2048 + g.fullBytes) ++ leBytes 8 (h + 2048 + g.fullBytes + g.scratch) ++
    zeroBytes 176

/-- Scratchpad bytes: those of empty lines are indeterminate in a live dump (log entry 1). -/
def Part.scratchImage (p : Part) (core slot : Nat) (g : Wg) (live : Bool) : List Byte :=
  let bs := p.winRead core slot 0 g.scratch
  if !live || g.lines.all (fun l => l.2.full) then bs
  else bs.zipIdx.map (fun b =>
    if (g.lineState (b.2 / 128)).full then b.1 else byteOf (Config.freeWord (freeAt p.oracle (2 ^ 36 + b.2))).toNat)

/-- The whole image of the workgroup in a slot: a live dump under a ticket, or a swap image. -/
def Part.imageOf (p : Part) (core slot : Nat) (g : Wg) (ticket : Option Nat) : List Byte :=
  let k := (p.core? core).getD Core.reset
  let live := ticket.isSome
  let flags := if live then 1 + (if g.lines.all (fun l => l.2.full) then 0 else 4) else 2
  let w4 := ((p.launch? g.launch).map (fun l => (nth l.words 4 0).toNat)).getD 0
  let log := (k.oplog.filter (fun e => inSlot core slot e.w)).length
  g.header flags w4 (ticket.getD 0) p.gtime core log ++ g.warps.zipIdx.flatMap (fun q => g.warpImage p.now q.2 q.1) ++
    g.section k slot ++ g.lineImage ++ p.scratchImage core slot g live ++ (g.tiles.take g.ntiles).flatMap Tile.image

/-! ### SWAP_OUT, R227, R288, R327 -/

/-- Comparators of a workgroup that leaves are disarmed and stay held, R380. -/
def Part.disarm (p : Part) (core slot image : Nat) : Part :=
  let off (q : Comparator) : Comparator :=
    if q.core = core ∧ q.slot = slot then { q with core := awayCore image, slot := 0, extents := [] } else q
  { p with comparators := p.comparators.map (Option.map off) }

/-- Free the place of an image. -/
def Part.freeSave (p : Part) (image : Nat) : Part :=
  p.onCox (fun x => { x with saves := x.saves.filter (fun a => a.1 != image) })

/-- The workgroup is gone from its core, its image written. -/
def Part.swapped (p : Part) (core slot : Nat) (g : Wg) (req : SwapReq) (image : Nat) : Part :=
  let k := (p.core? core).getD Core.reset
  let preds := (k.preds.zipIdx.filter (fun d => d.1.owner == some slot)).map (·.2)
  let away : Swapped := ⟨g.launch, g.number, g.job, image, g.imageSize, core, req, req.met, g.drain, preds, [], g⟩
  let p := (p.homeWrite image (p.imageOf core slot g none)).disarm core slot image
  let p := ((p.dropLocks core slot g).releaseOwned core slot).clearSlots [(core, slot)]
  let p := p.onCox (fun x => { x with swapped := x.swapped ++ [away] })
  match p.launch? g.launch with
  | none => p
  | some l => (p.count 5 l.queue).append { l.note 7 (leBytes 8 image ++ leBytes 8 g.imageSize) with core := core, wg := g.number % 2 ^ 32 }

/-- A cancelled workgroup is discarded in place of its image, and counts as completed (R229). -/
def Part.discardSwap (p : Part) (core slot : Nat) (g : Wg) (image : Nat) : Part :=
  let p := ((((p.closeHalts core slot g).dropLocks core slot g).releaseOwned core slot).clearSlots [(core, slot)]).freeSave image
  match p.launch? g.launch with
  | none => p
  | some l =>
    let p := p.onLaunch l.id (fun l => { l with done := l.done + 1 })
    p.setCounter l.job 1 l.id (fun c => { c with count := if l.done + 1 < l.total then l.done + 1 else c.count })

/-- Some launch that a workgroup has pushed has drained to the cox, which has yet to admit it; a concurrent one may have to wait for
room. -/
def Part.unadmitted (p : Part) (g : Wg) : Bool :=
  p.cox.launches.any (fun l => g.pushed.contains l.id && l.undecided && recClass l.words != 2)

/-- SWAP_OUT: after the drain of queues and engines a .DV release begins, and once it is complete the image is written and
the core freed. -/
def execSwapOut (core slot : Nat) (s : State) : Out :=
  .next (match s.part.wg? core slot with
    | none => s
    | some g =>
      match g.swapping with
      | none => s
      | some (req, image, round) =>
        if g.dead.isSome || g.dump.isSome || !g.warps.all (fun w => w.pend.isEmpty) || !s.part.atRest core slot g
            || s.part.unadmitted g then s
        else
          match round with
          | none =>
            let (p, id) := s.part.beginRound core
            { s with part := p.onWg core slot (fun g => { g with swapping := some (req, image, id) }) }
          | some id =>
            if !s.part.answered core id then s
            else
              let p := if g.cancel then s.part.discardSwap core slot g image else s.part.swapped core slot g req image
              { s with part := p.endDrains })

/-! ### Reading an image, R292 -/

/-- Little-endian field of an image. -/
def imgNat (img : List Byte) (off n : Nat) : Nat := leNat ((img.drop off).take n)

def imgWords (img : List Byte) (off n : Nat) : List Word := (List.range n).map (fun i => word (imgNat img (off + 4 * i) 4))

/-- A wait that an image keeps. -/
def Live.keeps : Live → Bool
  | .parked (.bar _ _) => true
  | .parked (.conv _) => true
  | .parked (.catchStep _) => true
  | _ => false

/-- State of a thread from its code and remaining sleep; what it waited for and who halted it come from the workgroup
that left. -/
def restoreState (old : TState) (code wake : Nat) : TState :=
  let wait : Live := if old.under.keeps then old.under else .ready
  match code with
  | 0 => .live .ready
  | 1 => .live wait
  | 2 => .live (.asleep wake)
  | 3 =>
    let causes : List HaltBy := match old with
      | .halted _ bs => bs.filter (fun b => !b.forImage)
      | _ => []
    .halted (match old.under with
      | .asleep _ => .asleep wake
      | .parked _ => wait
      | .ready => .ready) (if causes.isEmpty then [.watch] else causes)
  | 4 => .exited
  | _ => .never

/-- A thread from the record of its warp at an offset. -/
def Thread.restore (t : Thread) (img : List Byte) (at_ nregs now l : Nat) : Thread :=
  let wake := now + 4 * imgNat img (at_ + 288 + 4 * l) 4
  { t with
    pc := imgNat img (at_ + 8 * l) 8, st := restoreState t.st (imgNat img (at_ + 256 + l) 1) wake,
    v := (List.range nregs).map (fun r => word (imgNat img (at_ + 1280 + 128 * r + 4 * l) 4)),
    tags := (List.range nregs).map (fun r => byteOf (imgNat img (at_ + 1280 + 128 * nregs + 32 * r + l) 1)),
    p := (List.range 7).map (fun i => (imgNat img (at_ + 416 + l) 1).testBit i), passed := 0, retry := false, begun := false, since := now }

/-- A waiting trap entry. -/
def trapAt (img : List Byte) (off : Nat) : TrapRec :=
  let c := imgNat img off 4
  { imp := c.testBit 31, cause := c % 64, lanes := imgNat img (off + 12) 4, epc := imgNat img (off + 4) 8,
    addr := imgNat img (off + 16) 8, info0 := word (imgNat img (off + 24) 4), info1 := word (imgNat img (off + 28) 4) }

/-- A warp from its record at an offset: on the herd, with nothing in flight. -/
def Warp.restore (w : Warp) (img : List Byte) (at_ nregs now : Nat) : Warp :=
  let c (n : Nat) : Word := word (imgNat img (at_ + 720 + 4 * n) 4)
  let flags := imgNat img (at_ + 705) 1
  let set := imgNat img (at_ + 708) 4
  let tqlen := (c 9).toNat
  { w with
    threads := w.threads.zipIdx.map (fun t => t.1.restore img at_ nregs now t.2), s := imgWords img (at_ + 448) 64,
    q := (List.range 7).map (fun i => (imgNat img (at_ + 704) 1).testBit i),
    tcause := c 0, tlanes := c 1, tepc := imgNat img (at_ + 728) 8, taddr := imgNat img (at_ + 736) 8, tinfo0 := c 6, tinfo1 := c 7,
    tskid := (c 8).toNat, tsave := [c 10, c 11, c 12, c 13],
    tqueue := (List.range (tqlen % 8)).map (fun i => trapAt img (at_ + 856 + 32 * i)) ++ w.tqueue.drop 7, tlost := tqlen / 256 % 256,
    fstat := BitVec.ofNat _ (imgNat img (at_ + 776) 4), ften := BitVec.ofNat _ (imgNat img (at_ + 780) 4),
    hchk := imgNat img (at_ + 784) 4 % 2 == 1, trapMode := flags.testBit 0, ownHalt := flags.testBit 1,
    haltCause := imgNat img (at_ + 706) 2, conv := (if set = 0 then [] else [(imgNat img (at_ + 712) 8, set)]) ++ w.conv.drop 1,
    pend := [], recent := [], kPark := false, gapEnd := now, holdWhy := none, lock := none, lockWait := none, lockDone := [], xwait := none, multi := [],
    emptyTimer := 0, sprint := none, candidate := none, lastIssue := now, release := none, heldCmd := [], answer := none, granted := [],
    skid := none, stored := [] }

/-- A barrier from the section and the warp records. -/
def barrierAt (g : Wg) (img : List Byte) (i : Nat) : Barrier :=
  let b := imgNat img (g.sectionAt + 960 + 4 * i) 4
  let flags (w : Nat) : Nat := imgNat img (256 + w * (1280 + 160 * g.nregs) + 792 + 4 * i) 4
  { phase := b.testBit 0, count := if b.testBit 13 then some (b / 256 % 32) else none,
    arrived := (List.range g.warps.length).flatMap (fun w => (lanesOf 32 (flags w)).map (fun l => 32 * w + l)) }

def Timeline.restore (t : Timeline) (img : List Byte) (off : Nat) : Timeline :=
  { t with completed := imgNat img off 8, issued := imgNat img (off + 8) 8, errFirst := imgNat img (off + 16) 8, ahead := [] }

/-- Format entry i, R74; its generation stands in the image. -/
def entryAt (img : List Byte) (off : Nat) : Entry :=
  ⟨word (imgNat img off 4), word (imgNat img (off + 4) 4), word (imgNat img (off + 8) 4), word (imgNat img (off + 12) 4)⟩

def tileAt (img : List Byte) (off : Nat) (tag : Byte) : Tile :=
  let ws := (imgWords img off 8192).zipIdx
  ⟨(ws.filter (fun w => w.1 != 0)).map (fun w => (w.2, w.1)), tag⟩

/-- The workgroup that an image holds, with what the image has no place for from the workgroup that left. -/
def Wg.restore (g : Wg) (img : List Byte) (base now : Nat) : Wg :=
  let h := g.sectionAt
  let lines := (List.range (g.scratch / 128)).filter (fun l => !(imgNat img (h + 2048 + l / 8) 1).testBit (l % 8))
  let tiles := h + 2048 + g.fullBytes + g.scratch
  let trap := (g.warps.zipIdx.find? (fun w => (imgNat img (256 + w.2 * (1280 + 160 * g.nregs) + 705) 1).testBit 0)).map (·.2)
  { g with
    base := base, warps := g.warps.zipIdx.map (fun w => w.1.restore img (256 + w.2 * (1280 + 160 * g.nregs)) g.nregs now),
    fmt := ⟨(List.range 32).map (fun i => entryAt img (h + 16 * i)), (List.range 8).map (fun i => imgWords img (h + 512 + 32 * i) 8)⟩,
    layouts := (List.range 8).map (fun i => imgWords img (h + 768 + 24 * i) 6), bars := (List.range 16).map (barrierAt g img),
    ct := g.ct.restore img (h + 1024), mt := g.mt.restore img (h + 1048), xtLast := imgNat img (h + 1072) 8,
    bconf := imgNat img (h + 1080) 8, swsel := imgWords img (h + 1856) 4,
    tiles := (List.range g.ntiles).map (fun i => tileAt img (tiles + 32768 * i) (byteOf (imgNat img (h + 1880 + i) 1))),
    lines := lines.map (fun l => (l, ⟨false, 0⟩)), pending := [], drain := false, deadline := none, swapping := none,
    broadcast := trap, fmtWait := [], sends := 0, placed := now }

/-- Predicate n of an image for a slot. -/
def predicateAt (g : Wg) (img : List Byte) (slot n : Nat) : Predicate :=
  let off := g.sectionAt + 1088 + 48 * n
  let flags := imgNat img (off + 36) 4
  ⟨imgWords img off 8, some slot, flags.testBit 0, imgNat img (off + 32) 4, flags.testBit 1⟩

/-! ### DPORT_RESUME, R286, R292, R380 -/

/-- Comparator k of a workgroup that returns: armed afresh, or released where its range does not translate. -/
def State.rearm (s : State) (core slot image k : Nat) : State :=
  match nth s.part.comparators k none, s.part.wg? core slot with
  | some q, some g =>
    if q.core != awayCore image then s
    else
      let n := (nth g.swsel k 0).toNat % 16
      let d := nth ((s.part.core? core).getD Core.reset).preds n Predicate.start
      let armed := if field (nth g.swsel k 0) 31 31 = 1 then Predicate.extents s g.job d else none
      match armed with
      | some xs => { s with part := { s.part with comparators := setNth s.part.comparators k (some ⟨core, slot, n, d.words, xs⟩) } }
      | none =>
        let p := s.part.onWg core slot (fun g =>
          { g with swsel := setNth g.swsel k (word n), swheld := g.swheld - bitNat g.swheld k * 2 ^ k })
        { s with part := { p with comparators := setNth p.comparators k none } }
  | _, _ => s

/-- The core that takes an image back: as it is, or with a fresh partition when it holds nothing (R326). -/
def Part.resumeRoom (p : Part) (x : Swapped) (core : Nat) : Option (Core × Nat × Nat) :=
  match p.core? core with
  | none => none
  | some k =>
    if x.preds.any (fun n => (nth k.preds n Predicate.start).owner.isSome) then none
    else
      match k.room x.kept.need with
      | some r => some (k, r)
      | none =>
        if !k.isEmpty then none
        else
          let ws := ((p.launch? x.launch).map (·.words)).getD []
          let k := k.setPartition (partitionFor ws)
          (k.room x.kept.need).map (fun r => (k, r))

/-- Put an image back on a core. -/
def State.putBack (s : State) (x : Swapped) (core slot base : Nat) (k : Core) : State :=
  let img := s.homeRead x.image x.bytes
  let g := x.kept.restore img base s.part.now
  let scratch := (img.drop (x.kept.sectionAt + 2048 + x.kept.fullBytes)).take g.scratch
  let k := (k.clearWindow x.job base g.scratch).spadWrite x.job base scratch
  let preds := x.preds.foldl (fun ps n => setNth ps n (predicateAt x.kept img slot n)) k.preds
  let k := { k with slots := setNth k.slots slot (some g), preds := preds }
  let p := (s.part.onCore core (fun _ => k)).freeSave x.image
  let p := p.onCox (fun c => { c with swapped := c.swapped.filter (fun y => y.image != x.image) })
  let p := p.onLaunch x.launch (fun l => { l with cores := if l.cores.contains core then l.cores else l.cores ++ [core] })
  let s := (List.range 4).foldl (fun s i => s.rearm core slot x.image i) { s with part := p.acquireDv core }
  let p := x.traps.foldl (fun p t => p.queueTrap ⟨core, slot, t.1⟩ t.2) s.part
  { s with part := p.settle core slot }

/-- DPORT_RESUME: the image of a swapped-out workgroup whose condition holds, and whose drain has ended, is restored. -/
def execDportResume (image core : Nat) (s : State) : Out :=
  let s := { s with part := s.part.endDrains }
  .next (match s.part.cox.swapped.find? (fun x => x.image == image) with
    | none => s.portRefuse
    | some x =>
      if !x.met || s.part.cox.drains.any (fun d => d.victims.contains (x.launch, x.number)) then s.portRefuse
      else
        match s.part.resumeRoom x core, s.part.launch? x.launch with
        | some (k, slot, base), some l =>
          let s := { s with part := s.part.portAccept }.putBack x core slot base k
          let payload := leBytes 8 image ++ leBytes 4 x.core ++ leBytes 4 slot
          { s with part := (s.part.count 6 l.queue).append { l.note 8 payload with core := core, wg := x.number % 2 ^ 32 } }
        | _, _ => s.portRefuse)

/-! ### LIVE_DUMP, DUMP_TIMEOUT, R250, R293 -/

/-- Every thread has stopped for the dump, at a safe point that it came to after the request, or has exited (R249). -/
def Wg.dumpStopped (g : Wg) : Bool :=
  g.warps.all (fun w => w.threads.all (fun t => t.isExited || t.haltedBy (fun b => b == .dump)))

/-- Threads stopped for a dump go on. -/
def Wg.endDump (g : Wg) : Wg :=
  let go (t : Thread) : Thread := { t.unhalt (fun b => b == .dump) with oneShot := t.oneShot }
  { g with dump := none, warps := g.warps.map (fun w => { w with threads := w.threads.map go }) }

/-- The outcome of a dump: 1 written, 2 abandoned. A barrier that was waiting for threads that the dump had stopped flips (R169). -/
def Part.dumped (p : Part) (core slot : Nat) (g : Wg) (ticket outcome image : Nat) : Part :=
  let p := (p.onWg core slot Wg.endDump).settle core slot
  match p.launch? g.launch with
  | none => p
  | some l =>
    (p.countPart (9 + outcome)).append { l.note 12 (leBytes 4 ticket ++ leBytes 4 outcome ++ leBytes 8 image) with
      core := core, wg := g.number % 2 ^ 32 }

/-- LIVE_DUMP: every thread has stopped; the image is written where the save area has room. -/
def execLiveDump (core slot : Nat) (s : State) : Out :=
  .next (match s.part.wg? core slot with
    | none => s
    | some g =>
      match g.dump with
      | none => s
      | some (ticket, _) =>
        if !g.dumpStopped then s
        else
          let p := { s.part with oracle := s.part.oracle + 1 }
          match s.saveSpace (s.part.rootQueue core slot) g.imageSize with
          | none => { s with part := p.dumped core slot g ticket 2 0 }
          | some a => { s with part := (p.homeWrite a (s.part.imageOf core slot g (some ticket))).dumped core slot g ticket 1 a })

def dumpLimit : Nat := 2 ^ 20

/-- DUMP_TIMEOUT: some thread has not stopped in time. -/
def execDumpTimeout (core slot : Nat) (s : State) : Out :=
  .next (match s.part.wg? core slot with
    | none => s
    | some g =>
      match g.dump with
      | none => s
      | some (ticket, since) =>
        if g.dumpStopped || decide (s.part.now < since + dumpLimit) then s
        else { s with part := s.part.dumped core slot g ticket 2 0 })

end Sys2Proof.Machine
end

