-- ==== Sys2Proof/Machine/Queues.lean ====
section
/-! DEFINITION. Queues and their records (R319, R320, R323, R446) and the administration commands (R322). -/

namespace Sys2Proof.Machine

/-! ### Errors and opening, R319, R322, R446 -/

/-- A QERROR record. -/
def Part.queueError (p : Part) (queue reason : Nat) : Part :=
  (p.countPart 12).append
    { type := 13, flags := 0, queue := queue, core := noCore, launch := 0, job := 0, wg := noWg,
      payload := leBytes 4 queue ++ leBytes 4 reason }

/-- The QCB address that entry q of the queue table gives: none where it is not valid. -/
def State.tableEntry (s : State) (queue : Nat) : Option Nat :=
  let e := s.homeNat (s.part.cox.qtbase + 8 * queue) 8
  let a := e % 2 ^ 57
  if e.testBit 63 && a % 256 == 0 && isDevice (a + 255) then some a else none

/-- The fields of a QCB are in their ranges. -/
def State.qcbOk (s : State) (qcb : Nat) : Bool :=
  let f (off n : Nat) : Nat := s.homeNat (qcb + off) n
  (s.homeRead (qcb + 0x80) 128).all (fun b => b == 0) && decide (f 0x08 4 ≤ 16) && f 0x00 8 % 64 == 0
    && decide (f 0x20 4 < 16) && decide (1 ≤ f 0x24 4) && decide (f 0x24 4 ≤ 65535) && decide (f 0x2C 4 ≤ 1000000)
    && f 0x30 8 % 4096 == 0

/-- Slices by home die and number. -/
def slicePlace (loc : Nat) : Nat × Nat := (homeDie loc, sliceOf loc)

def tailTableSize : Nat := 128

/-- The tail table of the home slice of a word has a place for a queue. -/
def Part.tailRoom (p : Part) (queue loc : Nat) : Bool :=
  decide ((p.tailWords.filter (fun (t : Nat × Nat) => t.2 != queue && slicePlace t.1 == slicePlace loc)).length < tailTableSize)

/-- Why a queue cannot be opened; none where it can, with the address of its QCB. -/
def State.openCheck (s : State) (queue : Nat) : Except Nat Nat :=
  match s.tableEntry queue with
  | none => .error 2
  | some qcb =>
    if !s.qcbOk qcb then .error 4
    else if !s.part.tailRoom queue (qcb + 0x18) then .error 3
    else .ok qcb

/-- A queue opens: its TAIL word enters the tail table, EN is set; counts of an earlier opening stand. -/
def State.openQueue (s : State) (queue qcb : Nat) : State :=
  let counts := ((s.part.queue? queue).map (·.counts)).getD (List.replicate 8 0)
  let q : Queue := ⟨queue, qcb, true, false, s.homeNat (qcb + 0x10) 8, counts, qcb + 0x18⟩
  let p := s.part.onCox (fun x => { x with queues := x.queues.filter (fun y => y.id != queue) ++ [q] })
  let p := { p with tailWords := p.tailWords.filter (fun (t : Nat × Nat) => t.2 != queue) ++ [(qcb + 0x18, queue)] }
  { s with part := (p.homeWrite (qcb + 0x0C) (leBytes 4 1)).homeWrite (qcb + 0x40) (counts.flatMap (leBytes 8)) }

/-- A queue stops: EN is cleared, ERR as told, and its TAIL word leaves the tail table. -/
def Part.stopQueue (p : Part) (queue : Nat) (err : Bool) : Part :=
  match p.queue? queue with
  | none => p
  | some q =>
    let p := p.onQueue queue (fun q => { q with en := false, err := err })
    { p with tailWords := p.tailWords.filter (fun (t : Nat × Nat) => t.2 != queue) }.homeWrite (q.qcb + 0x0C) (leBytes 4 (2 * err.toNat))

/-! ### The effects of administration commands, R322 -/

/-- An event that follows before anything that is already to come. -/
def State.next (s : State) (i : Instr) : State := { s with part := { s.part with sched := .event i :: s.part.sched } }

/-- QOPEN of a queue other than 0; a TAIL written earlier is taken next. -/
def State.adminOpen (s : State) (queue : Nat) : State :=
  if queue = 0 || decide (4096 ≤ queue) then { s with part := s.part.queueError queue 4 }
  else
    match s.openCheck queue with
    | .error r => { s with part := s.part.queueError queue r }
    | .ok qcb =>
      let s := s.openQueue queue qcb
      s.next (.tailWrite queue (s.homeNat (qcb + 0x18) 8))

/-- Resident workgroups that meet a condition, as victims of a drain. -/
def Part.victims (p : Part) (f : Wg → Bool) : List Resident :=
  p.cores.zipIdx.flatMap (fun k => k.1.slots.zipIdx.filterMap (fun q => q.1.bind (fun g =>
    if f g && g.dead.isNone && !g.complete then some ⟨k.2, q.2⟩ else none)))

/-- A drain for a close or a host request, when there is work to drain (R328). -/
def State.drainWork (s : State) (vs : List Resident) : State :=
  if vs.isEmpty then s else { s with part := s.part.portAccept }.drainWgs 0 vs

/-- QCLOSE: records not yet read are dropped and counted as refused, and resident work is drained. -/
def State.adminClose (s : State) (queue : Nat) : State :=
  if queue = 0 then { s with part := s.part.queueError 0 5 }
  else
    match s.part.queue? queue with
    | none => { s with part := s.part.queueError queue 4 }
    | some q =>
      let unread := if q.en then s.homeNat q.tail 8 - q.head else 0
      let lost := if unread ≤ 65536 then unread else 0
      let p := (List.range lost).foldl (fun p _ => p.count 1 queue) (s.part.stopQueue queue q.err)
      let mine (g : Wg) : Bool := ((p.launch? g.launch).map (fun l => l.queue == queue)).getD false
      { s with part := p }.drainWork (p.victims mine)

/-- JOPEN: a new job, with its TBASE. -/
def State.adminJob (s : State) (job tbase : Nat) : State :=
  if tbase % 4 != 0 || decide (2 ^ 57 ≤ tbase) || (s.part.job? job).isSome then { s with part := s.part.queueError 0 4 }
  else { s with part := { s.part with jobs := s.part.jobs ++ [⟨job, tbase, false, false, Counter.zero, [], []⟩] } }

/-- JCLOSE: the job is closed, its resident work drained, and it completes once no work is left. -/
def State.adminEnd (s : State) (job : Nat) : State :=
  if (s.part.job? job).isNone then { s with part := s.part.queueError 0 4 }
  else
    let p := s.part.onJob job (fun j => { j with closed := true })
    let s := { s with part := p }.drainWork (p.victims (fun g => g.job == job))
    { s with part := s.part.checkJob job none }

/-- JCANCEL: a cancel at level 4. -/
def State.adminCancel (s : State) (job : Nat) : State :=
  if (s.part.job? job).isNone then { s with part := s.part.queueError 0 4 }
  else
    let n : Note :=
      { type := 9, flags := 0, queue := 0, core := noCore, launch := 0, job := job, wg := noWg,
        payload := leBytes 4 4 ++ leBytes 4 job }
    { s with part := ((s.part.portAccept.cancelLevel job 4 job).endDrains.countPart 8).append n }

/-- PPOL without its reserved bits, R338. -/
def ppolMask (v : Word) : Word := v &&& 0x3FFFFFFE

/-- PPOLSET: the promotion policy of every core of a mask. -/
def Part.setPolicies (p : Part) (mask : Nat) (v : Word) : Part :=
  { p with cores := p.cores.zipIdx.map (fun k => if mask.testBit k.2 then { k.1 with ppol := ppolMask v } else k.1) }

/-- A record of queue 0. -/
def State.admin (s : State) (ws : List Word) : State :=
  let w (i : Nat) : Nat := (nth ws i 0).toNat
  match w 0 with
  | 1 => s.adminOpen (w 1)
  | 2 => s.adminClose (w 1)
  | 3 => s.adminJob (w 1) (w 2 + 2 ^ 32 * w 3)
  | 4 => s.adminEnd (w 1)
  | 5 => s.adminCancel (w 1)
  | 6 => { s with part := s.part.setPolicies (wordsNat ((List.range 8).map (fun i => nth ws (i + 1) 0))) (nth ws 9 0) }
  | _ => { s with part := s.part.queueError 0 5 }

/-! ### Consuming records, R320, R323 -/

/-- The counter fields of a record are valid, R222. -/
def counterOk (ws : List Word) : Bool := recCmode ws != 3 && (recCmode ws == 0 || recCva ws % 8 == 0)

/-- A launch record that a queue holds: malformed, or of a job that is not open, it is refused at once. One whose CMODE or CVA is
not valid leaves no launch counter behind, and its id names nothing (R323). -/
def State.takeRecord (s : State) (queue : Nat) (ws : List Word) : State :=
  let job := s.qcb queue 0x28 4
  let (p, id) := s.part.addLaunch ws queue job 0 none true
  match p.launch? id with
  | none => { s with part := p }
  | some l =>
    if !counterOk ws then { s with part := (s.part.onCox (fun x => { x with nextLaunch := p.cox.nextLaunch })).recordDeny l causeLaunchBad }
    else
    let open_ := ((p.job? job).map (fun j => !j.closed)).getD false
    if recordOk l.words && open_ then { s with part := p } else { s with part := p }.deny l causeLaunchBad

/-- Read up to n records of a queue. -/
def State.readRecords (s : State) (queue : Nat) : Nat → State
  | 0 => s
  | n + 1 =>
    match s.part.queue? queue with
    | none => s
    | some q =>
      if !q.en then s
      else
        let ring := s.homeNat q.qcb 8
        let slots := 2 ^ (s.homeNat (q.qcb + 0x08) 4 % 32)
        let ws := bytesWords (s.homeRead (ring + 64 * (q.head % slots)) 64)
        let p := (s.part.onQueue queue (fun q => { q with head := q.head + 1 })).homeWrite (q.qcb + 0x10) (leBytes 8 (q.head + 1))
        let s := { s with part := p }
        State.readRecords (if queue = 0 then s.admin ws else s.takeRecord queue ws) queue n

/-- The cox reads TAIL and consumes what stands before it. -/
def State.consume (s : State) (queue : Nat) : State :=
  match s.part.queue? queue with
  | none => s
  | some q =>
    let tail := s.homeNat q.tail 8
    if !q.en then s
    else if tail < q.head || decide (2 ^ (s.homeNat (q.qcb + 0x08) 4 % 32) < tail - q.head) then
      { s with part := (s.part.stopQueue queue true).queueError queue 1 }
    else s.readRecords queue (tail - q.head)

/-- TAIL_WRITE: a TAIL that its submitter has written, or the host writes now, signals the cox. -/
def execTailWrite (queue tail : Nat) (s : State) : Out :=
  .next (match s.part.queue? queue with
    | none => s
    | some q =>
      let s := if s.homeNat q.tail 8 = tail % 2 ^ 64 then s else s.agentWrite hostAgent false q.tail (leBytes 8 tail)
      s.consume queue)

/-! ### Bring-up, R398, R401 -/

/-- The last step of bring-up that is complete. -/
def Mgmt.bringUp (m : Mgmt) : Nat := field m.mcstat 3 0

/-- The bits of MCSTAT above STEP and STEP itself. -/
def Mgmt.setStep (m : Mgmt) (n : Nat) : Mgmt := { m with mcstat := word (m.mcstat.toNat / 16 * 16 + n) }

/-- Set or clear one bit of MCSTAT. -/
def Mgmt.setBit (m : Mgmt) (i : Nat) (b : Bool) : Mgmt :=
  let v := m.mcstat.toNat
  { m with mcstat := word (v - bitNat v i * 2 ^ i + b.toNat * 2 ^ i) }

/-- Queue 0 opens with the table at QTBASE, and what it holds is consumed: step 7 of bring-up. -/
def State.openAdmin (s : State) : State :=
  let s := { s with part := (s.part.stopQueue 0 false).onCox (fun x => { x with qtPending := false }) }
  match s.openCheck 0 with
  | .error r => { s with part := s.part.queueError 0 r }
  | .ok qcb =>
    let s := (s.openQueue 0 qcb).consume 0
    { s with part := s.part.onMgmt (fun m => m.setStep 7) }

/-- Some queue other than 0 is enabled. -/
def Cox.busy (x : Cox) : Bool := x.queues.any (fun q => q.id != 0 && q.en)

/-- A write of QTBASE: acted on at once while RUN is 1, kept until then otherwise, ignored while a queue is enabled. -/
def State.writeQtbase (s : State) (pa : Nat) : State :=
  if s.part.cox.busy then s
  else
    let s := { s with part := s.part.onCox (fun x => { x with qtbase := pa % 2 ^ 64, qtPending := true }) }
    if s.part.cox.run then s.openAdmin else s

/-- QTBASE_WRITE, R446. -/
def execQtbaseWrite (pa : Nat) (s : State) : Out :=
  .next (s.writeQtbase pa)

/-- QOPEN, R322. -/
def execQopen (queue : Nat) (s : State) : Out :=
  .next (s.adminOpen queue)

/-- QCLOSE, R322. -/
def execQclose (queue : Nat) (s : State) : Out :=
  .next (s.adminClose queue)

/-- JOPEN, R322. -/
def execJopen (job tbase : Nat) (s : State) : Out :=
  .next (s.adminJob job tbase)

/-- JCLOSE, R322. -/
def execJclose (job : Nat) (s : State) : Out :=
  .next (s.adminEnd job)

/-- JCANCEL, R322. -/
def execJcancel (job : Nat) (s : State) : Out :=
  .next (s.adminCancel job)

/-- PPOLSET, R322. -/
def execPpolset (mask : Nat) (value : Word) (s : State) : Out :=
  .next { s with part := s.part.setPolicies mask value }

end Sys2Proof.Machine
end

