-- ==== Sys2Proof/Machine/Debug.lean ====
section
/-! DEFINITION. The debug channel of the host (R381 to R383, R433). -/

namespace Sys2Proof.Machine

/-- A refused command. -/
def State.debugRefuse (s : State) (w : WarpRef) (lanes : Nat) : State :=
  { s with part := s.part.debugEvent w lanes 7 0 0 }

/-- The job permits debug commands. -/
def Part.debugJob (p : Part) (job : Nat) : Bool := ((p.job? job).map (·.debug)).getD false

/-- Target of the command block: warp and lane. -/
def Mgmt.debugTarget (m : Mgmt) : WarpRef × Nat :=
  let t := nth m.dbgcmd 2 0
  (⟨field t 7 0, field t 13 8, field t 17 14⟩, field t 22 18)

/-- Lanes that the answer to a DBGEN or RESUME names, R433: the lane of the target; a lane field of 0 names none. -/
def Mgmt.debugLanes (m : Mgmt) : Nat := if m.debugTarget.2 = 0 then 0 else 2 ^ m.debugTarget.2

/-- A workgroup of a job that permits commands. -/
def Part.debugWg (p : Part) (job core slot : Nat) : Option Wg :=
  (p.wg? core slot).filter (fun g => g.job == job && p.debugJob job)

/-- DBGEN: debug commands and DUMPQ of a job are permitted or forbidden. -/
def execDbgen (job : Nat) (enable : Bool) (s : State) : Out :=
  let w := s.part.mgmt.debugTarget.1
  let lanes := s.part.mgmt.debugLanes
  .next (if (s.part.job? job).isNone then s.debugRefuse w lanes
    else
      let p := s.part.onJob job (fun j => { j with debug := enable })
      { s with part := p.debugEvent w lanes 8 0 0 })

/-- HALT: threads stop at their next safe points (R249). -/
def State.debugHalt (s : State) (c : DebugCmd) : State :=
  match s.part.debugWg c.job c.w.core c.w.slot with
  | none => s.debugRefuse c.w 0
  | some _ =>
    let fresh (w : Warp) : Warp := { w with threads := w.threads.map (fun t => { t with reqDone := false }) }
    let p := s.part.onWg c.w.core c.w.slot (fun g =>
      { g with haltReq := true, haltsDue := g.haltsDue + 1, warps := g.warps.map fresh })
    { s with part := p.tellHalt c.w [] 0 }

/-- Halts that a debug RESUME ends. -/
def HaltBy.byDebug : HaltBy → Bool
  | .request => true
  | .watch => true
  | _ => false

/-- RESUME: halts of requests and of watches end, and a pending request is cancelled, whose commands are answered as refused (log
entry 22). -/
def State.debugResume (s : State) (c : DebugCmd) : State :=
  match s.part.debugWg c.job c.w.core c.w.slot with
  | none => s.debugRefuse c.w 0
  | some g =>
    let p := s.part.onWg c.w.core c.w.slot (fun g =>
      { g with haltReq := false, haltsDue := 0, warps := g.warps.map (fun w => w.resumeLanes allLanes HaltBy.byDebug) })
    { s with part := ((p.settle c.w.core c.w.slot).answerHalts g.launch g.haltsDue c.w 0 7 0).debugEvent c.w c.lanes 8 0 0 }

/-- A target that R245 accepts, by a condition on the thread. -/
def Part.debugThread (p : Part) (job : Nat) (w : WarpRef) (lane : Nat) (accept : Thread → Bool) : Option (Wg × Warp) :=
  match p.debugWg job w.core w.slot with
  | none => none
  | some g =>
    match g.warps[w.warp]? with
    | none => none
    | some x => if ((x.lane? lane).map accept).getD false then some (g, x) else none

/-- STEP: the target thread alone executes its next instruction (R247). -/
def State.debugStep (s : State) (c : DebugCmd) : State :=
  match s.part.debugThread c.job c.w c.lane Thread.isHalted with
  | none => s.debugRefuse c.w (2 ^ c.lane)
  | some _ => { s with part := { s.part with stepReq := some ⟨c.w, c.lane, none, false, false⟩ } }

/-- READ: an item of a halted or exited thread. -/
def State.debugRead (s : State) (c : DebugCmd) : State :=
  match s.part.debugThread c.job c.w c.lane Thread.readable with
  | none => s.debugRefuse c.w (2 ^ c.lane)
  | some (g, x) =>
    if 0xC8 ≤ c.item || (g.beyond c.item).isSome then s.debugRefuse c.w (2 ^ c.lane)
    else { s with part := s.part.debugEvent c.w (2 ^ c.lane) 6 0 (x.readItem c.lane c.item).toNat }

/-- WRITE: an item of a halted thread. -/
def State.debugWrite (s : State) (c : DebugCmd) : State :=
  match s.part.debugThread c.job c.w c.lane Thread.isHalted with
  | none => s.debugRefuse c.w (2 ^ c.lane)
  | some (g, _) =>
    if 0xC4 ≤ c.item || (g.beyond c.item).isSome || badPc c.item (word c.value) then s.debugRefuse c.w (2 ^ c.lane)
    else
      let p := s.part.onWarp c.w (fun x => x.writeItem c.lane c.item (word c.value))
      { s with part := p.debugEvent c.w (2 ^ c.lane) 6 0 0 }

/-! ### The order of commands at a core, R382 -/

/-- A command has its effect and its answer. -/
def State.debugServe (s : State) (c : DebugCmd) : State :=
  match c.op with
  | 2 => s.debugHalt c
  | 3 => s.debugResume c
  | 4 => s.debugStep c
  | 5 => s.debugRead c
  | _ => s.debugWrite c

/-- A command waits: for the end of a step, or until the register writes of its target have committed. -/
def Part.debugWaits (p : Part) (c : DebugCmd) : Bool :=
  let steps := match p.stepReq with
    | none => false
    | some q => q.w.core == c.w.core || c.op == 4
  let target := if c.op = 5 then Thread.readable else Thread.isHalted
  let busy := ((p.debugThread c.job c.w c.lane target).map (fun x => !x.2.committed c.lane)).getD false
  steps || (decide (4 ≤ c.op) && busy)

/-- A command arrives at its core: it is served at once, or waits behind those that came before it. -/
def State.debugArrive (s : State) (c : DebugCmd) : Out :=
  .next (if s.part.debugQueue.any (fun d => d.w.core == c.w.core) || s.part.debugWaits c then
    { s with part := { s.part with debugQueue := s.part.debugQueue ++ [c] } }
  else s.debugServe c)

/-- The command served next, where the first of its core need not wait any more. -/
def State.debugNext (s : State) : Option State :=
  let q := s.part.debugQueue
  let due (c : DebugCmd × Nat) : Bool :=
    !(q.take c.2).any (fun d => d.w.core == c.1.w.core) && !s.part.debugWaits c.1
  (q.zipIdx.find? due).map (fun c => { s with part := { s.part with debugQueue := q.eraseIdx c.2 } : State }.debugServe c.1)

/-- HALT. -/
def execHalt (job core slot : Nat) (s : State) : Out := s.debugArrive { op := 2, job := job, w := ⟨core, slot, 0⟩ }

/-- RESUME. -/
def execResume (job core slot : Nat) (s : State) : Out :=
  s.debugArrive { op := 3, job := job, w := ⟨core, slot, 0⟩, lanes := s.part.mgmt.debugLanes }

/-- STEP. -/
def execStep (job : Nat) (w : WarpRef) (lane : Nat) (s : State) : Out :=
  s.debugArrive { op := 4, job := job, w := w, lane := lane }

/-- READ. -/
def execRead (job : Nat) (w : WarpRef) (lane item : Nat) (s : State) : Out :=
  s.debugArrive { op := 5, job := job, w := w, lane := lane, item := item }

/-- WRITE. -/
def execWrite (job : Nat) (w : WarpRef) (lane item value : Nat) (s : State) : Out :=
  s.debugArrive { op := 6, job := job, w := w, lane := lane, item := item, value := value }

end Sys2Proof.Machine
end

