-- ==== Sys2Proof/Machine/Digest.lean ====
section
/-! DEFINITION. SHA-384, by which management firmware is checked (R403). The spec names the function and does not repeat its
standard, FIPS 180-4 (PRESUMED, log entry 45). -/

namespace Sys2Proof.Machine

/-- Round constants. -/
def shaRounds : List Nat :=
  [0x428a2f98d728ae22, 0x7137449123ef65cd, 0xb5c0fbcfec4d3b2f, 0xe9b5dba58189dbbc, 0x3956c25bf348b538,
   0x59f111f1b605d019, 0x923f82a4af194f9b, 0xab1c5ed5da6d8118, 0xd807aa98a3030242, 0x12835b0145706fbe,
   0x243185be4ee4b28c, 0x550c7dc3d5ffb4e2, 0x72be5d74f27b896f, 0x80deb1fe3b1696b1, 0x9bdc06a725c71235,
   0xc19bf174cf692694, 0xe49b69c19ef14ad2, 0xefbe4786384f25e3, 0x0fc19dc68b8cd5b5, 0x240ca1cc77ac9c65] ++
  [0x2de92c6f592b0275, 0x4a7484aa6ea6e483, 0x5cb0a9dcbd41fbd4, 0x76f988da831153b5, 0x983e5152ee66dfab,
   0xa831c66d2db43210, 0xb00327c898fb213f, 0xbf597fc7beef0ee4, 0xc6e00bf33da88fc2, 0xd5a79147930aa725,
   0x06ca6351e003826f, 0x142929670a0e6e70, 0x27b70a8546d22ffc, 0x2e1b21385c26c926, 0x4d2c6dfc5ac42aed,
   0x53380d139d95b3df, 0x650a73548baf63de, 0x766a0abb3c77b2a8, 0x81c2c92e47edaee6, 0x92722c851482353b] ++
  [0xa2bfe8a14cf10364, 0xa81a664bbc423001, 0xc24b8b70d0f89791, 0xc76c51a30654be30, 0xd192e819d6ef5218,
   0xd69906245565a910, 0xf40e35855771202a, 0x106aa07032bbd1b8, 0x19a4c116b8d2d0c8, 0x1e376c085141ab53,
   0x2748774cdf8eeb99, 0x34b0bcb5e19b48a8, 0x391c0cb3c5c95a63, 0x4ed8aa4ae3418acb, 0x5b9cca4f7763e373,
   0x682e6ff3d6b2b8a3, 0x748f82ee5defb2fc, 0x78a5636f43172f60, 0x84c87814a1f0ab72, 0x8cc702081a6439ec] ++
  [0x90befffa23631e28, 0xa4506cebde82bde9, 0xbef9a3f7b2c67915, 0xc67178f2e372532b, 0xca273eceea26619c,
   0xd186b8c721c0c207, 0xeada7dd6cde0eb1e, 0xf57d4f7fee6ed178, 0x06f067aa72176fba, 0x0a637dc5a2c898a6,
   0x113f9804bef90dae, 0x1b710b35131c471b, 0x28db77f523047d84, 0x32caab7b40c72493, 0x3c9ebe0a15c9bebc,
   0x431d67c49c100d4c, 0x4cc5d4becb3e42b6, 0x597f299cfc657e2a, 0x5fcb6fab3ad6faec, 0x6c44198c4a475817]

/-- Initial hash value. -/
def shaStart : List Nat :=
  [0xcbbb9d5dc1059ed8, 0x629a292a367cd507, 0x9159015a3070dd17, 0x152fecd8f70e5939, 0x67332667ffc00b31,
   0x8eb44a8768581511, 0xdb0c2e0d64f98fa7, 0x47b5481dbefa4fa4]

def word64 (n : Nat) : Nat := n % 2 ^ 64

/-- A 64-bit word rotated right. -/
def rotate64 (x n : Nat) : Nat := word64 (x / 2 ^ n + x * 2 ^ (64 - n))

def xor3 (a b c : Nat) : Nat := Nat.xor (Nat.xor a b) c

def shaSmall0 (x : Nat) : Nat := xor3 (rotate64 x 1) (rotate64 x 8) (x / 2 ^ 7)
def shaSmall1 (x : Nat) : Nat := xor3 (rotate64 x 19) (rotate64 x 61) (x / 2 ^ 6)
def shaBig0 (x : Nat) : Nat := xor3 (rotate64 x 28) (rotate64 x 34) (rotate64 x 39)
def shaBig1 (x : Nat) : Nat := xor3 (rotate64 x 14) (rotate64 x 18) (rotate64 x 41)
def shaChoose (x y z : Nat) : Nat := Nat.xor (Nat.land x y) (Nat.land (2 ^ 64 - 1 - x) z)
def shaMajority (x y z : Nat) : Nat := xor3 (Nat.land x y) (Nat.land x z) (Nat.land y z)

/-- A number as n bytes, the first the most significant. -/
def bytesHigh (n v : Nat) : List Byte := (leBytes n v).reverse

def natHigh (bs : List Byte) : Nat := bs.foldl (fun n b => 256 * n + b.toNat) 0

/-- The message schedule of n further words, newest word first. -/
def shaSchedule : Nat → List Nat → List Nat
  | 0, ws => ws
  | n + 1, ws =>
    let w (i : Nat) : Nat := nth ws (i - 1) 0
    shaSchedule n (word64 (shaSmall1 (w 2) + w 7 + shaSmall0 (w 15) + w 16) :: ws)

/-- One round on the eight working variables. -/
def shaRound (v : List Nat) (kw : Nat × Nat) : List Nat :=
  let x (i : Nat) : Nat := nth v i 0
  let t1 := x 7 + shaBig1 (x 4) + shaChoose (x 4) (x 5) (x 6) + kw.1 + kw.2
  let t2 := shaBig0 (x 0) + shaMajority (x 0) (x 1) (x 2)
  [word64 (t1 + t2), x 0, x 1, x 2, word64 (x 3 + t1), x 4, x 5, x 6]

/-- One block of 128 bytes. -/
def shaBlock (h : List Nat) (block : List Byte) : List Nat :=
  let ws := (shaSchedule 64 ((chunks 8 16 block).map natHigh).reverse).reverse
  (h.zip ((shaRounds.zip ws).foldl shaRound h)).map (fun q => word64 (q.1 + q.2))

/-- A message padded to whole blocks: a bit 1, zeros, and its length in bits. -/
def shaPad (bs : List Byte) : List Byte :=
  bs ++ [0x80] ++ List.replicate ((239 - bs.length % 128) % 128) 0 ++ bytesHigh 16 (8 * bs.length)

/-- The 48 bytes of SHA-384. -/
def sha384 (bs : List Byte) : List Byte :=
  let padded := shaPad bs
  (((chunks 128 (padded.length / 128) padded).foldl shaBlock shaStart).take 6).flatMap (bytesHigh 8)

end Sys2Proof.Machine
end

