-- ==== Sys2Proof/Machine/Mgmt.lean ====
section
/-! DEFINITION. The management space and the cox control space (R317, R400, R401, R443): what a register reads, and
writes of registers. -/

namespace Sys2Proof.Machine

/-- A step of bring-up has failed: the one that STEP then holds. -/
def Mgmt.failed (m : Mgmt) : Bool := field m.mcstat 31 31 == 1

/-- The package has power and bring-up has trained the host link: BAR 0 is open. -/
def Part.hostOpen (p : Part) : Bool :=
  p.mgmt.powered && decide ((if p.mgmt.failed then 5 else 4) ≤ p.mgmt.bringUp)

/-! ### Reading, R317, R363, R392, R400 -/

/-- QUIESCED, R316: no queue is enabled, no job open, no workgroup resident or swapped out. -/
def Part.quiesced (p : Part) : Bool :=
  !p.cox.queues.any (·.en) && p.jobs.all (fun j => j.closed) && p.cox.swapped.isEmpty && p.cores.all Core.isEmpty

/-- CXSTAT. -/
def Part.cxstat (p : Part) : Nat := p.cox.run.toNat + 2 * p.quiesced.toNat + 4 * p.cox.portErr.toNat

/-- A 64-bit register of the cox control space by its offset, a multiple of 8. -/
def Part.coxRegister (p : Part) (a : Nat) : Nat :=
  let x := p.cox
  if 0x1000 ≤ a then
    match p.cores[(a - 0x1000) / 0x40]? with
    | none => 0
    | some k =>
      let r := (a - 0x1000) % 0x40
      if r = 0 then k.ppol.toNat
      else if r < 0x20 then nth k.promo (r / 8 - 1) 0
      else if r < 0x30 then nth k.demo (r / 8 - 4) 0
      else 0
  else if 0x100 ≤ a ∧ a < 0x180 then nth x.pcount ((a - 0x100) / 8) 0
  else
    match a with
    | 0x000 => p.cxstat
    | 0x008 => x.qtbase
    | 0x010 => x.dsbase
    | 0x018 => x.dssize
    | 0x020 => x.dswr
    | 0x028 => x.dsrd
    | 0x030 => x.dslost
    | 0x038 => x.hambase
    | _ => 0

/-- One 32-bit half of a 64-bit value, by the address it is read at. -/
def halfAt (a v : Nat) : Word := word (if a % 8 < 4 then v else v / 2 ^ 32)

/-- VXSTAT of a port. -/
def Port.vxstat (q : Port) : Word :=
  word ((if q.up then 2 ^ 31 else 0) + 2 ^ 24 * q.cls + (if q.sw then 2 ^ 23 else 0) + 2 ^ 16 * q.retry + q.peer)

/-- A word of the wake recorder of a die: slots of 16 bytes. -/
def Die.wakeWord (d : Die) (off : Nat) : Word :=
  match lookupKey (off / 16) d.wake with
  | none => 0
  | some e =>
    match off % 16 / 4 with
    | 0 => word e.time
    | 1 => word (e.time / 2 ^ 32)
    | 2 => word (e.code + 2 ^ 16 * e.source)
    | _ => e.arg

/-- Registers of cluster k. -/
def Cluster.register (x : Cluster) (off : Nat) : Word :=
  match off with
  | 0x00 => x.trctl
  | 0x08 => word x.trbase
  | 0x0C => word (x.trbase / 2 ^ 32)
  | 0x10 => word x.trsize
  | 0x18 => word x.trwr
  | 0x1C => word (x.trwr / 2 ^ 32)
  | 0x20 => word x.trrd
  | 0x24 => word (x.trrd / 2 ^ 32)
  | 0x28 => word x.trlost
  | _ => 0

/-- Registers of the wake recorder and the error counters of a die. -/
def Die.register (x : Die) (off : Nat) : Word :=
  match off with
  | 0x00 => word x.wrCount
  | 0x04 => word x.wrMissed
  | 0x08 => wordOfBool x.wrFreeze
  | 0x0C => word x.ceCount
  | 0x10 => word x.fwdOvf
  | _ => 0

/-- Registers of the management space below 0x400. -/
def Mgmt.register (m : Mgmt) (a : Nat) : Word :=
  if 0x200 ≤ a ∧ a < 0x280 then nth m.mbcmd ((a - 0x200) / 4) 0
  else if 0x300 ≤ a ∧ a < 0x380 then nth m.mbresp ((a - 0x300) / 4) 0
  else
    match a / 8 * 8 with
    | 0x120 => halfAt a m.devbase
    | 0x130 => halfAt a m.devwr
    | 0x138 => halfAt a m.devrd
    | 0x140 => halfAt a m.devlost
    | 0x180 => halfAt a m.fltbase
    | 0x190 => halfAt a m.fltwr
    | 0x198 => halfAt a m.fltrd
    | 0x1A0 => halfAt a m.fanbase
    | 0x1B0 => halfAt a m.fanwr
    | 0x1B8 => halfAt a m.fanrd
    | _ =>
      match a with
      | 0x000 => m.mcstat
      | 0x004 => Config.mcver m.firmware
      | 0x048 => word m.hirqDrop
      | 0x128 => word m.devsize
      | 0x188 => word m.fltsize
      | 0x1A8 => word m.fansize
      | 0x284 => m.mbstat
      | _ => 0

/-- What a word of BAR 0 reads; write-only and unlisted offsets read 0. -/
def Part.register (p : Part) (a : Nat) : Word :=
  if a < 0x1000 then p.mgmt.register a
  else if a < 0x1800 then ((p.clusters[(a - 0x1000) / 0x40]?).map (fun x => x.register (a % 0x40))).getD 0
  else if 0x2000 ≤ a ∧ a < 0x2100 then (if a % 16 = 0 then ((p.mgmt.ports[(a - 0x2000) / 16]?).map Port.vxstat).getD 0 else 0)
  else if 0x3000 ≤ a ∧ a < 0x3100 then ((p.dies[(a - 0x3000) / 0x40]?).map (fun x => x.register (a % 0x40))).getD 0
  else if 0x100000 ≤ a ∧ a < 0x140000 then ((p.dies[(a - 0x100000) / 0x10000]?).map (fun x => x.wakeWord (a % 0x10000))).getD 0
  else if 0x1000000 ≤ a ∧ a < 0x1010000 then halfAt a (p.coxRegister ((a - 0x1000000) / 8 * 8))
  else 0

/-! ### Writing, R400 -/

/-- The low word of a 64-bit register waits for the high word. -/
def Part.latch (p : Part) (a : Nat) (v : Word) : Part := p.onMgmt (fun m => { m with low := insertKey a v m.low })

/-- The value that the high word of a 64-bit register completes. -/
def Part.latched (p : Part) (a : Nat) (v : Word) : Nat := ((lookupKey (a - 4) p.mgmt.low).getD 0).toNat + 2 ^ 32 * v.toNat

/-- A sample timer starts, goes on or stops with TRCTL, R385, R388. -/
def Core.sampling (k : Core) (ctl : Word) (now : Nat) : Core :=
  let period := 2 ^ (field ctl 28 25 + 10)
  if field ctl 29 29 = 0 then { k with sample := none }
  else if (k.sample.map (·.period)) = some period then k
  else { k with sample := some ⟨period, now + period, none⟩ }

/-- A write of TRCTL of cluster c. -/
def Part.writeTrctl (p : Part) (c : Nat) (v : Word) : Part :=
  let ctl := v &&& 0xFE000000
  let p := { p with clusters := modifyNth p.clusters c (fun x => { x with trctl := ctl }) }
  (List.range 8).foldl (fun p i => p.onCore (8 * c + i) (fun k => k.sampling ctl p.now)) p

/-- A 32-bit register of cluster c; TRLOSTM is read-only to the host (R7, R400; log entry 27). -/
def Part.writeCluster (p : Part) (c off : Nat) (v : Word) : Part :=
  let on (f : Cluster → Cluster) : Part := { p with clusters := modifyNth p.clusters c f }
  match off with
  | 0x00 => p.writeTrctl c v
  | 0x10 => on (fun x => { x with trsize := v.toNat })
  | _ => p

/-- A 64-bit register takes effect with its high word. -/
def State.writeWide (s : State) (a v : Nat) : State :=
  let mgmt (f : Mgmt → Mgmt) : State := { s with part := s.part.onMgmt f }
  let cox (f : Cox → Cox) : State := { s with part := s.part.onCox f }
  let cluster (f : Cluster → Cluster) : State :=
    { s with part := { s.part with clusters := modifyNth s.part.clusters ((a - 0x1000) / 0x40) f } }
  if 0x1000 ≤ a ∧ a < 0x1800 then
    (if a % 0x40 = 0x0C then cluster (fun x => { x with trbase := v }) else if a % 0x40 = 0x24 then cluster (fun x => { x with trrd := v }) else s)
  else
    match a with
    | 0x0044 => s.next (.hostIrq v)
    | 0x0124 => mgmt (fun m => { m with devbase := v })
    | 0x013C => mgmt (fun m => { m with devrd := v })
    | 0x0184 => mgmt (fun m => { m with fltbase := v })
    | 0x019C => { s with part := (s.part.onMgmt (fun m => { m with fltrd := v })).flushFaults }
    | 0x01A4 => mgmt (fun m => { m with fanbase := v })
    | 0x01B4 => s.next (.faultAnswer v)
    | 0x100000C => s.next (.qtbaseWrite v)
    | 0x1000014 => cox (fun x => { x with dsbase := v })
    | 0x100001C => cox (fun x => { x with dssize := v })
    | 0x100002C => cox (fun x => { x with dsrd := v })
    | 0x100003C => cox (fun x => { x with hambase := v })
    | _ => s

/-- The address is the low half of a 64-bit register that takes writes. -/
def wideLow (a : Nat) : Bool :=
  [0x0040, 0x0120, 0x0138, 0x0180, 0x0198, 0x01A0, 0x01B0, 0x1000008, 0x1000010, 0x1000018, 0x1000028, 0x1000038].contains a
    || (decide (0x1000 ≤ a) && decide (a < 0x1800) && (a % 0x40 == 0x08 || a % 0x40 == 0x20))

/-- Last word of the debug command block: the command it submits, R381. -/
def Mgmt.debugCommand (m : Mgmt) : Option Instr :=
  let job := (nth m.dbgcmd 1 0).toNat
  let (w, lane) := m.debugTarget
  let item := (nth m.dbgcmd 3 0).toNat
  let value := pairNat (nth m.dbgcmd 4 0) (nth m.dbgcmd 5 0)
  match field (nth m.dbgcmd 0 0) 7 0 with
  | 1 => some (.dbgen job (value.testBit 0))
  | 2 => some (.halt job w.core w.slot)
  | 3 => some (.resume job w.core w.slot)
  | 4 => some (.step job w lane)
  | 5 => some (.read job w lane item)
  | 6 => some (.write job w lane item value)
  | _ => none

def State.debugSubmit (s : State) : State :=
  match s.part.mgmt.debugCommand with
  | some i => s.next i
  | none =>
    let (w, lane) := s.part.mgmt.debugTarget
    s.debugRefuse w (2 ^ lane)

/-! ### The mailbox, R402 -/

def mbDone : Nat := 0
def mbRefused : Nat := 1
def mbBusy : Nat := 2

/-- Sequence number that MBSTAT names. -/
def Mgmt.mbSeq (m : Mgmt) : Nat := field m.mbstat 31 16

/-- MBSTAT of a status, a reason and a sequence number. -/
def Mgmt.mbStatus (m : Mgmt) (status reason seq : Nat) : Mgmt := { m with mbstat := word (status + 256 * reason + 2 ^ 16 * (seq % 2 ^ 16)) }

/-- The command that a code names. -/
def mailCommand : Nat → Option Instr
  | 1 => some .ucload
  | 2 => some .tctx
  | 3 => some .inval
  | 4 => some .keyset
  | 5 => some .keyclr
  | 6 => some .fwdset
  | 7 => some .expset
  | 8 => some .route
  | 9 => some .devid
  | 10 => some .stream
  | 11 => some .vlogrd
  | 12 => some .fwupd
  | 13 => some .wreset
  | 14 => some .service
  | 15 => some .drain
  | 16 => some .spdm
  | _ => none

/-- A write of MBGO: the command in MBCMD is refused or runs. -/
def State.mbGo (s : State) (v : Word) : State :=
  let m := s.part.mgmt
  let w0 := nth m.mbcmd 0 0
  let set (status reason seq : Nat) : State := { s with part := s.part.onMgmt (fun m => m.mbStatus status reason seq) }
  if v.toNat != field w0 31 16 then set mbRefused 2 v.toNat
  else if field m.mbstat 1 0 = mbBusy || !m.invals.isEmpty then set mbRefused 5 v.toNat
  else
    match mailCommand (field w0 15 0) with
    | none => set mbRefused 1 v.toNat
    | some i => if nth m.mbcmd 1 0 != 0 then set mbRefused 2 v.toNat else (set mbBusy 0 v.toNat).next i

/-- A write of a 32-bit register. -/
def State.writeNarrow (s : State) (a : Nat) (v : Word) : State :=
  let mgmt (f : Mgmt → Mgmt) : State := { s with part := s.part.onMgmt f }
  if 0x100 ≤ a ∧ a < 0x120 then
    let s := mgmt (fun m => { m with dbgcmd := setNth m.dbgcmd ((a - 0x100) / 4) v })
    if a = 0x11C then s.debugSubmit else s
  else if 0x200 ≤ a ∧ a < 0x280 then mgmt (fun m => { m with mbcmd := setNth m.mbcmd ((a - 0x200) / 4) v })
  else if 0x1000 ≤ a ∧ a < 0x1800 then { s with part := s.part.writeCluster ((a - 0x1000) / 0x40) (a % 0x40) v }
  else if 0x3000 ≤ a ∧ a < 0x3100 then (if a % 0x40 = 0x08 then s.next (.wrfreeze ((a - 0x3000) / 0x40) v) else s)
  else
    match a with
    | 0x0128 => mgmt (fun m => { m with devsize := v.toNat })
    | 0x0188 => { s with part := (s.part.onMgmt (fun m => { m with fltsize := v.toNat })).flushFaults }
    | 0x01A8 => mgmt (fun m => { m with fansize := v.toNat })
    | 0x0280 => s.mbGo v
    | _ => s

/-- Bytes of BAR 0, R369. -/
def barZero : Nat := 2 ^ 28

/-- A write of one word of BAR 0; one past it is a violation of the host link (R373). -/
def State.writeRegister (s : State) (a : Nat) (v : Word) : State :=
  if a % 4 != 0 || !s.part.hostOpen then s
  else if barZero ≤ a then { s with part := s.part.violation .host a hostAgent causeOob 2 }
  else if wideLow a then { s with part := s.part.latch a v }
  else if 4 ≤ a && wideLow (a - 4) then s.writeWide a (s.part.latched a v)
  else s.writeNarrow a v

/-- REGISTER_WRITE, R400. Other registers ignore writes. -/
def execRegisterWrite (address : Nat) (value : Word) (s : State) : Out :=
  .next (s.writeRegister address value)

/-- WRFREEZE: the wake recorder of a die is frozen or runs again, R393. -/
def execWrfreeze (die : Nat) (value : Word) (s : State) : Out :=
  .next { s with part := s.part.onDie die (fun d => { d with wrFreeze := value.toNat % 2 == 1 }) }

/-- HOST_IRQ: the word names a slot, whose lowest live warp gets the notice; one for an empty slot is dropped (R372). -/
def execHostIrq (value : Nat) (s : State) : Out :=
  let core := bitsNat value 7 0
  let slot := bitsNat value 13 8
  .next (match s.part.wg? core slot with
    | none => { s with part := s.part.onMgmt (fun m => { m with hirqDrop := min (2 ^ 32 - 1) (m.hirqDrop + 1) }) }
    | some g =>
      let w : WarpRef := ⟨core, slot, g.lowestLive.getD 0⟩
      { s with part := s.part.queueTrap w (impTrap causeHostIrq 0 (word (bitsNat value 63 32)) 0) })

end Sys2Proof.Machine
end

