-- ==== Sys2Proof/Machine/Service.lean ====
section
/-! DEFINITION. Answers to fault records and their timeouts (R283, R354, R357, R400, R443). -/

namespace Sys2Proof.Machine

/-- The record leaves the fault service, and everything that waits on it replays or is abandoned. -/
def State.answerFault (s : State) (id : Nat) (resolve : Bool) : State :=
  if s.part.mgmt.faults.any (fun r => r.id == id && !r.loose) then
    let p := s.part.onMgmt (fun m => { m with faults := m.faults.filter (fun r => r.id != id) })
    ({ s with part := p }.answerLanes id resolve).answerSegments id resolve
  else s

/-- Outcomes of an answer, R354. -/
def outcomeResolve : Nat := 1
def outcomeAbandon : Nat := 2

/-- The answer at one place of the answer ring. -/
def State.takeAnswer (s : State) (cap : Nat) : State :=
  let m := s.part.mgmt
  let at_ := m.fanbase + 16 * (m.fanrd % cap)
  let id := s.homeNat at_ 4
  let outcome := s.homeNat (at_ + 4) 4
  let s := { s with part := s.part.onMgmt (fun m => { m with fanrd := m.fanrd + 1 }) }
  if outcome = outcomeResolve then s.answerFault id true
  else if outcome = outcomeAbandon then s.answerFault id false
  else s

/-- Up to n answers, in the order of the ring. -/
def State.takeAnswers (cap : Nat) : Nat → State → State
  | 0, s => s
  | n + 1, s => State.takeAnswers cap n (s.takeAnswer cap)

/-- FAULT_ANSWER: a write of FANWR announces answers; a ring without capacity is not read. -/
def execFaultAnswer (fanwr : Nat) (s : State) : Out :=
  let s := { s with part := s.part.onMgmt (fun m => { m with fanwr := fanwr }) }
  let m := s.part.mgmt
  let cap := ringCap m.fansize (2 ^ 16)
  .next (State.takeAnswers cap (min cap (fanwr - m.fanrd)) s)

/-- Fault timeout of a job in ns. -/
def Part.faultTimeout (p : Part) (job : Nat) : Nat :=
  let ms := ((p.context? job).map (·.timeout)).getD 0
  (if ms = 0 then 100 else ms) * 1000000

/-- FAULT_TIMEOUT: a record unanswered for the timeout of its job is abandoned. -/
def execFaultTimeout (faultId : Nat) (s : State) : Out :=
  .next (match s.part.mgmt.faults.find? (fun r => r.id == faultId && !r.loose) with
    | none => s
    | some r => if r.posted + s.part.faultTimeout r.job ≤ s.part.gtime then s.answerFault faultId false else s)

end Sys2Proof.Machine
end

