-- ==== Sys2Proof/Machine/Power.lean ====
section
/-! DEFINITION. Sample timers, power alarms and thermal limits, power gating of clusters, resets, and memory errors
(R388 to R390, R394 to R398, R403, R405, R406). -/

namespace Sys2Proof.Machine

/-! ### SAMPLE_TIMER_EXPIRY, R388 -/

/-- The expiry latches a sample for the next safe point; one still armed is replaced. -/
def Core.latchSample (k : Core) (now : Nat) : Core :=
  match k.sample with
  | none => k
  | some m =>
    if now < m.next then k
    else
      let v := min 63 (k.eligibleCount now) + 64 * k.stallNow now
      { k with sample := some { m with next := m.next + m.period, armed := some v } }

/-- SAMPLE_TIMER_EXPIRY. -/
def execSampleTimerExpiry (core : Nat) (s : State) : Out :=
  .next { s with part := s.part.onCore core (fun k => k.latchSample s.part.now) }

/-! ### Power alarms and thermal limits, R395, R396 -/

/-- Source field of an event of a die, and of the management controller (R392). -/
def dieSource (d : Nat) : Nat := 0x100 + d
def mgmtSource : Nat := 0x3FF

/-- POWER_ALARM: an estimate above the limit. An alarm that is raised already is not raised again. -/
def execPowerAlarm (die : Nat) (s : State) : Out :=
  let d := s.part.die die
  let p := s.part.onDie die (fun x => { x with alarmAt := s.part.now })
  if d.alarm then .next { s with part := p }
  else
    let n := min (2 ^ 32 - 1) (d.palarm + 1)
    let p := p.onDie die (fun x => { x with alarm := true, palarm := n })
    .next { s with part := p.wakeEvent die 6 (dieSource die) (word n) }

/-- An MMA is running on the core. -/
def Core.runsMma (k : Core) : Bool :=
  match k.running with
  | none => false
  | some x => x.op == .mma

/-- Core cycles in a ms. -/
def cyclesPerMs : Nat := 4000000

/-- Core cycles of the 20 windows of 1 µs that a die stays below the limits before its alarm clears. -/
def alarmWindows : Nat := 80000

/-- POWER_ALARM_CLEAR, after 20 windows without an estimate above the limit: arrays that run no MMA are whole again at once
(R194). -/
def execPowerAlarmClear (die : Nat) (s : State) : Out :=
  if s.part.now < (s.part.die die).alarmAt + alarmWindows then .next s
  else
    let p := s.part.onDie die (fun x => { x with alarm := false })
    let widen (q : Core × Nat) : Core := if dieOf q.2 = die && !q.1.runsMma then { q.1 with narrow := false } else q.1
    .next { s with part := { p with cores := p.cores.zipIdx.map widen } }

/-- THERMAL_LIMIT: an event at 100 °C or more, at most one per ms. -/
def execThermalLimit (die degrees : Nat) (s : State) : Out :=
  let due := match (s.part.die die).thermal with
    | none => true
    | some t => decide (t + cyclesPerMs ≤ s.part.now)
  if degrees < 100 || !due then .next s
  else
    let p := s.part.onDie die (fun x => { x with thermal := some s.part.now })
    .next { s with part := p.wakeEvent die 7 (dieSource die) (word degrees) }

/-- What survives the loss of power: package flash, the indices of free values, the pending schedule, and time. -/
def State.unpowered (s : State) : State :=
  let m := { Mgmt.reset with firmware := s.part.mgmt.firmware, staged := s.part.mgmt.staged, spdm := s.part.mgmt.spdm, powered := false }
  { State.reset with part := { Part.reset with now := s.part.now, oracle := s.part.oracle + 1, sched := s.part.sched, mgmt := m } }

/-- THERMAL_SHUTDOWN: the management controller removes power; only a cold reset brings the part back. -/
def execThermalShutdown (die : Nat) (s : State) : Out :=
  .next (if s.part.dies.length ≤ die then s else s.unpowered)

/-! ### COLD_RESET, R397, R398, R403 -/

/-- A management firmware image has the digest that is fused in the part; none is the image as delivered. -/
def digestOk (image : Option (List Byte)) : Bool := sha384 (image.getD Config.shippedImage) == Config.fusedDigest

/-- The step of bring-up up to 4 that fails, if one does: 1 where the firmware is not verified; whether clocks and memories,
the boundaries between dies and the host link train is open (log entry 1). -/
def failingStep (oracle : Nat) (image : Option (List Byte)) : Option Nat :=
  if !digestOk image then some 1 else [2, 3, 4].find? (fun i => Config.freeBit (freeAt oracle i))

/-- Steps 1 to 4 of bring-up: the firmware in package flash, replaced by a staged image, is verified, memory is
scrubbed, and the host link trains; a step that fails stops the sequence. Whether the root port reports AtomicOps is the root
port's to say (R370). -/
def State.bringUp (s : State) : State :=
  let m := s.part.mgmt
  let image := m.staged.orElse (fun _ => m.firmware)
  let fails := failingStep s.part.oracle image
  let m := { m with firmware := image, staged := none, powered := true,
                    hostAtomics := fails.isNone && Config.freeBit (freeAt s.part.oracle 0),
                    mcstat := match fails with
                      | none => 4
                      | some n => word (2 ^ 31 + n) }
  { s with part := { s.part with mgmt := m } }

/-- COLD_RESET. -/
def execColdReset (s : State) : Out :=
  .next s.unpowered.bringUp

/-! ### Warm reset, R397 -/

/-- A slice may have written a dirty line to memory at any time before the reset: which lines it has is open. -/
def State.settleMemory (s : State) : State :=
  let lines := (s.part.dies.zipIdx.flatMap (fun d => (d.1.copies.map (·.1)).filter (fun l => homeDie (l * 128) == d.2)))
  (lines.filter (fun l => Config.freeBit (freeAt s.part.oracle (2 ^ 36 + l)))).foldl State.writeBack s

/-- What a die keeps: the wake recorder, the alarm count, and the counters cleared at cold reset only; in its memory, the marks of
poisoned lines. -/
def Die.warm (d : Die) (die : Nat) : Die :=
  { Die.reset with
    poison := d.poison.filter (fun l => homeDie (128 * l) == die),
    alarm := d.alarm, alarmAt := d.alarmAt, palarm := d.palarm, thermal := d.thermal, wake := d.wake, wrCount := d.wrCount, wrMissed := d.wrMissed,
    wrFreeze := d.wrFreeze, ceCount := d.ceCount, fwdOvf := d.fwdOvf, vlogs := d.vlogs }

/-- What the management controller keeps: its registers; jobs and keys, windows and routes are gone. -/
def Mgmt.warm (m : Mgmt) : Mgmt :=
  { m with
    contexts := [], faults := [], keys := [], exports := Mgmt.reset.exports, routes := [], remotes := [], invals := [],
    ports := m.ports.map (fun q => { q with fences := 0 }), resets := m.resets + 1 }

/-- The microcode stays in its memory, and the harts start again at the entry offset. -/
def Cox.warm (x : Cox) : Cox := { Cox.reset with run := x.run, image := x.image, ucver := x.ucver }

/-- Everything but memory after a warm reset. -/
def Part.warm (p : Part) : Part :=
  let q : Part :=
    { Part.reset with
      now := p.now, oracle := p.oracle + 1, sched := p.sched, dies := p.dies.zipIdx.map (fun d => d.1.warm d.2),
      clusters := p.clusters.map (fun x => { x with buffer := [], offered := [], gate := none }), sealed := p.sealed, cox := p.cox.warm,
      mgmt := p.mgmt.warm, nextCommand := p.nextCommand }
  let q := { q with cores := q.cores.zipIdx.map (fun (k : Core × Nat) =>
    k.1.sampling (nth p.clusters (clusterOf k.2) Cluster.reset).trctl p.now) }
  q.wakeEvent 0 8 mgmtSource (word q.mgmt.resets)

/-- A warm reset. Resident work is discarded without decision records; with their keys gone, data under the key slots is lost to
reads. -/
def State.warmReset (s : State) : State :=
  let s := s.settleMemory
  { s with part := s.part.warm }

/-! ### Power gating of a cluster, R389, R390 -/

def Part.onCluster (p : Part) (c : Nat) (f : Cluster → Cluster) : Part := { p with clusters := modifyNth p.clusters c f }

/-- CLUSTER_POWER_GATE: the buffer takes no more entries. -/
def execClusterPowerGate (cluster : Nat) (s : State) : Out :=
  .next { s with part := s.part.onCluster cluster (fun x =>
    if x.powered && x.gate.isNone then { x with gate := some s.part.now } else x) }

/-- Entries that fit in the ring, two at most. -/
def Cluster.drainable (x : Cluster) : Nat :=
  min 2 (min x.buffer.length (ringCap x.trsize (2 ^ 24) - (x.trwr - x.trrd)))

/-- 4 µs in core cycles. -/
def gateLimit : Nat := 16000

/-- TRACE_BUFFER_DRAIN: up to two entries go to the ring in device memory (R384); none once the 4 µs of a gating request are over
(R390). -/
def execTraceBufferDrain (cluster : Nat) (s : State) : Out :=
  .next (match s.part.clusters[cluster]? with
    | none => s
    | some x =>
      if !x.powered || (x.gate.map (fun t => decide (t + gateLimit ≤ s.part.now))).getD false then s
      else
        let cap := ringCap x.trsize (2 ^ 24)
        let p := ((x.buffer.take x.drainable).zipIdx).foldl (fun p e =>
          p.homeWrite (x.trbase + 32 * ((x.trwr + e.2) % cap)) e.1) s.part
        { s with part := p.onCluster cluster (fun x =>
          { x with buffer := x.buffer.drop x.drainable, trwr := x.trwr + x.drainable }) })

/-- TRACE_DRAIN_TIMEOUT: 4 µs after the request the buffer powers down; what is left in it is lost. -/
def execTraceDrainTimeout (cluster : Nat) (s : State) : Out :=
  .next (match s.part.clusters[cluster]? with
    | none => s
    | some x =>
      match x.gate with
      | none => s
      | some t =>
        if s.part.now < t + gateLimit then s
        else
          let lost := x.buffer.length
          let p := s.part.onCluster cluster (fun x =>
            { x with powered := false, gate := none, buffer := [], offered := [], trlost := min (2 ^ 32 - 1) (x.trlost + lost) })
          let die := dieOf (8 * cluster)
          { s with part := if lost = 0 then p else p.wakeEvent die 3 (dieSource die) (word lost) })

/-- CLUSTER_POWER_UP: the buffer starts empty. -/
def execClusterPowerUp (cluster : Nat) (s : State) : Out :=
  .next { s with part := s.part.onCluster cluster (fun x =>
    if x.powered then x else { x with powered := true, gate := none, buffer := [], offered := [] }) }

/-! ### Errors, R405, R406 -/

/-- ECC_CORRECTED. -/
def execEccCorrected (die : Nat) (s : State) : Out :=
  .next { s with part := s.part.onDie die (fun x => { x with ceCount := min (2 ^ 32 - 1) (x.ceCount + 1) }) }

/-- A row of the pool of a core fails: a machine check for the workgroups that hold it. -/
def Part.machineCheck (p : Part) (core : Nat) (holds : Nat → Wg → Bool) : Part :=
  let stop (g : Wg × Nat) : Wg := if holds g.2 g.1 then g.1.dispose (impTrap causeMachineCheck 0 0 0) else g.1
  let p := p.onCore core (fun k => { k with slots := k.slots.zipIdx.map (fun q => q.1.map (fun g => stop (g, q.2))) })
  p.wakeEvent (dieOf core) 2 core 1

/-- The die whose slice an error of kind 0 strikes: the home, or a die that is named with a replica of the line. -/
def struckDie (place : Nat) : Nat := if place < 2 ^ 40 then homeDie (128 * place) else place / 2 ^ 40 - 1

/-- UNCORRECTABLE_ERROR. Kind 0: the line `place` of device memory is poisoned at its home, or, from 2^40 on, the line place mod
2^40 in the slice of die place / 2^40 - 1, where that holds it. Kind 1: scratchpad row place / 256 of core place mod 256. Kind 2:
a register or tile row of that core, which the workgroups in `slots` hold. Others: control state of die place mod 4. -/
def execUncorrectableError (kind place : Nat) (slots : List Nat) (s : State) : Out :=
  .next (match kind with
    | 0 =>
      let line := place % 2 ^ 40
      let d := struckDie place
      if !isDevice (128 * line) || 4 ≤ d || !s.part.holds d line || s.part.poisonedAt d line then s
      else { s with part := s.part.onDie d (fun x => x.setPoison line true) }
    | 1 =>
      let lo := place / 256 * poolRow
      { s with part := s.part.machineCheck (place % 256) (fun _ g =>
        decide (g.base < lo + poolRow) && decide (lo < g.base + g.scratch)) }
    | 2 => { s with part := s.part.machineCheck (place % 256) (fun slot _ => slots.contains slot) }
    | _ =>
      let die := place % 4
      { s with part := s.part.wakeEvent die 2 (dieSource die) 2 }.warmReset)

end Sys2Proof.Machine
end

