-- ==== Sys2Proof/Machine/Mailbox.lean ====
section
/-! DEFINITION. The mailbox commands of the management controller (R316, R352, R353, R363, R368, R373, R397, R399, R402 to
R404). -/

namespace Sys2Proof.Machine

/-! ### Operands and answers, R402 -/

/-- Why a command is refused. -/
def badOperand : Nat := 2
def wrongService : Nat := 3
def noSession : Nat := 4
def wrongState : Nat := 5

/-- Operand word i, and the 64-bit operand at words i and i + 1. -/
def Mgmt.operand (m : Mgmt) (i : Nat) : Nat := (nth m.mbcmd i 0).toNat
def Mgmt.wide (m : Mgmt) (i : Nat) : Nat := pairNat (nth m.mbcmd i 0) (nth m.mbcmd (i + 1) 0)

/-- The command of a code is running. -/
def Mgmt.running (m : Mgmt) (code : Nat) : Bool := field m.mbstat 1 0 == mbBusy && field (nth m.mbcmd 0 0) 15 0 == code

/-- Answer the running command. -/
def State.mailAnswer (s : State) (status reason : Nat) : State :=
  { s with part := s.part.onMgmt (fun m => m.mbStatus status reason m.mbSeq) }

/-- What becomes of the running command: refused with a reason and without effect, done, or still busy. -/
inductive Mail where
  | refuse (reason : Nat)
  | done (s : State)
  | busy (s : State)

/-- A mailbox command of a code. -/
def State.mail (s : State) (code : Nat) (f : Mgmt → Mail) : Out :=
  if !s.part.mgmt.running code then .next s
  else
    match f s.part.mgmt with
    | .refuse r => .next (s.mailAnswer mbRefused r)
    | .done t => .next (t.mailAnswer mbDone 0)
    | .busy t => .next t

/-- Bytes of device memory that a command names; none where they do not lie in it. -/
def State.memoryBytes (s : State) (pa n : Nat) : Option (List Byte) :=
  if pa + n ≤ 4 * homeSpan then some (s.homeRead pa n) else none

def State.onMgmt (s : State) (f : Mgmt → Mgmt) : State := { s with part := s.part.onMgmt f }

/-! ### UCLOAD, R316 -/

/-- One bit of the CRC-32 of IEEE 802.3, least significant bit first. -/
def crcBit (c : Nat) : Nat := if c % 2 = 1 then Nat.xor (c / 2) 0xEDB88320 else c / 2

def crcByte (c : Nat) (b : Byte) : Nat := (List.range 8).foldl (fun c _ => crcBit c) (Nat.xor c b.toNat)

def crc32 (bs : List Byte) : Nat := Nat.xor (bs.foldl crcByte 0xFFFFFFFF) 0xFFFFFFFF

/-- A word of a microcode header. -/
def headerWord (img : List Byte) (off : Nat) : Nat := leNat ((img.drop off).take 4)

/-- An image that may run. -/
def imageGood (img : List Byte) : Bool :=
  decide (32 ≤ img.length) && decide (img.length ≤ 262144) && headerWord img 0 == 0x58434E4F && headerWord img 8 == img.length
    && headerWord img 16 == crc32 (img.drop 32) && ((img.drop 20).take 12).all (· == 0)

/-- The decision counters of every queue start afresh, in its QCB too. -/
def Part.clearCounts (p : Part) : Part :=
  p.cox.queues.foldl (fun p q => (p.onQueue q.id (fun q => { q with counts := List.replicate 8 0 })).homeWrite (q.qcb + 0x40) (List.replicate 64 0)) p

/-- The image runs: counters and stream indices start afresh, and the MICROCODE record is the first of the stream. -/
def State.startMicrocode (s : State) (img : List Byte) : State :=
  let version := headerWord img 4
  let p := s.part.onCox (fun x =>
    { x with run := true, image := img, ucver := word version, pcount := List.replicate 16 0, dswr := 0, dsrd := 0 })
  let p := p.clearCounts.onMgmt (fun m => (m.setBit 30 true).setStep (max 6 m.bringUp))
  let note : Note :=
    { type := 14, flags := 0, queue := 0, core := noCore, launch := 0, job := 0, wg := noWg, payload := leBytes 4 version ++ leBytes 4 img.length }
  let p := ((p.countPart 13).append note).wakeEvent 0 9 mgmtSource (word version)
  let s := { s with part := p }
  if p.cox.qtPending then s.openAdmin else s

/-- UCLOAD. -/
def execUcload (s : State) : Out :=
  s.mail 1 (fun m =>
    if m.bringUp < 5 || m.failed || !(s.part.quiesced || m.bringUp == 5) then .refuse wrongState
    else
      match s.memoryBytes (m.wide 2) (m.operand 4) with
      | none => .refuse badOperand
      | some img => if imageGood img then .done (s.startMicrocode img) else .refuse badOperand)

/-! ### TCTX, R353 -/

/-- The context that words 3 to 10 hold. -/
def Mgmt.newContext (m : Mgmt) : TransCtx := ⟨m.operand 7, m.wide 3, m.wide 5, m.operand 8⟩

def TransCtx.good (t : TransCtx) : Bool :=
  t.table % 4096 == 0 && t.fixup % 1024 == 0 && decide (t.timeout ≤ 60000)

/-- TCTX. -/
def execTctx (s : State) : Out :=
  s.mail 2 (fun m =>
    let job := m.operand 2
    let others := m.contexts.filter (fun t => t.job != job)
    let t := m.newContext
    if (List.range 8).all (fun i => m.operand (3 + i) == 0) then .done (s.onMgmt (fun m => { m with contexts := others }))
    else if t.job != job || !t.good || m.wide 9 != 0 then .refuse badOperand
    else .done (s.onMgmt (fun m => { m with contexts := others ++ [t] })))

/-! ### INVAL, INVALIDATE_COMPLETE, R352 -/

/-- INVAL: the command runs until the invalidate completes. -/
def execInval (s : State) : Out :=
  s.mail 3 (fun m =>
    if m.invals.isEmpty then .busy (s.onMgmt (fun m => { m with invals := [(m.operand 2, m.wide 3, m.wide 5, m.mbSeq)] })) else .busy s)

/-- A warp has an access under way whose line has translated. -/
def Warp.accessOpen (w : Warp) : Bool :=
  w.pend.any (fun e => e.lanes.any (fun l => l.bytes.any (fun b => b.loc.isSome && b.got.isNone)))

/-- A core has an access of the workgroup in a slot under way: an atomic, a flush, a discard, a write of ST.REL or STMC, or the
release of an UNLOCK. -/
def Core.slotAccess (k : Core) (slot : Nat) : Bool :=
  k.atoms.any (fun a => a.w.slot == slot) || k.walkers.any (fun w => w.w.slot == slot) || k.discards.any (fun d => d.2.2.slot == slot)
    || k.packets.any (fun q => q.direct.isSome && q.origins.any (fun o => o.w.slot == slot))
    || k.releases.any (fun x => x.unlock.any (fun u => u.1.slot == slot))

/-- The dies and links have one: a lock request or an unlock on its way, a lock request that waits, a barrier step, or a request
on a link. -/
def Part.slotRequest (p : Part) (core slot : Nat) : Bool :=
  let mine := inSlot core slot
  p.tbUpdates.any (fun u => mine u.w) || p.mgmt.remotes.any (fun r => mine r.w)
    || p.dies.any (fun d => d.lockSends.any (fun x => mine x.w) || d.locks.any (fun e => e.waiting.any (fun q => mine q.w)))

/-- An access of a job is under way: one of its workgroups, or a copy, whose barrier keeps the place of its issue. -/
def Part.jobAccess (p : Part) (job : Nat) : Bool :=
  p.cores.zipIdx.any (fun k => k.1.slots.zipIdx.any (fun q => match q.1 with
    | none => false
    | some g => g.job == job && (g.warps.any Warp.accessOpen || k.1.slotAccess q.2 || p.slotRequest k.2 q.2)))
    || (p.commands ++ p.cores.flatMap (·.numbering)).any (fun q => q.job == job && q.barrier.isSome)

/-- INVALIDATE_COMPLETE: every access of the job that may have used the covered entries has finished, and the TLBs drop
them. -/
def execInvalidateComplete (s : State) : Out :=
  .next (match s.part.mgmt.invals with
    | [] => s
    | x :: _ =>
      if s.part.jobAccess x.1 then s
      else
        let s : State := { s with part := s.part.dropTlb x.1 x.2.1 x.2.2.1 }
        s.onMgmt (fun m => { m with invals := [] }.mbStatus mbDone 0 x.2.2.2))

/-! ### KEYSET, KEYCLR, R404 -/

/-- A secured session is open. -/
def Mgmt.session (m : Mgmt) : Bool := field m.mcstat 29 29 == 1

/-- KEYSET: the key pair of the message goes into an empty slot. A message that carries none is refused (log entry 34). -/
def execKeyset (s : State) : Out :=
  s.mail 4 (fun m =>
    let slot := m.operand 2
    match s.memoryBytes (m.wide 3) (m.operand 5) with
    | none => .refuse badOperand
    | some message =>
      if slot = 0 || 2047 < slot then .refuse badOperand
      else if !m.session then .refuse noSession
      else if (s.part.keyAt slot).isSome then .refuse wrongState
      else
        match Config.keyPair m.spdm message with
        | none => .refuse badOperand
        | some k => .done (s.onMgmt (fun m => { m with keys := insertKey slot k m.keys })))

/-- Lines of a key slot that a slice holds, or that a write on its way to a home changes. -/
def Part.linesUnder (p : Part) (slot : Nat) : List (Nat × Nat) :=
  p.dies.zipIdx.flatMap (fun d =>
    (((d.1.copies.map (·.1) ++ d.1.clean ++ d.1.inbox.map (·.line)).eraseDups).filter (fun l => keySlot (128 * l) == slot)).map (fun l => (d.2, l)))

/-- The home has the bytes of every write of a line that is on its way to it. -/
def Part.gather (p : Part) (line : Nat) : Part :=
  let h := homeDie (line * 128)
  ((p.die h).inbox.filter (fun u => u.line == line && !u.notice)).foldl (fun p u =>
    p.onDie h (fun x => x.onCopy line (fun c => c.apply u.stamp u.bytes))) p

/-- The slices of every die write back and drop the lines of a slot, with the writes of replicas that are on their way. -/
def State.dropLines (s : State) (slot : Nat) : State :=
  let held := s.part.linesUnder slot
  let p := (held.map (·.2)).eraseDups.foldl Part.gather s.part
  held.foldl (fun s h => s.evictLine h.1 h.2) { s with part := p }

/-- KEYCLR: the lines of the slot go to memory under the old key and leave the slices; then the slot is empty. -/
def execKeyclr (s : State) : Out :=
  s.mail 5 (fun m =>
    let slot := m.operand 2
    if slot = 0 || 2047 < slot then .refuse badOperand
    else .done ((s.dropLines slot).onMgmt (fun m => { m with keys := eraseKey slot m.keys })))

/-! ### Windows, routes and the device id, R312, R363, R368 -/

/-- FWDSET. -/
def execFwdset (s : State) : Out :=
  s.mail 6 (fun m =>
    let die := m.operand 2
    let n := m.operand 3
    let limit := m.wide 6
    let window : Option FwdWindow := if limit = 0 then none else some ⟨m.wide 4, limit, m.operand 8⟩
    if !s.part.testService then .refuse wrongService
    else if 4 ≤ die || 8 ≤ n || 256 ≤ m.operand 8 then .refuse badOperand
    else .done { s with part := s.part.onDie die (fun d => { d with windows := setNth d.windows n window }) })

/-- EXPSET. -/
def execExpset (s : State) : Out :=
  s.mail 7 (fun m =>
    let n := m.operand 2
    let base := m.wide 3
    let size := m.wide 5
    let good := base % 65536 == 0 && size % 65536 == 0 && decide (m.operand 7 ≤ 4094) && decide (m.operand 8 < 8) && decide (m.operand 9 < 2048)
    let window : Option ExportWin := if size = 0 then none else some ⟨base, base + size, m.operand 7, m.operand 8, m.operand 9⟩
    if 32 ≤ n || !good then .refuse badOperand
    else .done (s.onMgmt (fun m => { m with exports := setNth m.exports n window })))

/-- Step 5 of bring-up is under way: steps 1 to 4 are done. -/
def Mgmt.linking (m : Mgmt) : Bool := m.bringUp == 4 && !m.failed

/-- Ports that the route table names. -/
def Mgmt.routed (m : Mgmt) (i : Nat) : Bool := m.routes.any (fun r => r.2 == i)

/-- Step 5 of bring-up, R398: with a device id assigned, the ports that the route table names train, and once all of them carry
traffic the step is complete. -/
def Mgmt.linkStep (m : Mgmt) (now : Nat) : Mgmt :=
  if !m.linking || m.devid = 0 then m
  else if m.routes.all (fun r => (nth m.ports r.2 Port.reset).up) then m.setStep 5
  else
    let train (q : Port × Nat) : Port :=
      if m.routed q.2 && !q.1.up && q.1.training.isNone then { q.1 with training := some now } else q.1
    { m with ports := m.ports.zipIdx.map train }

/-- ROUTE. -/
def execRoute (s : State) : Out :=
  s.mail 8 (fun m =>
    let dev := m.operand 2
    let mask := m.operand 3
    let ports := (lanesOf 16 mask).map (fun i => (dev, i))
    if dev = 0 || 4094 < dev || 65536 ≤ mask then .refuse badOperand
    else
      let routed (m : Mgmt) : Mgmt := { m with routes := m.routes.filter (fun r => r.1 != dev) ++ ports }
      .done (s.onMgmt (fun m => (routed m).linkStep s.part.now)))

/-- DEVID, in step 5 of bring-up. -/
def execDevid (s : State) : Out :=
  s.mail 9 (fun m =>
    let dev := m.operand 2
    if dev = 0 || 4094 < dev then .refuse badOperand
    else if !m.linking then .refuse wrongState
    else
      let named (m : Mgmt) : Mgmt := { m with devid := dev }
      .done (s.onMgmt (fun m => (named m).linkStep s.part.now)))

/-- STREAM. -/
def execStream (s : State) : Out :=
  s.mail 10 (fun m => .done (s.onMgmt (fun x => { x with streams := m.operand 2 % 2 == 0 })))

/-! ### VLOGRD, R373 -/

/-- The gate whose log a number names. -/
def gateOf (n : Nat) : Option Gate :=
  if n < 128 then some (.slice (n / 32) (n % 32))
  else if 0x100 ≤ n ∧ n < 0x110 then some (.port (n - 0x100))
  else if n = 0x200 then some .host
  else none

def Part.vlog (p : Part) : Gate → VLog
  | .slice d n => (lookupKey n (p.die d).vlogs).getD VLog.reset
  | .port n => (nth p.mgmt.ports n Port.reset).vlog
  | .host => p.mgmt.hostVlog

def Part.setVlog (p : Part) (g : Gate) (x : VLog) : Part :=
  match g with
  | .slice d n => p.onDie d (fun y => { y with vlogs := insertKey n x y.vlogs })
  | .port n => p.onMgmt (fun m => { m with ports := modifyNth m.ports n (fun q => { q with vlog := x }) })
  | .host => p.onMgmt (fun m => { m with hostVlog := x })

/-- VLOGRD: the entry, the lost count, and the entries written. -/
def execVlogrd (s : State) : Out :=
  s.mail 11 (fun m =>
    let n := m.operand 3
    match gateOf (m.operand 2) with
    | none => .refuse badOperand
    | some g =>
      if 16 ≤ n then .refuse badOperand
      else
        let x := s.part.vlog g
        let entry := (lookupKey n x.entries).getD (List.replicate 32 0)
        let words := (bytesWords entry).take 8 ++ [word x.lost, word x.written]
        let read := if bitNat x.read n = 1 then x.read else x.read + 2 ^ n
        let p := s.part.setVlog g { x with read := read }
        .done { s with part := p.onMgmt (fun m => { m with mbresp := words ++ m.mbresp.drop 10 }) })

/-! ### FWUPD, WRESET, SERVICE, DRAIN -/

/-- FWUPD: an image is staged for the next cold reset. -/
def execFwupd (s : State) : Out :=
  s.mail 12 (fun m =>
    match s.memoryBytes (m.wide 2) (m.operand 4) with
    | none => .refuse badOperand
    | some img => .done (s.onMgmt (fun m => { m with staged := some img })))

/-- WRESET. -/
def execWreset (s : State) : Out :=
  s.mail 13 (fun _ => .done s.warmReset)

/-- SERVICE. -/
def execService (s : State) : Out :=
  s.mail 14 (fun m =>
    let v := m.operand 2
    if 2 ≤ v then .refuse badOperand
    else if s.part.jobs.any (fun j => !j.closed) then .refuse wrongState
    else .done (s.onMgmt (fun m => m.setBit 28 (v == 1))))

/-- DRAIN: resident work of a queue, or of every queue, is drained (R328). -/
def execDrain (s : State) : Out :=
  s.mail 15 (fun m =>
    let queue := m.operand 2
    let mine (g : Wg) : Bool := ((s.part.launch? g.launch).map (fun l => l.queue == queue)).getD false
    if queue = 0xFFFFFFFF then .done (s.drainWork (s.part.victims (fun _ => true)))
    else if (s.part.queue? queue).isNone then .refuse badOperand
    else .done (s.drainWork (s.part.victims mine)))

/-! ### SPDM -/

/-- SPDM: one message to the controller, whose answer and session are its own. -/
def execSpdm (s : State) : Out :=
  s.mail 16 (fun m =>
    match s.memoryBytes (m.wide 2) (m.operand 4) with
    | none => .refuse badOperand
    | some request =>
      let reply := (Config.spdmReply m.spdm request).take (m.operand 7)
      if 4 * homeSpan < m.wide 5 + m.operand 7 then .refuse badOperand
      else
        let p := (s.part.homeWrite (m.wide 5) reply).onMgmt (fun m =>
          { m.setBit 29 (Config.spdmOpen m.spdm request) with spdm := m.spdm + 1, mbresp := setNth m.mbresp 0 (word reply.length) })
        .done { s with part := p })

end Sys2Proof.Machine
end

