-- ==== Sys2Proof/Machine/Inbound.lean ====
section
/-! DEFINITION. Requests of the host and of peer parts to this part (R366, R368 to R370, R373, R374). -/

namespace Sys2Proof.Machine

/-! ### Checks -/

/-- What a request does, as a violation entry has it: 1 read, 2 write, 4 atomic. -/
def kindRead : Nat := 1
def kindWrite : Nat := 2
def kindAtomic : Nat := 4

/-- A request that is refused: the answer is an error response without data, and nothing of it is performed (R374). -/
def State.refuseInbound (s : State) (g : Gate) (addr requester cause kind : Nat) : State :=
  { s with part := { s.part.violation g addr requester cause kind with reply := [], replyError := true } }

/-- Lines that a range of bytes touches. -/
def rangeLines (loc n : Nat) : List Nat := (List.range (ceilDiv (loc % 128 + n) 128)).map (fun i => lineOf loc + i)

/-- The slices refuse a request: past device memory, or a write into a forward window in normal service. -/
def State.sliceRefuses (s : State) (loc n requester kind : Nat) : Option State :=
  if 4 * homeSpan < physical loc + n then some (s.refuseInbound (.slice (min 3 (homeDie loc)) (sliceOf loc)) loc requester causeOob kind)
  else if kind = kindRead then none
  else
    match (rangeLines loc n).find? (fun l => s.part.refused l) with
    | none => none
    | some l => some (s.refuseInbound (.slice (homeDie (128 * l)) (lineSlice l)) loc requester causeProt kind)

/-- Serve a request that the slices take, with the response it gets. -/
def State.serveInbound (s : State) (loc n requester kind : Nat) (f : State → State × List Byte) : State :=
  match s.sliceRefuses loc n requester kind with
  | some t => t
  | none =>
    let (t, bs) := f s
    { t with part := { t.part with reply := bs, replyError := false } }

/-- Some line of a range is poisoned. -/
def Part.anyPoison (p : Part) (loc n : Nat) : Bool := (rangeLines loc n).any p.poisoned

/-- A read: the bytes as their homes hold them; none of a poisoned line are delivered. -/
def State.inboundRead (s : State) (loc n requester : Nat) : State :=
  s.serveInbound loc n requester kindRead (fun s => (s, if s.part.anyPoison loc n then [] else s.homeRead loc n))

/-- A write. -/
def State.inboundWrite (s : State) (loc : Nat) (bs : List Byte) (requester : Nat) : State :=
  s.serveInbound loc bs.length requester kindWrite (fun s => (s.agentWrite requester false loc bs, []))

/-- The operand type of an inbound integer atomic: only its signedness counts. -/
def integerEntry (signed : Bool) : Entry := ⟨word (kindInteger + 16 * signed.toNat), 0, 0, 0⟩

/-- An atomic of n bytes; on a poisoned line nothing is performed. -/
def State.inboundAtomic (s : State) (loc n op : Nat) (signed : Bool) (ws : List Word) (requester : Nat) : State :=
  s.serveInbound loc n requester kindAtomic (fun s =>
    if s.part.anyPoison loc n then (s, []) else s.agentAtomic requester (integerEntry signed) op loc ws)

/-! ### The host, R369, R370 -/

/-- Bytes that one request of the host carries at most: the largest read request, and the largest payload (R369). -/
def hostLimit (kind : Nat) : Nat := if kind = kindRead then 4096 else 512

/-- A request of the host: nothing where the link is closed, a violation of the link where it is larger than the link carries or
falls outside BAR 2. -/
def State.hostRequest (s : State) (pa n kind : Nat) (f : State → State) : State :=
  if !s.part.hostOpen || n = 0 then s
  else if hostLimit kind < n then s.refuseInbound .host pa hostAgent causeHostErr kind
  else if pa < s.part.mgmt.barBase || s.part.mgmt.barBase + s.part.mgmt.barSize < pa + n then s.refuseInbound .host pa hostAgent causeOob kind
  else f s

/-- HOST_WRITE: a posted write, applied in the order in which the writes arrive. -/
def execHostWrite (pa : Nat) (bytes : List Byte) (s : State) : Out :=
  .next (s.hostRequest pa bytes.length kindWrite (fun s => s.inboundWrite pa bytes hostAgent))

/-- HOST_READ. -/
def execHostRead (pa count : Nat) (s : State) : Out :=
  .next (s.hostRequest pa count kindRead (fun s => s.inboundRead pa count hostAgent))

/-- Operation of an AtomicOp: 0 FetchAdd, 1 Swap, 2 CAS, in the numbers of R136; none for a width it does not have. -/
def atomicOp (op width : Nat) : Option Nat :=
  match op with
  | 0 => if width = 4 || width = 8 then some 0 else none
  | 1 => if width = 4 || width = 8 then some 6 else none
  | 2 => if width = 4 || width = 8 || width = 16 then some 7 else none
  | _ => none

/-- Words of an operand of n bytes. -/
def operandWords (n operand : Nat) : List Word := (List.range (n / 4)).map (fun i => word (operand / 2 ^ (32 * i)))

/-- HOST_ATOMIC: a CAS has its compare value in the low half of the operand. A malformed AtomicOp is refused. -/
def execHostAtomic (pa width op operand : Nat) (s : State) : Out :=
  .next (s.hostRequest pa (max 1 width) kindAtomic (fun s =>
    match atomicOp op width with
    | none => s.refuseInbound .host pa hostAgent causeHostErr kindAtomic
    | some o =>
      if pa % width != 0 then s.refuseInbound .host pa hostAgent causeHostErr kindAtomic
      else s.inboundAtomic pa width o false (operandWords (if o = 7 then 2 * width else width) operand) hostAgent))

/-! ### Peers, R364 to R368 -/

/-- What an inbound Vexlink request does: 0 a read of `op` bytes, 1 a write, 2 an atomic, 3 a lock request (op 0 LOCK,
1 TRY), 4 an unlock, 5 a barrier update of kind `op`. -/
def peerKind (kind : Nat) : Nat := if kind = 0 then kindRead else if kind = 1 then kindWrite else kindAtomic

/-- Operation of an inbound atomic in the numbers of R136, and whether its operands are signed. -/
def peerOp (op : Nat) : Nat := op % 16
def peerSigned (op : Nat) : Bool := 16 ≤ op

/-- Bytes that a request names: those of a lock are the 8 that its address is aligned to (R146). -/
def peerSize (kind op : Nat) (bytes : List Byte) : Nat :=
  match kind with
  | 0 => op
  | 1 => bytes.length
  | 2 => if peerOp op = 7 then bytes.length / 2 else bytes.length
  | 5 => 16
  | _ => 8

/-- The part performs an atomic of an operation on n bytes: the classes of R365. -/
def classPerformed (op n : Nat) : Bool :=
  if op = 7 then n == 4 || n == 8 || n == 16 else if 10 ≤ op then n == 4 else n == 4 || n == 8

/-- A header that no message has. -/
def peerMalformed (pa kind op n : Nat) : Bool :=
  decide (5 < kind) || n == 0 || decide (128 < pa % 128 + n) || (kind == 2 && (decide (32 ≤ op) || decide (12 < peerOp op)))
    || (decide (2 ≤ kind) && pa % n != 0) || (kind == 3 && decide (1 < op)) || (kind == 5 && decide (4 < op))

/-- The export window that serves a request. -/
def Mgmt.exportFor (m : Mgmt) (peer pa n kind : Nat) : Option ExportWin :=
  (m.exports.filterMap id).find? (fun x => (x.peer == 0 || x.peer == peer) && decide (x.base ≤ pa) && decide (pa + n ≤ x.limit)
    && x.perms.testBit (kind / 2))

/-- Who holds or asks for a lock from a peer: its device and the tag of its requests. -/
def peerRef (peer : Nat) (bytes : List Byte) : WarpRef := ⟨2 ^ 20 + peer, 0, leNat bytes⟩

/-- A barrier update of a peer at the home slice: the answer tells a TBARV whether it was performed. -/
def State.peerBarrier (s : State) (loc op : Nat) (bytes : List Byte) : State × List Byte :=
  let old := s.homeRead loc 16
  match (TBarrier.ofBytes old).update op (toSigned 64 (leNat (bytes.take 8))) ((bytes.drop 8).any (· != 0)) with
  | none => (s, [0])
  | some b => ({ s with part := (s.part.homeWrite loc (b.bytes (tbBase op old))).wakePhase }, [1])

/-- A request that an export window serves. -/
def State.peerServe (s : State) (peer pa kind op : Nat) (bytes : List Byte) : State :=
  let who := peerAgent peer
  match kind with
  | 0 => s.inboundRead pa op who
  | 1 => s.inboundWrite pa bytes who
  | 2 => s.inboundAtomic pa (peerSize kind op bytes) (peerOp op) (peerSigned op) (bytesWords bytes) who
  | 5 => s.serveInbound pa 16 who kindAtomic (fun s => s.peerBarrier pa op bytes)
  | _ => s.serveInbound pa 8 who kindAtomic (fun s =>
      let q : LockSend := ⟨peerRef peer bytes, physical pa, op == 1, [], 0, s.part.nextCommand, kind == 4⟩
      let p := s.part.onDie (homeDie pa) (fun d => { d with lockSends := d.lockSends ++ [q] })
      ({ s with part := { p with nextCommand := p.nextCommand + 1 } }, []))

/-- PEER_REQUEST: checked at the port, then at the slices. An address that no location can have lies past device memory too. -/
def execPeerRequest (port peer pa kind op : Nat) (bytes : List Byte) (s : State) : Out :=
  let who := peerAgent peer
  let n := peerSize kind op bytes
  let refuse (cause : Nat) : State := s.refuseInbound (.port port) pa who cause (peerKind kind)
  .next (if !(nth s.part.mgmt.ports port Port.reset).up then s
    else if peerMalformed pa kind op n then refuse causeHostErr
    else if kind == 2 && !classPerformed (peerOp op) n then refuse causePathAtomic
    else
      match s.part.mgmt.exportFor peer pa n (peerKind kind) with
      | none => refuse causeProt
      | some x => if x.key != 0 && (s.part.keyAt x.key).isNone then refuse causeKeyBad
        else s.peerServe peer (underKey x.key (min pa (keySpan - 1))) kind op bytes)

/-- RELEASE_FENCE: the writes that arrived earlier on the port have been applied as they arrived; the fence is
acknowledged. -/
def execReleaseFence (port : Nat) (s : State) : Out :=
  let ack (q : Port) : Port := if q.up then { q with acked := q.acked + 1 } else q
  .next { s with part := s.part.onMgmt (fun m => { m with ports := modifyNth m.ports port ack }) }

end Sys2Proof.Machine
end

