-- ==== Sys2Proof/Machine/Outbound.lean ====
section
/-! DEFINITION. Answers and failures of requests of this part to the host and to peers, and the links themselves (R365
to R367, R371, R374). -/

namespace Sys2Proof.Machine

def Part.remote? (p : Part) (id : Nat) : Option Remote := p.mgmt.remotes.find? (fun r => r.id == id)

def Part.dropRemote (p : Part) (id : Nat) : Part := p.onMgmt (fun m => { m with remotes := m.remotes.filter (fun r => r.id != id) })

/-- The flushing read of a release has been answered. -/
def Part.flushed (p : Part) (r : Remote) : Part :=
  let mark (x : Release) : Release := if some x.id = r.command then { x with flush := false } else x
  p.onCore r.w.core (fun k => { k with releases := k.releases.map mark })

/-- The warp of a lock request still waits for that lock. -/
def Part.lockAwaited (p : Part) (r : Remote) : Bool :=
  match (p.warp? r.w).bind (·.lockWait) with
  | none => false
  | some q => q.ref.loc == r.loc && q.answer.isNone

/-- The answer to a lock request at a peer: granted, or for a TRY refused. A grant that nobody awaits is given back. -/
def Part.lockAnswered (p : Part) (r : Remote) (granted : Bool) : Part :=
  if r.op = 2 then p
  else if !p.lockAwaited r then (if granted then p.freeLock r.w ⟨r.va, r.loc⟩ else p)
  else if granted then (p.onWarp r.w Warp.takeLock).promoteHolder r.w
  else p.refuseTry r.w

/-- A lock request fails on its way: a TRY writes nothing, a LOCK goes on without the lock. -/
def Warp.loseLock (w : Warp) : Warp :=
  match w.lockWait with
  | none => w
  | some q =>
    let w : Warp := { w with threads := w.threads.map (fun (t : Thread) => t.wake (fun c => c == .lock)) }
    match q.pend with
    | none => { w with lockWait := none, lockDone := w.lockDone ++ [{ q with answer := some false }] }
    | some id => { w.closeLanes id (lanesOf 32 q.lanes) with lockWait := none }

/-- A request is answered with bytes. -/
def State.completeRequest (s : State) (r : Remote) (bytes : List Byte) : State :=
  let p := s.part.dropRemote r.id
  match r.kind with
  | 0 => { s with part := s.part.completeRemote r bytes }
  | 1 => { s with part := s.part.completeRemote r bytes }
  | 2 => { s with part := p }
  | 6 => { s with part := p.flushed r }
  | 7 => { s with part := p.lockAnswered r (bytes.any (· != 0)) }
  | 8 => { s with part := (p.tbAnswer r.op r.w r.command (r.op != 2 || bytes.any (· != 0))).wakePhase }
  | _ =>
    match r.command with
    | none => { s with part := p }
    | some c => s.completeFlying c r.id bytes

/-- A request fails: of a lane with an imprecise trap, of an engine with an abandoned segment. -/
def State.failRequest (s : State) (r : Remote) (cause info0 info1 engine : Nat) : State :=
  let trap (p : Part) : Part := p.queueTrap r.w (impTrap cause r.va (word info0) (word info1))
  let p := s.part.dropRemote r.id
  match r.kind with
  | 0 => { s with part := s.part.failRemote r cause info0 info1 }
  | 1 => { s with part := s.part.failRemote r cause info0 info1 }
  | 2 => { s with part := s.part.failRemote r cause info0 info1 }
  | 6 => { s with part := (trap p).flushed r }
  | 7 => { s with part := (trap p).onWarp r.w (fun w => if p.lockAwaited r then w.loseLock else w) }
  | 8 =>
    let p := if r.op < 3 then trap p else p
    { s with part := p.tbAnswer r.op r.w r.command true }
  | _ =>
    match r.command with
    | none => { s with part := p }
    | some c => s.failFlying c r.id engine

/-- Posted writes of the same core to the host that were sent before a flushing read (R270). -/
def Part.postedBefore (p : Part) (r : Remote) : Bool :=
  r.kind == 6 && p.mgmt.remotes.any (fun q => q.w.core == r.w.core && locTarget q.loc == 1 && decide (q.id < r.id)
    && (q.kind == 2 || q.kind == 4))

/-- The flit that carried a request has arrived. -/
def Part.flitArrived (p : Part) (r : Remote) : Part :=
  match r.port with
  | none => p
  | some i => p.onMgmt (fun m => { m with ports := modifyNth m.ports i (fun q => { q with fails := 0 }) })

/-- The request has been answered already, and waits for the instruction that made it. -/
def Remote.answered (r : Remote) : Bool := r.kind == 0 && r.pend.isNone && r.op != 0

/-- HOST_COMPLETION: the answer of the host, or of a peer, to a request; a status other than 0 is a failure. -/
def execHostCompletion (request : Nat) (status : Nat) (bytes : List Byte) (s : State) : Out :=
  .next (match s.part.remote? request with
    | none => s
    | some r =>
      if r.answered || s.part.postedBefore r || !s.part.vexTaken r then s
      else
        let s := { s with part := s.part.flitArrived r }
        if status = 0 then s.completeRequest r bytes else s.failRequest r causeHostErr status 0 causeProt)

/-- A request to the host that is answered: a read, an atomic, or a flushing read. -/
def Remote.timed (r : Remote) : Bool := locTarget r.loc == 1 && [0, 1, 3, 5, 6].contains r.kind

/-- HOST_COMPLETION_TIMEOUT: no completion within 10 ms; the completion status is left open. -/
def execHostCompletionTimeout (request : Nat) (s : State) : Out :=
  .next (match s.part.remote? request with
    | none => s
    | some r =>
      if r.answered || !r.timed || decide (s.part.now < r.issued + engineTimeout) then s
      else
        let status := (Config.freeWord (freeAt s.part.oracle 0)).toNat
        let s := { s with part := { s.part with oracle := s.part.oracle + 1 } }
        s.failRequest r causeHostErr status 0 causeEngTimeout)

/-- ERROR_RESPONSE: XLATE for a lane access, PROT for an engine's segment. -/
def execErrorResponse (request : Nat) (s : State) : Out :=
  .next (match s.part.remote? request with
    | none => s
    | some r =>
      if r.answered || !s.part.vexTaken r then s
      else
        let lanes := if r.kind ≤ 2 then maskOf (((s.part.requestMates r).map (fun (m : Remote) => m.lane)).eraseDups) else 2 ^ r.lane
        { s with part := s.part.flitArrived r }.failRequest r causeXlate lanes (r.pc % 2 ^ 32) causeProt)

/-- HOST_LINK_ERROR. -/
def execHostLinkError (status : Word) (s : State) : Out :=
  .next { s with part := s.part.wakeEvent 0 10 0x300 status }

/-! ### Vexlink ports, R363, R366, R367 -/

def Part.onPort (p : Part) (i : Nat) (f : Port → Port) : Part :=
  p.onMgmt (fun m => { m with ports := modifyNth m.ports i f })

/-- FENCE_ACK: an acknowledgement toward a .SY release. -/
def execFenceAck (port core release : Nat) (s : State) : Out :=
  let waits (x : Release) : Bool := x.id == release && x.fences.contains port
  .next (if ((s.part.core? core).map (fun k => k.releases.any waits)).getD false then
      let take (x : Release) : Release := if waits x then { x with fences := x.fences.filter (· != port) } else x
      let p := s.part.onCore core (fun k => { k with releases := k.releases.map take })
      { s with part := p.onPort port (fun q => { q with fences := q.fences - 1, fails := 0 }) }
    else s)

/-- Failed replays of one flit after which a port trains again. -/
def replayLimit : Nat := 8

/-- FLIT_CRC_ERROR: the flit is replayed; after 8 failed replays the port retrains. -/
def Port.crcError (q : Port) (now : Nat) : Port :=
  if !q.up || q.training.isSome then q
  else if replayLimit ≤ q.fails then { q with training := some now, fails := 0 }
  else { q with fails := q.fails + 1, retry := min 127 (q.retry + 1) }

def execFlitCrcError (port : Nat) (s : State) : Out :=
  .next { s with part := s.part.onPort port (fun q => q.crcError s.part.now) }

/-- LINK_TRAINED: the port carries traffic, and reports what the far end is; the last one that bring-up waits for completes its step
5. -/
def execLinkTrained (port cls : Nat) (sw : Bool) (peer : Nat) (s : State) : Out :=
  let p := s.part.onPort port (fun q =>
    { q with up := true, cls := cls % 32, sw := sw, peer := if sw then 0 else peer % 4096, retry := 0, fails := 0, training := none })
  .next { s with part := p.onMgmt (fun m => m.linkStep s.part.now) }

/-- A port stays untrained for this long before it is down: 1 ms. -/
def trainLimit : Nat := cyclesPerMs

/-- Releases no longer wait for fences on a port. -/
def Core.dropFences (k : Core) (port : Nat) : Core :=
  { k with releases := k.releases.map (fun (x : Release) => { x with fences := x.fences.filter (· != port) }),
           portsDirty := k.portsDirty.filter (· != port) }

/-- A port that does not train in bring-up fails step 5 (R398); it leaves every route. -/
def Mgmt.linkFails (m : Mgmt) (port : Nat) : Mgmt :=
  let m := { m with ports := modifyNth m.ports port (fun q => { q with training := none }) }
  let m := if m.linking && m.routed port then (m.setBit 31 true).setStep 5 else m
  { m with routes := m.routes.filter (fun r => r.2 != port) }

/-- LINK_DOWN: the port leaves every route, and its unanswered requests fail. -/
def execLinkDown (port : Nat) (s : State) : Out :=
  let q := nth s.part.mgmt.ports port Port.reset
  let down := match q.training with
    | none => false
    | some t => decide (t + trainLimit ≤ s.part.now)
  .next (if !down then s
    else if !q.up then { s with part := s.part.onMgmt (fun m => m.linkFails port) }
    else
      let p := (s.part.onPort port (fun q => { q with up := false, fences := 0 })).onMgmt (fun m =>
        { m with routes := m.routes.filter (fun r => r.2 != port) })
      let p : Part := { p with cores := p.cores.map (fun (k : Core) => k.dropFences port) }
      let p := p.wakeEvent (port / 4) 4 (0x200 + port) (word port)
      let lost := p.mgmt.remotes.filter (fun r => r.port == some port && !r.answered)
      let fail (s : State) (r : Remote) : State :=
        match s.part.remote? r.id with
        | none => s
        | some r => if r.answered then s else s.failRequest r causeLinkDown port 0 causeEngTimeout
      lost.foldl fail { s with part := p })

end Sys2Proof.Machine
end

