-- ==== Sys2Proof/Machine/Dispatch.lean ====
section
/-! DEFINITION. One arm per instruction: a direct call of its meaning. -/

namespace Sys2Proof.Machine

def exec (i : Instr) (s : State) : Host.Outcome State Fault Refusal :=
  match i with
  | .nop f => Sys2Proof.Machine.execNop f s
  | .iadd f => Sys2Proof.Machine.execIadd f s
  | .iaddLong f x => Sys2Proof.Machine.execIaddLong f x s
  | .isub f => Sys2Proof.Machine.execIsub f s
  | .isubLong f x => Sys2Proof.Machine.execIsubLong f x s
  | .imul f => Sys2Proof.Machine.execImul f s
  | .imulLong f x => Sys2Proof.Machine.execImulLong f x s
  | .imad f x => Sys2Proof.Machine.execImad f x s
  | .imin f => Sys2Proof.Machine.execImin f s
  | .iminImaxLong f x => Sys2Proof.Machine.execIminImaxLong f x s
  | .iabs f => Sys2Proof.Machine.execIabs f s
  | .iabsLong f x => Sys2Proof.Machine.execIabsLong f x s
  | .and f => Sys2Proof.Machine.execAnd f s
  | .andLong f x => Sys2Proof.Machine.execAndLong f x s
  | .or f => Sys2Proof.Machine.execOr f s
  | .orLong f x => Sys2Proof.Machine.execOrLong f x s
  | .xor f => Sys2Proof.Machine.execXor f s
  | .xorLong f x => Sys2Proof.Machine.execXorLong f x s
  | .andn f => Sys2Proof.Machine.execAndn f s
  | .andnLong f x => Sys2Proof.Machine.execAndnLong f x s
  | .shl f => Sys2Proof.Machine.execShl f s
  | .shlLong f x => Sys2Proof.Machine.execShlLong f x s
  | .shr f => Sys2Proof.Machine.execShr f s
  | .shrLong f x => Sys2Proof.Machine.execShrLong f x s
  | .shf f x => Sys2Proof.Machine.execShf f x s
  | .popc f => Sys2Proof.Machine.execPopc f s
  | .popcLong f x => Sys2Proof.Machine.execPopcLong f x s
  | .clz f => Sys2Proof.Machine.execClz f s
  | .clzLong f x => Sys2Proof.Machine.execClzLong f x s
  | .brev f => Sys2Proof.Machine.execBrev f s
  | .brevLong f x => Sys2Proof.Machine.execBrevLong f x s
  | .bfx f x => Sys2Proof.Machine.execBfx f x s
  | .bfi f x => Sys2Proof.Machine.execBfi f x s
  | .iset f x => Sys2Proof.Machine.execIset f x s
  | .sel f x => Sys2Proof.Machine.execSel f x s
  | .plop f x => Sys2Proof.Machine.execPlop f x s
  | .mov f => Sys2Proof.Machine.execMov f s
  | .movLong f x => Sys2Proof.Machine.execMovLong f x s
  | .movi f imm => Sys2Proof.Machine.execMovi f imm s
  | .iaddi f imm => Sys2Proof.Machine.execIaddi f imm s
  | .fadd f => Sys2Proof.Machine.execFadd f s
  | .faddLong f x => Sys2Proof.Machine.execFaddLong f x s
  | .fmul f => Sys2Proof.Machine.execFmul f s
  | .fmulLong f x => Sys2Proof.Machine.execFmulLong f x s
  | .ffma f x => Sys2Proof.Machine.execFfma f x s
  | .fmin f => Sys2Proof.Machine.execFmin f s
  | .fminFmaxLong f x => Sys2Proof.Machine.execFminFmaxLong f x s
  | .fset f x => Sys2Proof.Machine.execFset f x s
  | .frcp f => Sys2Proof.Machine.execFrcp f s
  | .frcpLong f x => Sys2Proof.Machine.execFrcpLong f x s
  | .frsq f => Sys2Proof.Machine.execFrsq f s
  | .frsqLong f x => Sys2Proof.Machine.execFrsqLong f x s
  | .fsqrt f => Sys2Proof.Machine.execFsqrt f s
  | .fsqrtLong f x => Sys2Proof.Machine.execFsqrtLong f x s
  | .fexp2 f => Sys2Proof.Machine.execFexp2 f s
  | .fexp2Long f x => Sys2Proof.Machine.execFexp2Long f x s
  | .flog2 f => Sys2Proof.Machine.execFlog2 f s
  | .flog2Long f x => Sys2Proof.Machine.execFlog2Long f x s
  | .fsin f => Sys2Proof.Machine.execFsin f s
  | .fsinLong f x => Sys2Proof.Machine.execFsinLong f x s
  | .fcos f => Sys2Proof.Machine.execFcos f s
  | .fcosLong f x => Sys2Proof.Machine.execFcosLong f x s
  | .ftanh f => Sys2Proof.Machine.execFtanh f s
  | .ftanhLong f x => Sys2Proof.Machine.execFtanhLong f x s
  | .cvt f x => Sys2Proof.Machine.execCvt f x s
  | .frnd f => Sys2Proof.Machine.execFrnd f s
  | .frndLong f x => Sys2Proof.Machine.execFrndLong f x s
  | .tagset f x => Sys2Proof.Machine.execTagset f x s
  | .tagget f => Sys2Proof.Machine.execTagget f s
  | .taggetLong f x => Sys2Proof.Machine.execTaggetLong f x s
  | .qblk f x => Sys2Proof.Machine.execQblk f x s
  | .fdot f x => Sys2Proof.Machine.execFdot f x s
  | .shfl f x => Sys2Proof.Machine.execShfl f x s
  | .vote f x => Sys2Proof.Machine.execVote f x s
  | .matchLanes f => Sys2Proof.Machine.execMatchLanes f s
  | .matchLanesLong f x => Sys2Proof.Machine.execMatchLanesLong f x s
  | .redux f x => Sys2Proof.Machine.execRedux f x s
  | .elect f => Sys2Proof.Machine.execElect f s
  | .electLong f x => Sys2Proof.Machine.execElectLong f x s
  | .s2v f => Sys2Proof.Machine.execS2v f s
  | .s2vLong f x => Sys2Proof.Machine.execS2vLong f x s
  | .conv f => Sys2Proof.Machine.execConv f s
  | .convLong f x => Sys2Proof.Machine.execConvLong f x s
  | .ld f x => Sys2Proof.Machine.execLd f x s
  | .st f x => Sys2Proof.Machine.execSt f x s
  | .lds f x => Sys2Proof.Machine.execLds f x s
  | .sts f x => Sys2Proof.Machine.execSts f x s
  | .atom f x => Sys2Proof.Machine.execAtom f x s
  | .atoms f x => Sys2Proof.Machine.execAtoms f x s
  | .red f x => Sys2Proof.Machine.execRed f x s
  | .stmc f x => Sys2Proof.Machine.execStmc f x s
  | .pref f x => Sys2Proof.Machine.execPref f x s
  | .discard f x => Sys2Proof.Machine.execDiscard f x s
  | .flush f x => Sys2Proof.Machine.execFlush f x s
  | .fence f x => Sys2Proof.Machine.execFence f x s
  | .lock f x => Sys2Proof.Machine.execLock f x s
  | .unlock f x => Sys2Proof.Machine.execUnlock f x s
  | .bra f => Sys2Proof.Machine.execBra f s
  | .braLong f imm => Sys2Proof.Machine.execBraLong f imm s
  | .brc f => Sys2Proof.Machine.execBrc f s
  | .brcLong f imm => Sys2Proof.Machine.execBrcLong f imm s
  | .brx f x => Sys2Proof.Machine.execBrx f x s
  | .call f imm => Sys2Proof.Machine.execCall f imm s
  | .ret f => Sys2Proof.Machine.execRet f s
  | .retLong f x => Sys2Proof.Machine.execRetLong f x s
  | .exit f => Sys2Proof.Machine.execExit f s
  | .exitLong f x => Sys2Proof.Machine.execExitLong f x s
  | .yield f => Sys2Proof.Machine.execYield f s
  | .yieldLong f x => Sys2Proof.Machine.execYieldLong f x s
  | .nsleep f x => Sys2Proof.Machine.execNsleep f x s
  | .bkpt f => Sys2Proof.Machine.execBkpt f s
  | .bkptLong f x => Sys2Proof.Machine.execBkptLong f x s
  | .trapl f x => Sys2Proof.Machine.execTrapl f x s
  | .illegalWord w => Sys2Proof.Machine.execIllegalWord w s
  | .snop f => Sys2Proof.Machine.execSnop f s
  | .sadd f => Sys2Proof.Machine.execSadd f s
  | .saddLong f x => Sys2Proof.Machine.execSaddLong f x s
  | .ssub f => Sys2Proof.Machine.execSsub f s
  | .ssubLong f x => Sys2Proof.Machine.execSsubLong f x s
  | .smul f => Sys2Proof.Machine.execSmul f s
  | .smulLong f x => Sys2Proof.Machine.execSmulLong f x s
  | .smad f x => Sys2Proof.Machine.execSmad f x s
  | .smin f => Sys2Proof.Machine.execSmin f s
  | .sminSmaxLong f x => Sys2Proof.Machine.execSminSmaxLong f x s
  | .sand f => Sys2Proof.Machine.execSand f s
  | .sandLong f x => Sys2Proof.Machine.execSandLong f x s
  | .sor f => Sys2Proof.Machine.execSor f s
  | .sorLong f x => Sys2Proof.Machine.execSorLong f x s
  | .sxor f => Sys2Proof.Machine.execSxor f s
  | .sxorLong f x => Sys2Proof.Machine.execSxorLong f x s
  | .sshl f => Sys2Proof.Machine.execSshl f s
  | .sshlLong f x => Sys2Proof.Machine.execSshlLong f x s
  | .sshr f => Sys2Proof.Machine.execSshr f s
  | .sshrLong f x => Sys2Proof.Machine.execSshrLong f x s
  | .sset f x => Sys2Proof.Machine.execSset f x s
  | .ssel f x => Sys2Proof.Machine.execSsel f x s
  | .smov f => Sys2Proof.Machine.execSmov f s
  | .smovLong f x => Sys2Proof.Machine.execSmovLong f x s
  | .smovi f imm => Sys2Proof.Machine.execSmovi f imm s
  | .saddi f imm => Sys2Proof.Machine.execSaddi f imm s
  | .s2s f => Sys2Proof.Machine.execS2s f s
  | .s2sLong f x => Sys2Proof.Machine.execS2sLong f x s
  | .v2s f x => Sys2Proof.Machine.execV2s f x s
  | .sbcast f x => Sys2Proof.Machine.execSbcast f x s
  | .sbra f => Sys2Proof.Machine.execSbra f s
  | .sbraLong f imm => Sys2Proof.Machine.execSbraLong f imm s
  | .sbrc f => Sys2Proof.Machine.execSbrc f s
  | .sbrcLong f imm => Sys2Proof.Machine.execSbrcLong f imm s
  | .bar f x => Sys2Proof.Machine.execBar f x s
  | .bufmk f x => Sys2Proof.Machine.execBufmk f x s
  | .bufset f x => Sys2Proof.Machine.execBufset f x s
  | .layout f x => Sys2Proof.Machine.execLayout f x s
  | .mma f x => Sys2Proof.Machine.execMma f x s
  | .tzero f x => Sys2Proof.Machine.execTzero f x s
  | .tld f x => Sys2Proof.Machine.execTld f x s
  | .tst f x => Sys2Proof.Machine.execTst f x s
  | .tred f x => Sys2Proof.Machine.execTred f x s
  | .tscal f x => Sys2Proof.Machine.execTscal f x s
  | .topk f x => Sys2Proof.Machine.execTopk f x s
  | .tmov f x => Sys2Proof.Machine.execTmov f x s
  | .cpy f x => Sys2Proof.Machine.execCpy f x s
  | .cpyo f x => Sys2Proof.Machine.execCpyo f x s
  | .cpym f x => Sys2Proof.Machine.execCpym f x s
  | .cpyc f x => Sys2Proof.Machine.execCpyc f x s
  | .cpyr f x => Sys2Proof.Machine.execCpyr f x s
  | .tlwait f x => Sys2Proof.Machine.execTlwait f x s
  | .tlget f x => Sys2Proof.Machine.execTlget f x s
  | .femark f x => Sys2Proof.Machine.execFemark f x s
  | .fefill f x => Sys2Proof.Machine.execFefill f x s
  | .tbinit f x => Sys2Proof.Machine.execTbinit f x s
  | .tbexp f x => Sys2Proof.Machine.execTbexp f x s
  | .tbarv f x => Sys2Proof.Machine.execTbarv f x s
  | .tbwait f x => Sys2Proof.Machine.execTbwait f x s
  | .catchOp f => Sys2Proof.Machine.execCatchOp f s
  | .catchOpLong f x => Sys2Proof.Machine.execCatchOpLong f x s
  | .send f x => Sys2Proof.Machine.execSend f x s
  | .recvp f x => Sys2Proof.Machine.execRecvp f x s
  | .mprobe f x => Sys2Proof.Machine.execMprobe f x s
  | .lrec f x => Sys2Proof.Machine.execLrec f x s
  | .launch f x => Sys2Proof.Machine.execLaunch f x s
  | .cwait f x => Sys2Proof.Machine.execCwait f x s
  | .cget f x => Sys2Proof.Machine.execCget f x s
  | .cancel f x => Sys2Proof.Machine.execCancel f x s
  | .trap f x => Sys2Proof.Machine.execTrap f x s
  | .rte f => Sys2Proof.Machine.execRte f s
  | .csrr f x => Sys2Proof.Machine.execCsrr f x s
  | .csrw f x => Sys2Proof.Machine.execCsrw f x s
  | .fmtset f x => Sys2Proof.Machine.execFmtset f x s
  | .fmtget f x => Sys2Proof.Machine.execFmtget f x s
  | .cpdset f x => Sys2Proof.Machine.execCpdset f x s
  | .wpset f x => Sys2Proof.Machine.execWpset f x s
  | .wpctl f x => Sys2Proof.Machine.execWpctl f x s
  | .hread f x => Sys2Proof.Machine.execHread f x s
  | .hwrite f x => Sys2Proof.Machine.execHwrite f x s
  | .hstep f x => Sys2Proof.Machine.execHstep f x s
  | .hres f x => Sys2Proof.Machine.execHres f x s
  | .dumpq f => Sys2Proof.Machine.execDumpq f s
  | .dumpqLong f x => Sys2Proof.Machine.execDumpqLong f x s
  | .resultCommit w entry => Sys2Proof.Machine.execResultCommit w entry s
  | .gapElapsed w => Sys2Proof.Machine.execGapElapsed w s
  | .passOverLimit w => Sys2Proof.Machine.execPassOverLimit w s
  | .sleepExpiry w lane => Sys2Proof.Machine.execSleepExpiry w lane s
  | .emptyTimeout w => Sys2Proof.Machine.execEmptyTimeout w s
  | .barwaitExpiry w => Sys2Proof.Machine.execBarwaitExpiry w s
  | .promotion w => Sys2Proof.Machine.execPromotion w s
  | .quantumExpiry w => Sys2Proof.Machine.execQuantumExpiry w s
  | .sprinterRetire w => Sys2Proof.Machine.execSprinterRetire w s
  | .trapDelivery w => Sys2Proof.Machine.execTrapDelivery w s
  | .faultAnswer fanwr => Sys2Proof.Machine.execFaultAnswer fanwr s
  | .faultTimeout faultId => Sys2Proof.Machine.execFaultTimeout faultId s
  | .lockRequestArrival w => Sys2Proof.Machine.execLockRequestArrival w s
  | .lockGrant die entry => Sys2Proof.Machine.execLockGrant die entry s
  | .copyBack core packet => Sys2Proof.Machine.execCopyBack core packet s
  | .releaseComplete core release => Sys2Proof.Machine.execReleaseComplete core release s
  | .remoteWriteApply die item => Sys2Proof.Machine.execRemoteWriteApply die item s
  | .clockNotice die item => Sys2Proof.Machine.execClockNotice die item s
  | .replicaFill die line => Sys2Proof.Machine.execReplicaFill die line s
  | .l1SectorFill core line sector => Sys2Proof.Machine.execL1SectorFill core line sector s
  | .atomicAtHome core request => Sys2Proof.Machine.execAtomicAtHome core request s
  | .tbUpdate request => Sys2Proof.Machine.execTbUpdate request s
  | .discardAtSlice core request => Sys2Proof.Machine.execDiscardAtSlice core request s
  | .flushComplete core walker => Sys2Proof.Machine.execFlushComplete core walker s
  | .commandDispatch w => Sys2Proof.Machine.execCommandDispatch w s
  | .copyLanding command request => Sys2Proof.Machine.execCopyLanding command request s
  | .copyComplete command => Sys2Proof.Machine.execCopyComplete command s
  | .tileCommandStart core => Sys2Proof.Machine.execTileCommandStart core s
  | .tileCommandComplete core => Sys2Proof.Machine.execTileCommandComplete core s
  | .engineRequestTimeout command request => Sys2Proof.Machine.execEngineRequestTimeout command request s
  | .xtNumberRequest w => Sys2Proof.Machine.execXtNumberRequest w s
  | .messageArrival message => Sys2Proof.Machine.execMessageArrival message s
  | .cpyrReduction command element => Sys2Proof.Machine.execCpyrReduction command element s
  | .catchRelease launch => Sys2Proof.Machine.execCatchRelease launch s
  | .workgroupComplete core slot => Sys2Proof.Machine.execWorkgroupComplete core slot s
  | .launchComplete launch => Sys2Proof.Machine.execLaunchComplete launch s
  | .pendingLaunchDrain core slot => Sys2Proof.Machine.execPendingLaunchDrain core slot s
  | .swapOut core slot => Sys2Proof.Machine.execSwapOut core slot s
  | .forcedReset core slot => Sys2Proof.Machine.execForcedReset core slot s
  | .liveDump core slot => Sys2Proof.Machine.execLiveDump core slot s
  | .dumpTimeout core slot => Sys2Proof.Machine.execDumpTimeout core slot s
  | .sampleTimerExpiry core => Sys2Proof.Machine.execSampleTimerExpiry core s
  | .sliceWatchReport report => Sys2Proof.Machine.execSliceWatchReport report s
  | .tailWrite queue tail => Sys2Proof.Machine.execTailWrite queue tail s
  | .qtbaseWrite pa => Sys2Proof.Machine.execQtbaseWrite pa s
  | .qopen queue => Sys2Proof.Machine.execQopen queue s
  | .qclose queue => Sys2Proof.Machine.execQclose queue s
  | .jopen job tbase => Sys2Proof.Machine.execJopen job tbase s
  | .jclose job => Sys2Proof.Machine.execJclose job s
  | .jcancel job => Sys2Proof.Machine.execJcancel job s
  | .ppolset mask value => Sys2Proof.Machine.execPpolset mask value s
  | .dportAdmit launch => Sys2Proof.Machine.execDportAdmit launch s
  | .dportDeny launch => Sys2Proof.Machine.execDportDeny launch s
  | .dportPlace launch places => Sys2Proof.Machine.execDportPlace launch places s
  | .dportDrain cause victims => Sys2Proof.Machine.execDportDrain cause victims s
  | .dportResume image core => Sys2Proof.Machine.execDportResume image core s
  | .dportCancel job level id => Sys2Proof.Machine.execDportCancel job level id s
  | .dportWgdone launch number => Sys2Proof.Machine.execDportWgdone launch number s
  | .dportLeveldone job level id => Sys2Proof.Machine.execDportLeveldone job level id s
  | .dbgen job enable => Sys2Proof.Machine.execDbgen job enable s
  | .halt job core slot => Sys2Proof.Machine.execHalt job core slot s
  | .resume job core slot => Sys2Proof.Machine.execResume job core slot s
  | .step job w lane => Sys2Proof.Machine.execStep job w lane s
  | .read job w lane item => Sys2Proof.Machine.execRead job w lane item s
  | .write job w lane item value => Sys2Proof.Machine.execWrite job w lane item value s
  | .ucload => Sys2Proof.Machine.execUcload s
  | .tctx => Sys2Proof.Machine.execTctx s
  | .inval => Sys2Proof.Machine.execInval s
  | .invalidateComplete => Sys2Proof.Machine.execInvalidateComplete s
  | .keyset => Sys2Proof.Machine.execKeyset s
  | .keyclr => Sys2Proof.Machine.execKeyclr s
  | .fwdset => Sys2Proof.Machine.execFwdset s
  | .expset => Sys2Proof.Machine.execExpset s
  | .route => Sys2Proof.Machine.execRoute s
  | .devid => Sys2Proof.Machine.execDevid s
  | .stream => Sys2Proof.Machine.execStream s
  | .vlogrd => Sys2Proof.Machine.execVlogrd s
  | .fwupd => Sys2Proof.Machine.execFwupd s
  | .wreset => Sys2Proof.Machine.execWreset s
  | .service => Sys2Proof.Machine.execService s
  | .drain => Sys2Proof.Machine.execDrain s
  | .spdm => Sys2Proof.Machine.execSpdm s
  | .hostIrq value => Sys2Proof.Machine.execHostIrq value s
  | .wrfreeze die value => Sys2Proof.Machine.execWrfreeze die value s
  | .registerWrite address value => Sys2Proof.Machine.execRegisterWrite address value s
  | .hostWrite pa bytes => Sys2Proof.Machine.execHostWrite pa bytes s
  | .hostRead pa count => Sys2Proof.Machine.execHostRead pa count s
  | .hostAtomic pa width op operand => Sys2Proof.Machine.execHostAtomic pa width op operand s
  | .hostCompletion request status bytes => Sys2Proof.Machine.execHostCompletion request status bytes s
  | .hostCompletionTimeout request => Sys2Proof.Machine.execHostCompletionTimeout request s
  | .peerRequest port peer pa kind op bytes => Sys2Proof.Machine.execPeerRequest port peer pa kind op bytes s
  | .releaseFence port => Sys2Proof.Machine.execReleaseFence port s
  | .fenceAck port core release => Sys2Proof.Machine.execFenceAck port core release s
  | .flitCrcError port => Sys2Proof.Machine.execFlitCrcError port s
  | .linkTrained port cls sw peer => Sys2Proof.Machine.execLinkTrained port cls sw peer s
  | .linkDown port => Sys2Proof.Machine.execLinkDown port s
  | .eccCorrected die => Sys2Proof.Machine.execEccCorrected die s
  | .uncorrectableError kind place slots => Sys2Proof.Machine.execUncorrectableError kind place slots s
  | .powerAlarm die => Sys2Proof.Machine.execPowerAlarm die s
  | .powerAlarmClear die => Sys2Proof.Machine.execPowerAlarmClear die s
  | .thermalLimit die degrees => Sys2Proof.Machine.execThermalLimit die degrees s
  | .thermalShutdown die => Sys2Proof.Machine.execThermalShutdown die s
  | .clusterPowerGate cluster => Sys2Proof.Machine.execClusterPowerGate cluster s
  | .traceDrainTimeout cluster => Sys2Proof.Machine.execTraceDrainTimeout cluster s
  | .coldReset => Sys2Proof.Machine.execColdReset s
  | .errorResponse request => Sys2Proof.Machine.execErrorResponse request s
  | .traceBufferDrain cluster => Sys2Proof.Machine.execTraceBufferDrain cluster s
  | .clusterPowerUp cluster => Sys2Proof.Machine.execClusterPowerUp cluster s
  | .hostLinkError status => Sys2Proof.Machine.execHostLinkError status s
  | .replicaDrop die line => Sys2Proof.Machine.execReplicaDrop die line s

end Sys2Proof.Machine
end

