-- ==== Sys2Proof/Machine/Fetch.lean ====
section
/-! DEFINITION. Fetching and decoding the next instruction of a warp (R40 to R42, R55, R350), the issue of a warp's
turn, and a step of a halted thread (R247). -/

namespace Sys2Proof.Machine

/-! ### Fetch -/

/-- What fetching at a PC gives: an instruction, or a precise trap. -/
inductive Fetched where
  | instr (i : Instr)
  | trap (t : TrapInfo)
  deriving DecidableEq, Repr

/-- Base and extension words as the record of a trap that fetching leads to. -/
def decodeTrapOf (e : DecodeError) (w x : Word) : TrapInfo :=
  { cause := match e with
      | .illField => causeIllField
      | .illAlign => causeIllAlign,
    info0 := w.toNat, info1 := x.toNat }

/-- Fetch and decode the instruction of a job at a PC. The extension word is fetched only where one is needed; its
fault keeps the PC of the base word (R42). -/
def State.fetch (s : State) (job pc : Nat) : Fetched :=
  match s.fetchWord job pc with
  | none => .trap { cause := causeCodeFault, addr := pc }
  | some w =>
    let more (x : Word) : Fetched :=
      match decodeWords w x with
      | .ok i => .instr i
      | .error e => .trap (decodeTrapOf e w x)
    if needsExt w then
      match s.fetchWord job (pc + 4) with
      | none => .trap { cause := causeCodeFault, addr := pc + 4 }
      | some x => more x
    else more 0

/-- Run what a fetch gave. -/
def State.runFetched (s : State) : Fetched → Out
  | .instr i => exec i s
  | .trap t => fetchTrap t s

/-! ### The turn of a warp -/

/-- The warp has a trap waiting that is delivered before its next issue, R276. -/
def Warp.trapDue (w : Warp) : Bool := w.canTakeTrap && !w.tqueue.isEmpty

/-- The pipe of what a fetch gave: uniform, or lane. -/
def Fetched.uniform (x : Fetched) : Bool :=
  match x with
  | .trap _ => false
  | .instr i => match partsOf i with
    | none => false
    | some q => opUniform q.op

/-- Nothing has issued on the pipe in this cycle, R335. -/
def Part.pipeFree (p : Part) (core : Nat) (x : Fetched) : Bool :=
  let k := (p.core? core).getD Core.reset
  (if x.uniform then k.pipes.2 else k.pipes.1) == 0

/-- A warp that may issue now, with its pipe. -/
structure Ready where
  w : WarpRef
  warp : Warp
  uniform : Bool

/-- Warps of a core that may issue now and meet a condition. -/
def State.readyWhere (s : State) (core : Nat) (f : WarpRef → Warp → Bool) : List Ready :=
  match s.part.core? core with
  | none => []
  | some k =>
    k.residents.flatMap (fun q =>
      if q.2.dead.isSome || q.2.swapping.isSome then []
      else q.2.warps.zipIdx.filterMap (fun w =>
        if !f ⟨core, q.1, w.2⟩ w.1 || !q.2.mayIssue w.1 s.part.now then none
        else w.1.nextPc.map (fun pc => ⟨⟨core, q.1, w.2⟩, w.1, (s.fetch q.2.job pc).uniform⟩)))

/-- Warps of a core that may issue now. -/
def State.readyWarps (s : State) (core : Nat) : List Ready := s.readyWhere core (fun _ _ => true)

/-- Instructions that have issued in this cycle on a core. -/
def State.issuedOn (s : State) (core : Nat) : Nat := ((s.part.core? core).map (fun k => k.went.length)).getD 0

/-- Why the instruction of a warp that may issue would be held at issue, R335; none where it would issue. -/
def State.holdFor (s : State) (r : WarpRef) : Option Nat :=
  let s := { s with part := { s.part.onWarp r (fun w => { w with holdWhy := none }) with focus := r } }
  match s.part.wg? r.core r.slot, (s.part.warp? r).bind (·.nextPc) with
  | some g, some pc =>
    match s.runFetched (s.fetch g.job pc) with
    | .next t => if t.issuedOn r.core = s.issuedOn r.core then (t.part.warp? r).bind (·.holdWhy) else none
    | _ => none
  | _, _ => none

/-- Herd warps that are eligible for a pipe, R335, and meet a condition. -/
def State.herdFor (s : State) (core : Nat) (uniform : Bool) (f : WarpRef → Warp → Bool) : List Ready :=
  ((s.readyWhere core (fun q x => x.sprint.isNone && f q x)).filter (fun q => q.uniform == uniform)).filter (fun q => (s.holdFor q.w).isNone)

/-- Another herd warp is to have the pipe before a warp with a pending Y, R51. -/
def State.yields (s : State) (r : WarpRef) (w : Warp) (uniform : Bool) : Bool :=
  w.yPend && !(s.herdFor r.core uniform (fun q x => q != r && !x.yPend)).isEmpty

/-- The herd warps that the pick of another for a pipe passes over have given way, R51. -/
def State.gaveWay (s : State) (r : WarpRef) (uniform : Bool) (t : State) : State :=
  if t.issuedOn r.core = s.issuedOn r.core then t
  else
    let late := s.herdFor r.core uniform (fun q x => q != r && x.yPend)
    { t with part := late.foldl (fun p q => p.onWarp q.w (fun w => { w with yPend := false })) t.part }

/-- The state after a turn changed further. -/
def Out.andThen (f : State → State) : Out → Out
  | .next t => .next (f t)
  | .fault x => .fault x
  | .refused x => .refused x

/-- A warp in its skid stops before its next instruction, R279: with a trap queued, or where the part stops it sooner than
it must (a free value, log entry 8). -/
def State.skidEnds (s : State) (w : Warp) : Bool :=
  !w.tqueue.isEmpty || Config.freeBit (freeAt s.part.oracle (2 ^ 37))

/-- Threads of a warp that wait or sleep. -/
def Warp.waiting (w : Warp) : Nat :=
  w.threads.countP (fun t => match t.st with
    | .live .ready => false
    | .live _ => true
    | _ => false)

/-- The instruction that a warp has issued is in the sprinter's window: it is counted as it retires (R279). -/
def Warp.entered (old w : Warp) : Bool := w.window.any (fun e => e.id == old.seq)

/-- A warp in its skid after its turn, from what it was: an instruction that has issued or parked is counted; the warp stops
after three, or when no thread of it could issue (R279). -/
def Warp.skidded (old w : Warp) : Warp :=
  match w.skid with
  | none => w
  | some k =>
    let n := k.issued + (if (w.seq != old.seq && !old.entered w) || decide (old.waiting < w.waiting) then 1 else 0)
    if w.nextPc.isNone || decide (skidLimit ≤ n) then w.stopSkid k.by_ n else { w with skid := some { k with issued := n } }

/-- The state after the turn of a warp in its skid. -/
def skidTurn (r : WarpRef) (w : Warp) (t : State) : State :=
  { t with part := (t.part.onWarp r (fun x => w.skidded x)).tellSkid r }

/-- A warp issues what a fetch gave: where its pipe is free and it does not have to give way. -/
def State.issueTurn (s : State) (r : WarpRef) (w : Warp) (x : Fetched) : Out :=
  if !s.part.pipeFree r.core x || s.yields r w x.uniform then .next s
  else (s.runFetched x).andThen (fun t => if w.sprint.isSome then t else s.gaveWay r x.uniform t)

/-- The turn of a warp: a queued trap is delivered, or the instruction at the next PC issues; but a warp of the workgroup that has
waited too long on empty lines traps first, so that of two traps of a cycle the lower-numbered warp's comes first (R279), and a warp
that holds a lock is promoted before it issues (R414). A warp that is to halt issues in its skid. -/
def State.turn (s : State) (r : WarpRef) : Out :=
  let s := { s with part := { s.part with focus := r } }
  match s.part.wg? r.core r.slot with
  | none => .next s
  | some g =>
    match g.warps[r.warp]? with
    | none => .next s
    | some w =>
      if g.dead.isSome || g.swapping.isSome then .next s
      else if w.trapDue then exec (.trapDelivery r) s
      else if !g.mayIssue w s.part.now then .next s
      else if g.timedOut.isSome then exec (.emptyTimeout r) s
      else if s.part.holderDue r then exec (.promotion r) s
      else
        match w.nextPc with
        | none => .next s
        | some pc =>
          let x := s.fetch g.job pc
          match w.skid with
          | none => s.issueTurn r w x
          | some k =>
            if s.skidEnds w then
              let p := (s.part.onWarp r (fun w => w.stopSkid k.by_ k.issued)).tellSkid r
              .next { s with part := { p with oracle := s.part.oracle + 1 } }
            else if s.part.pipeFree r.core x then (s.issueTurn r w x).andThen (skidTurn r w) else .next s

/-! ### A step of one halted thread, R247 -/

/-- The state under a halt after a step: an instruction has run, so a wait is over; a sleep runs on. -/
def Thread.stepHalt (old : Thread) (t : Thread) : Thread :=
  let by_ : List HaltBy := match old.st with
    | .halted _ bs => bs
    | _ => [.request]
  let under : Live := match old.st with
    | .halted (.asleep z) _ => .asleep z
    | _ => .ready
  match t.st with
  | .live .ready => { t with st := .halted under by_ }
  | .live l => { t with st := .halted l by_ }
  | _ => t

/-- The instruction with its K bit set. -/
def withK (i : Instr) : Instr :=
  match partsOf i with
  | none => i
  | some q =>
    let f : Base := { q.base with k := true }
    match q.form with
    | .short => (mkShort q.op f).getD i
    | .long x => (mkLong q.op f x).getD i
    | .imm v => (mkImm q.op f v).getD i

/-- The warp in which the stepped thread alone can issue, on the rules of the herd. -/
def Warp.forStep (w : Warp) (lane : Nat) : Warp :=
  { w with
    threads := w.threads.zipIdx.map (fun q =>
      if q.2 = lane then { q.1 with st := .live .ready, oneShot := true }
      else if q.1.isReady then { q.1 with st := .halted .ready [.request] } else q.1),
    sprint := none, kPark := false, gapEnd := 0 }

/-- The other threads of the warp as they were, the stepped thread halted again. -/
def Warp.afterStep (old w : Warp) (lane : Nat) : Warp :=
  { w with
    threads := w.threads.zipIdx.map (fun q =>
      match old.threads[q.2]? with
      | none => q.1
      | some o =>
        if q.2 = lane then Thread.stepHalt o q.1
        else if o.isReady && q.1.st == .halted .ready [.request] then { q.1 with st := .live .ready } else q.1),
    sprint := old.sprint }

/-- The answer of a step to the warp or the debug channel that asked for it. -/
def Part.answerStep (p : Part) (q : StepReq) (pc : Nat) (ok : Bool) : Part :=
  let p := { p with stepReq := none }
  match q.issuer with
  | none => (p.onWarp q.w (fun w => { w with haltCause := causeStep })).debugEvent q.w (2 ^ q.lane) 5 ok.toNat pc
  | some r => p.onWarp r (fun w => { w with answer := w.answer.map (fun x => (x.1, some ok.toNat)) })

/-- The thread would park: it waits, or sleeps, at the end of its instruction. -/
def Thread.wouldPark (t : Thread) : Bool :=
  match t.st with
  | .live (.parked _) => true
  | .live (.asleep _) => true
  | _ => false

/-- The lock of this part that a warp has just asked for is free, and nobody else asks for it: the condition of a plain LOCK is
met (R247). -/
def Part.lockFree (p : Part) (r : WarpRef) : Bool :=
  match (p.warp? r).bind (·.lockWait) with
  | none => false
  | some q => q.answer.isNone && isDevice q.ref.loc && p.dies.all (fun d =>
      !d.locks.any (fun e => e.addr == q.ref.loc) && !d.lockSends.any (fun x => x.addr == q.ref.loc && x.w != r))

/-- Step the thread of a request: its instruction issues alone with K; an instruction that would park has no effect, but a LOCK
whose lock is free waits for its grant; one that is held at issue tries again; a trap of it is queued. -/
def State.stepThread (s : State) (q : StepReq) : Out :=
  match s.part.wg? q.w.core q.w.slot, s.part.warp? q.w with
  | some g, some w =>
    match w.lane? q.lane with
    | none => .next { s with part := s.part.answerStep q 0 false }
    | some t =>
      if !t.isHalted then .next { s with part := s.part.answerStep q t.pc false }
      else
        let p := s.part.onWarp q.w (fun w => w.forStep q.lane)
        let s1 : State := { s with part := { p with focus := q.w, stepReq := some { q with live := true } } }
        let run : Out := match s1.fetch g.job t.pc with
          | .instr i => exec (withK i) s1
          | .trap x => fetchTrap x s1
        match run with
        | .next s2 =>
          match s2.part.warp? q.w with
          | none => .next { s2 with part := s2.part.answerStep q t.pc false }
          | some w2 =>
            let t2 := (w2.lane? q.lane).getD t
            let back := s2.part.onWarp q.w (fun w2 => w.afterStep w2 q.lane)
            let wait (p : Part) : Part := { p with stepReq := some { q with live := false, begun := true } }
            if t2.wouldPark then
              (if t2.st != .live (.parked .lock) then .next { s with part := s.part.answerStep q t.pc false }
                else if q.begun && w.lockWait.any (fun x => x.pc == t.pc) then
                  .next { s with part := wait (s.part.onWarp q.w (fun w => { w with gapEnd := max w.gapEnd (s.part.now + 1) })) }
                else if s2.part.lockFree q.w then .next { s2 with part := wait back }
                else .next { s with part := s.part.answerStep q t.pc false })
            else
              if w2.seq != w.seq then .next { s2 with part := back.answerStep q t2.pc true }
              else if w2.tqueue.length != w.tqueue.length || w2.tlost != w.tlost then
                .next { s2 with part := back.answerStep q t.pc false }
              else .next { s2 with part := wait back }
        | .fault r => .fault r
        | .refused r => .refused r
  | _, _ => .next { s with part := s.part.answerStep q 0 false }

/-- A requested step may run now. -/
def State.stepReady (s : State) : Option StepReq :=
  match s.part.stepReq with
  | none => none
  | some q =>
    match s.part.warp? q.w with
    | none => some q
    | some w => if s.part.now < w.gapEnd then none else some q

end Sys2Proof.Machine
end

