-- ==== Sys2Proof/Machine/Policy.lean ====
section
/-! DEFINITION. The order in which the cox serves pending work, the cores it chooses, and the drains it starts (R324 to
R326, R328): the decisions that the default turn takes at the decision port, which checks them for itself. -/

namespace Sys2Proof.Machine

/-! ### Cores, R326 -/

/-- A place for one more workgroup of a launch. -/
structure Choice where
  core : Nat
  partition : Word

/-- Warps resident on a core. -/
def Core.warpCount (k : Core) : Nat := (k.wgs.map (fun g => g.warps.length)).foldl (· + ·) 0

/-- The first of a list that is least. -/
def leastBy {α : Type} (f : α → Nat) : List α → Option α
  | [] => none
  | x :: xs =>
    match leastBy f xs with
    | none => some x
    | some y => if f y < f x then some y else some x

/-- The core that a workgroup goes to among some cores. -/
def Part.chooseCore (p : Part) (ws : List Word) (cores : List Nat) : Option Choice :=
  let ks := cores.filterMap (fun c => (p.core? c).map (fun k => (c, k)))
  let fits := ks.filter (fun q => q.2.part != 0 && (q.2.room (needOf ws)).isSome)
  match leastBy (fun (q : Nat × Core) => q.2.warpCount) fits with
  | some q => some ⟨q.1, q.2.part⟩
  | none =>
    let word_ := partitionFor ws
    let ok (q : Nat × Core) : Bool := q.2.isEmpty && ((q.2.setPartition word_).room (needOf ws)).isSome
    match (ks.find? (fun q => q.2.part == 0 && ok q)).orElse (fun _ => ks.find? ok) with
    | some q => some ⟨q.1, word_⟩
    | none => none

/-- Cores for the members of one cluster, all in one hardware cluster. -/
def Part.chooseMembers (p : Part) (ws : List Word) : Nat → List Nat → List Choice
  | 0, _ => []
  | n + 1, cores =>
    match p.chooseCore ws cores with
    | none => []
    | some x => x :: Part.chooseMembers p ws n (cores.filter (· != x.core))

/-- Places for the next workgroup of a launch, or for its next cluster. -/
def Part.choose (p : Part) (l : Launch) (number : Nat) (barred : List Nat) : List Placing :=
  let open_ (c : Nat) : Bool := !barred.contains c && !p.vacating l c
  let size := recCluster l.words
  if size < 2 then
    ((p.chooseCore l.words ((List.range 256).filter open_)).map (fun x => ⟨x.core, number, x.partition⟩)).toList
  else
    let sets := (List.range 32).map (fun h => p.chooseMembers l.words size ((List.range 8).map (fun i => 8 * h + i) |>.filter open_))
    match sets.find? (fun xs => xs.length == size) with
    | none => []
    | some xs => xs.zipIdx.map (fun x => ⟨x.1.core, number + x.2, x.1.partition⟩)

/-- Places for up to n further workgroups, chosen one after the other: as many as there is room for. -/
def Part.chooseAll (l : Launch) (barred : List Nat) : Nat → Part → Nat → List Placing
  | 0, _, _ => []
  | fuel + 1, p, number =>
    if l.total ≤ number then []
    else
      let xs := p.choose l number barred
      if xs.isEmpty then []
      else
        match p.placeAll l xs with
        | none => []
        | some (q, _) => xs ++ Part.chooseAll l barred fuel q (number + xs.length)

/-- Workgroups of a launch that are not placed yet. -/
def Launch.unplaced (l : Launch) : Nat := l.total - l.placed.length

/-- Places for all that is not placed yet; empty where there is no room for all. -/
def Part.chooseFull (p : Part) (l : Launch) (barred : List Nat) : List Placing :=
  let xs := Part.chooseAll l barred l.unplaced p l.placed.length
  if xs.length = l.unplaced then xs else []

/-! ### What waits, R324, R325 -/

/-- The first of the records of a queue that name a phase and whose phase has not completed since. -/
def Part.phaseStart (p : Part) (queue phase : Nat) : Nat :=
  (minList? ((p.cox.launches.filter (fun y => y.queue == queue && y.parent == 0 && recPhase y.words == phase && !y.past)).map (·.id))).getD 0

/-- A record of a queue waits for earlier records of its graph, and for the phases that the queue opened before its own, until
they are complete whoever launched into them. -/
def Part.orderedAfter (p : Part) (l : Launch) : Bool :=
  let phase := recPhase l.words
  let blocks (y : Launch) : Bool :=
    (recGraph l.words != 0 && recGraph y.words == recGraph l.words && decide (y.id < l.id) && !y.counter.complete) ||
      (phase != 0 && recPhase y.words != 0 && recPhase y.words != phase && !y.past &&
        decide (p.phaseStart l.queue (recPhase y.words) < p.phaseStart l.queue phase))
  l.parent == 0 && p.cox.launches.any (fun y => y.queue == l.queue && y.parent == 0 && blocks y)

/-- A concurrent launch. -/
def Launch.concurrent (l : Launch) : Bool := recClass l.words == 2

/-- The part with every core empty and as reset left it. -/
def Part.emptied (p : Part) : Part := { p with cores := List.replicate 256 Core.reset }

/-- The part without some resident workgroups, by launch and number. -/
def Part.without (p : Part) (out : List (Nat × Nat)) : Part :=
  let stay (g : Option Wg) : Option Wg := g.filter (fun g => !out.contains (g.launch, g.number))
  { p with cores := p.cores.map (fun k => { k with slots := k.slots.map stay }) }

/-- Victims of the drains for a launch that are still resident. -/
def Part.drainedFor (p : Part) (l : Launch) : List (Nat × Nat) :=
  (p.cox.drains.filter (fun d => d.cause == l.id || d.joined.contains l.id)).flatMap (·.victims)

/-- Concurrent launches that have passed their checks and wait for room, admitted or not. -/
def Part.waiting (p : Part) : List Launch :=
  p.cox.launches.filter (fun l => l.concurrent && p.recordGood l && ((l.undecided && !p.orderedAfter l) ||
    (l.admitted && !l.noMore && !l.counter.complete && decide (0 < l.unplaced))))

/-- Cores that waiting concurrent launches hold back from a launch of a priority. -/
def State.barredFrom (s : State) (l : Launch) : List Nat :=
  (s.part.waiting.filter (fun w => decide (w.id < l.id) && decide (s.prioOf l ≤ s.prioOf w))).flatMap (fun w =>
    ((s.part.without (s.part.drainedFor w)).chooseFull w []).map (·.core))

/-! ### Decisions at the port -/

/-- Launches by effective priority, highest first, older ones first within one priority. -/
def State.byPriority (s : State) (ls : List Launch) : List Launch :=
  (List.range 16).reverse.flatMap (fun n => ls.filter (fun l => s.prioOf l == n))

/-- Admissions and refusals that need no room. -/
def State.admission (s : State) : Option Out :=
  match s.part.cox.launches.find? (fun l => l.undecided && !s.part.recordGood l) with
  | some l => some (execDportDeny l.id s)
  | none =>
    match s.part.waiting.find? (fun l => l.undecided && (s.part.emptied.chooseFull l []).isEmpty) with
    | some l => some (execDportDeny l.id s)
    | none =>
      match s.part.cox.launches.find? (fun l => l.undecided && !l.concurrent && !s.part.orderedAfter l) with
      | some l => some (execDportAdmit l.id s)
      | none => none

/-- The swapped-out workgroup of highest priority that may resume, and its core. -/
def State.resumption (s : State) : Option Out :=
  let ready := s.part.cox.swapped.filter (fun x =>
    x.met && !s.part.cox.drains.any (fun d => d.victims.contains (x.launch, x.number)))
  let ranked := (List.range 16).reverse.flatMap (fun n => ready.filter (fun x =>
    ((s.part.launch? x.launch).map s.prioOf).getD 0 == n))
  let place (x : Swapped) : Option Nat :=
    let cores := (List.range 256).filter (fun c => (s.part.resumeRoom x c).isSome)
    let fits := cores.filter (fun c => (((s.part.core? c).bind (fun k => k.room x.kept.need)).isSome))
    (leastBy (fun c => ((s.part.core? c).map Core.warpCount).getD 0) fits).orElse (fun _ =>
      (cores.find? (fun c => ((s.part.core? c).map (·.part)) == some 0)).orElse (fun _ => cores.head?))
  ranked.findSome? (fun x => (place x).map (fun c => execDportResume x.image c s))

/-- What a launch would place next. -/
def State.nextPlaces (s : State) (l : Launch) : List Placing :=
  let barred := s.barredFrom l
  if l.concurrent then s.part.chooseFull l barred else s.part.choose l l.placed.length barred

/-- Launches that may place something now, of the highest priority among them. -/
def State.placeable (s : State) : List Launch :=
  let wants (l : Launch) : Bool :=
    (l.admitted && !l.noMore && !l.counter.complete && decide (0 < l.unplaced)) || s.part.waiting.any (fun w => w.id == l.id)
  let ls := (s.part.cox.launches.filter wants).filter (fun l => !(s.nextPlaces l).isEmpty)
  let top := (ls.map s.prioOf).foldl max 0
  ls.filter (fun l => s.prioOf l == top)

/-- Weight of a queue, R319. -/
def State.weightOf (s : State) (queue : Nat) : Nat := max 1 (s.qcb queue 0x24 4)

/-- Placements credited to a queue. -/
def Part.credit (p : Part) (queue : Nat) : Int := (lookupKey queue p.cox.credits).getD 0

/-- The queue that places next among some: the one being served while it has credit, else the next one, which is
credited. -/
def State.serve (s : State) (queues : List Nat) : Nat × State :=
  let x := s.part.cox
  let credit (q : Nat) : Int := s.part.credit q
  if queues.contains x.served && decide (0 < credit x.served) then (x.served, s)
  else
    let after := minList? (queues.filter (fun q => decide (x.served < q)))
    let q := (after.orElse (fun _ => minList? queues)).getD 0
    (q, { s with part := s.part.onCox (fun x => { x with served := q, credits := insertKey q (credit q + s.weightOf q) x.credits }) })

/-- What a launch of the queue that has its turn places: as much as there is room for, within the queue's credit where another queue
wants to place too. -/
def State.turnPlaces (s : State) (l : Launch) (alone : Bool) : List Placing :=
  let n := if alone then l.unplaced else min l.unplaced (s.part.credit l.queue).toNat
  if l.concurrent || decide (2 ≤ recCluster l.words) then s.nextPlaces l
  else Part.chooseAll l (s.barredFrom l) n s.part l.placed.length

/-- Spend placements of a queue's credit; a cluster or a concurrent launch may leave a debt. -/
def Part.spend (p : Part) (queue n : Nat) : Part :=
  p.onCox (fun x => { x with credits := insertKey queue (p.credit queue - n) x.credits })

/-- The next placement: a concurrent launch is admitted and placed whole. -/
def State.placement (s : State) : Option Out :=
  let ls := s.placeable
  if ls.isEmpty then none
  else
    let queues := (ls.map (·.queue)).eraseDups
    let (q, s) := s.serve queues
    match ls.find? (fun l => l.queue == q) with
    | none => none
    | some l =>
      if s.part.credit q ≤ 0 then some (.next s)  -- still in debt: the turn passes on
      else if !l.admitted then some (execDportAdmit l.id s)
      else
        let alone := decide (queues.length ≤ 1)
        let xs := s.turnPlaces l alone
        let cost := if alone then min xs.length (s.part.credit q).toNat else xs.length
        some (execDportPlace l.id xs { s with part := s.part.spend q cost })

/-! ### Drains, R328 -/

/-- Resident workgroups of strictly lower priority, lowest first, then the most recently placed. -/
def State.lower (s : State) (l : Launch) : List (Resident × Wg) :=
  let all := s.part.cores.zipIdx.flatMap (fun k => k.1.slots.zipIdx.filterMap (fun q => q.1.map (fun g =>
    ((⟨k.2, q.2⟩ : Resident), g))))
  let prio (g : Wg) : Nat := ((s.part.launch? g.launch).map s.prioOf).getD 0
  let can := all.filter (fun q => decide (prio q.2 < s.prioOf l) && q.2.dead.isNone && !q.2.complete)
  (List.range 16).flatMap (fun n =>
    let same := can.filter (fun q => prio q.2 == n)
    let order (g : Wg) : Nat := ((s.part.launch? g.launch).map (fun x => x.placed.idxOf g.number)).getD 0
    let key (q : Resident × Wg) : Nat := ((q.2.placed * 2 ^ 64 + order q.2) * 2 ^ 16 + q.1.core) * 2 ^ 8 + q.1.slot
    (same.foldl (fun t q => insertKey (key q) q t) []).reverse.map (·.2))

/-- Concurrent launches go whole. -/
def withMates (all : List (Resident × Wg)) (xs : List (Resident × Wg)) : List (Resident × Wg) :=
  all.filter (fun q => xs.any (fun x => x.1 == q.1 || (q.2.cls == 2 && x.2.launch == q.2.launch)))

/-- Just enough victims to place a launch in full: the shortest prefix that makes the room, without those whose going frees none of
it, the last of them first. -/
def State.victimsFor (s : State) (l : Launch) : List Resident :=
  let all := s.lower l
  let enough (xs : List (Resident × Wg)) : Bool :=
    !((s.part.without ((withMates all xs).map (fun q => (q.2.launch, q.2.number)))).chooseFull l (s.barredFrom l)).isEmpty
  match (List.range all.length).find? (fun n => enough (all.take (n + 1))) with
  | none => []
  | some n =>
    let xs := all.take (n + 1)
    let needed := xs.reverse.foldl (fun kept x =>
      let less := kept.filter (fun q => q.1 != x.1)
      if enough less then less else kept) xs
    (withMates all needed).map (·.1)

/-- A drain for the launch of highest priority that waits for room and for which none is under way. -/
def State.drainage (s : State) : Option Out :=
  let waits (l : Launch) : Bool :=
    ((l.admitted && !l.noMore && !l.counter.complete && decide (0 < l.unplaced)) || s.part.waiting.any (fun w => w.id == l.id))
      && !s.part.cox.drains.any (fun d => d.cause == l.id || d.joined.contains l.id)
  (s.byPriority (s.part.cox.launches.filter waits)).findSome? (fun l =>
    let vs := s.victimsFor l
    if vs.isEmpty then none else some (execDportDrain l.id vs s))

/-- The next command of the cox. -/
def State.decision (s : State) : Option Out :=
  if !s.part.cox.run then none
  else
    match s.part.cox.asked, s.part.cox.left, s.part.cox.levels.filter (fun x => x.counter.isSome || s.part.levelOver x) with
    | a :: _, _, _ =>
      let job := ((s.part.wg? a.1.core a.1.slot).map (·.job)).getD 0
      some (execDportCancel job a.2.1 a.2.2 s)
    | [], x :: _, _ => some (execDportWgdone x.launch x.number s)
    | [], [], x :: _ => some (execDportLeveldone x.job x.level x.id s)
    | [], [], [] =>
      match s.part.cox.queues.find? (fun q => q.en && s.homeNat q.tail 8 != q.head) with
      | some q => some (execTailWrite q.id (s.homeNat q.tail 8) s)
      | none =>
        s.admission.orElse (fun _ => s.resumption.orElse (fun _ => s.placement.orElse (fun _ => s.drainage)))

end Sys2Proof.Machine
end

