-- ==== Sys2Proof/Machine/Turns.lean ====
section
/-! DEFINITION. Whose turn it is when nothing is scheduled (log entry 2): what can come about within the part comes
about, then the cox decides, then the warps issue in the order of R335 and R336, and then a core cycle passes. -/

namespace Sys2Proof.Machine

/-! ### What can come about -/

/-- What may come about in a warp. -/
def Warp.turns (w : Warp) (now : Nat) (r : WarpRef) : List (State → Out) :=
  let ends (st : TState) : Bool := st.expire now != st
  (w.pend.filter (fun e => e.ready now w)).map (fun e => execResultCommit r e.id)
    ++ (if w.threads.any (fun t => ends t.st || (t.saved.map (fun q => ends q.2)).getD false)
        then (List.range 32).map (fun l => execSleepExpiry r l) else [])
    ++ (if emptyLimit ≤ w.emptyTimer then [execEmptyTimeout r] else [])
    ++ (if w.finished && !w.tqueue.isEmpty then [execTrapDelivery r] else [])
    ++ (if w.sprint.isSome then [execSprinterRetire r, execQuantumExpiry r] else if w.candidate.isSome then [execPromotion r] else [])

/-- What may come about in a core. -/
def Core.turns (k : Core) (now core : Nat) : List (State → Out) :=
  k.residents.flatMap (fun q => q.2.warps.zipIdx.flatMap (fun w => w.1.turns now ⟨core, q.1, w.2⟩))
    ++ k.packets.map (fun q => execCopyBack core q.id) ++ k.fills.map (fun f => execL1SectorFill core f.line f.sector)
    ++ k.fills.map (fun f => execReplicaFill (dieOf core) f.line) ++ k.atoms.map (fun a => execAtomicAtHome core a.id)
    ++ k.discards.map (fun d => execDiscardAtSlice core d.1) ++ k.walkers.map (fun w => execFlushComplete core w.id)
    ++ k.releases.map (fun x => execReleaseComplete core x.id) ++ k.numbering.map (fun q => execXtNumberRequest q.w)
    ++ (if k.running.isSome then [execTileCommandComplete core] else if k.arrayQueue.isEmpty then [] else [execTileCommandStart core])
    ++ (if k.sample.isSome then [execSampleTimerExpiry core] else [])
    ++ k.residents.flatMap (fun q =>
      (if q.2.pending.isEmpty then [] else [execPendingLaunchDrain core q.1])
        ++ (if q.2.dump.isSome then [execLiveDump core q.1, execDumpTimeout core q.1] else [])
        ++ (if q.2.deadline.isSome then [execForcedReset core q.1] else [])
        ++ (if q.2.dead.isSome || q.2.warps.all Warp.finished then [execWorkgroupComplete core q.1] else []))

/-- What may come about in a die. -/
def Die.turns (d : Die) (die : Nat) : List (State → Out) :=
  d.inbox.map (fun u => if u.notice then execClockNotice die u.id else execRemoteWriteApply die u.id)
    ++ d.lockSends.map (fun (q : LockSend) => execLockRequestArrival q.w)
    ++ (List.range d.locks.length).map (fun i => execLockGrant die i) ++ d.messages.map (fun m => execMessageArrival m.1)

/-- What may come about in a command of an engine: its requests, and the replays that are due, come about, and it completes. -/
def Command.turns (q : Command) : List (State → Out) :=
  let requests := List.range inFlight ++ (q.segments.zipIdx.filter (fun g => g.1.due)).map (fun g => inFlight + g.2)
  requests.map (fun i => if q.op == .cpyr then execCpyrReduction q.id i else execCopyLanding q.id i) ++ [execCopyComplete q.id]

/-- What may come about elsewhere in the part. -/
def Part.turns (p : Part) : List (State → Out) :=
  p.tbUpdates.map (fun u => execTbUpdate u.id) ++ p.reports.map (fun r => execSliceWatchReport r.id)
    ++ p.cox.launches.flatMap (fun l => if l.counter.complete then [] else [execCatchRelease l.id, execLaunchComplete l.id])
    ++ p.mgmt.faults.map (fun r => execFaultTimeout r.id)
    ++ p.mgmt.remotes.flatMap (fun r => execHostCompletionTimeout r.id :: r.command.toList.map (fun c => execEngineRequestTimeout c r.id))
    ++ (if p.mgmt.invals.isEmpty then [] else [execInvalidateComplete])
    ++ (p.clusters.zipIdx.filter (fun c => !c.1.buffer.isEmpty)).map (fun c => execTraceBufferDrain c.2)
    ++ (p.clusters.zipIdx.filter (fun c => c.1.gate.isSome)).map (fun c => execTraceDrainTimeout c.2)
    ++ (p.mgmt.ports.zipIdx.filter (fun q => q.1.training.isSome)).map (fun q => execLinkDown q.2)

/-- Swap-outs under way; what their workgroups have launched is decided on first (R410). -/
def Part.swapTurns (p : Part) : List (State → Out) :=
  p.cores.zipIdx.flatMap (fun k => (k.1.residents.filter (fun q => q.2.swapping.isSome)).map (fun q => execSwapOut k.2 q.1))

/-- Everything that may come about. -/
def Part.allTurns (p : Part) : List (State → Out) :=
  p.cores.zipIdx.flatMap (fun k => k.1.turns p.now k.2) ++ p.dies.zipIdx.flatMap (fun d => d.1.turns d.2)
    ++ p.commands.flatMap Command.turns ++ p.turns

/-- The first of some turns that changes the state. -/
def State.firstChange (s : State) : List (State → Out) → Option Out
  | [] => none
  | f :: fs =>
    match f s with
    | .next t => if t = s then State.firstChange s fs else some (.next t)
    | .fault x => some (.fault x)
    | .refused x => some (.refused x)

/-! ### Issue, R335, R336 -/

/-- The one that issued least recently; among herd warps those with a pending Y come last. -/
def pickReady (rs : List Ready) : Option Ready :=
  let plain := rs.filter (fun r => !r.warp.yPend)
  leastBy (fun r => r.warp.lastIssue) (if plain.isEmpty then rs else plain)

/-- The warp that gets a pipe of a core: promoted ones come first, but the herd after three refusals. -/
def State.pickPipe (s : State) (core : Nat) (uniform : Bool) : Option WarpRef :=
  let k := (s.part.core? core).getD Core.reset
  if (if uniform then k.pipes.2 else k.pipes.1) != 0 then none
  else
    let rs := (s.readyWarps core).filter (fun r => r.uniform == uniform)
    let fast := rs.filter (fun r => r.warp.sprint.isSome)
    let herd := rs.filter (fun r => r.warp.sprint.isNone)
    let refused := if uniform then k.refused.2 else k.refused.1
    ((pickReady (if fast.isEmpty || (decide (3 ≤ refused) && !herd.isEmpty) then herd else fast)).map (·.w))

/-- A warp to which a queued trap is to be delivered. -/
def Part.dueTrap (p : Part) : Option WarpRef :=
  p.busyCores.findSome? (fun c => match p.core? c with
    | none => none
    | some k => k.residents.findSome? (fun q =>
        if q.2.dead.isSome || q.2.swapping.isSome then none
        else (q.2.warps.findIdx? Warp.trapDue).map (fun i => ⟨c, q.1, i⟩)))

/-- Of the warps that get the two pipes the one whose turn comes first: of one workgroup the lower-numbered, whose trap is to
be delivered first (R279). -/
def firstTurn (lane uniform : Option WarpRef) : Option WarpRef :=
  match lane, uniform with
  | some a, some b => if a.slot = b.slot ∧ b.warp < a.warp then some b else some a
  | some a, none => some a
  | none, b => b

/-- The next warp to issue in this cycle. -/
def State.pick (s : State) : Option WarpRef :=
  s.part.dueTrap.orElse (fun _ => s.part.busyCores.findSome? (fun c => firstTurn (s.pickPipe c false) (s.pickPipe c true)))

/-! ### The passing of a cycle -/

/-- Refusals of the herd on one pipe after a cycle: one more where a promoted warp had it while a herd warp was ready. -/
def refusals (old used : Nat) (herd : Bool) : Nat := if used = 1 || !herd then 0 else if used = 2 then old + 1 else old

/-- The refusals of a core at the end of a cycle. -/
def State.countRefusals (s : State) (core : Nat) (k : Core) : Core :=
  if k.pipes.1 != 2 && k.pipes.2 != 2 then { k with refused := (0, 0) }
  else
    let herd (uniform : Bool) : Bool := !(s.herdFor core uniform (fun _ _ => true)).isEmpty
    { k with refused := (refusals k.refused.1 k.pipes.1 (herd false), refusals k.refused.2 k.pipes.2 (herd true)) }

/-- Warps of a profiled core whose pipe went to another and whose instruction is held at issue in this cycle: none of them is able
to issue (R340). -/
def State.noteHolds (s : State) (p : Part) (core : Nat) : Part :=
  if !((s.part.core? core).map (·.pctl)).getD false then p
  else (s.readyWarps core).foldl (fun p r => match s.holdFor r.w with
    | none => p
    | some why => p.onWarp r.w (fun w => { w with gapEnd := max w.gapEnd (s.part.now + 1), holdWhy := some why })) p

/-- A core cycle passes. -/
def State.cycle (s : State) : State :=
  let p := s.part.busyCores.foldl (fun p c => s.noteHolds (p.onCore c (s.countRefusals c)) c) s.part
  { s with part := p.cycle }

/-- The turn taken when the schedule is empty. -/
def State.defaultTurn (s : State) : Out :=
  match s.firstChange s.part.allTurns with
  | some o => o
  | none =>
    match s.firstChange (s.decision.toList.map (fun o (_ : State) => o) ++ s.part.swapTurns) with
    | some o => o
    | none =>
      match s.pick with
      | some w => s.turn w
      | none => .next s.cycle

end Sys2Proof.Machine
end

