-- ==== Sys2Proof/Machine/Step.lean ====
section
/-! DEFINITION. One step of the part: the step of a halted thread that is asked for, then the head of the schedule, then
the default turn. -/

namespace Sys2Proof.Machine

/-- Take a turn. -/
def State.take (s : State) : Turn → Out
  | .issue w => s.turn w
  | .event i => exec i s
  | .tick => .next s.cycle
  | .tlb job va => .next (s.holdLeaf job va)
  | .evict die line => .next (s.evictLine die line)

/-- An outcome whose slices hold no more lines than they have room for (R308). -/
def keepWays (o : Out) : Out :=
  match o with
  | .next t => .next t.keepWays
  | .fault f => .fault f
  | .refused r => .refused r

/-- One step but for the lines that leave the slices: a stepped thread or a command of the debug channel that waits comes first. -/
def State.stepOn (s : State) : Out :=
  match s.stepReady with
  | some q => s.stepThread q
  | none =>
    match s.debugNext, s.part.sched with
    | some t, _ => .next t
    | none, t :: ts => { s with part := { s.part with sched := ts } : State }.take t
    | none, [] => s.defaultTurn

/-- One step. -/
def step (s : State) : Host.Outcome State Fault Refusal := keepWays s.stepOn

/-! ### A loaded program (log entry 16) -/

/-- Job, code address and handler of the program that is loaded. -/
def loadJob : Nat := 1
def loadVa : Nat := 0x100000000
def loadTbase : Nat := 0x100001000

/-- Tables that map the 2 MiB at loadVa to physical 0x200000 with every permission (R347, R348). -/
def loadTables : List (Nat × Nat) :=
  [(0x10000, 0x11001), (0x11000, 0x12001), (0x12020, 0x13001), (0x13000, 0x20003F)]

/-- Launch record of the loaded workgroup: one warp of 32 threads and 64 registers, 4 KiB of scratchpad, 16 tiles. -/
def loadRecord : List Word :=
  [0, 1, 1, 0x00010001, 0x00060101] ++ List.replicate 11 0

/-- Partition word of its core: rows for registers, scratchpad and accumulators. -/
def loadPartition : Word := 1 + 32 * 1 + 1024 * 14

/-- The launch of the loaded workgroup. -/
def loadLaunch : Launch :=
  { id := 1, words := loadRecord, queue := 1, job := loadJob, parent := 0, pusher := none, atCox := true, admitted := true, turn := 0, idle := false,
    placed := [0], noMore := false, done := 0, counter := Counter.zero, cores := [0], boundary := none, xt := Timeline.zero,
    anchor := some 0, superstep := 0, caughtWait := none, lastCore := noCore, lastWg := noWg, owed := 0 }

/-- The loaded workgroup. -/
def loadWg (now : Nat) : Wg := loadLaunch.startWg 0 0 now

/-- s with an instruction as the code of a workgroup whose turn it is: its bytes and page table in device memory, its job
and context, and the workgroup on core 0. -/
def State.withFetchWord (s : State) (nbits w : Nat) : State :=
  let dram := (loadTables.foldl (fun m t => m.writeN t.1 (leBytes 8 t.2)) s.dram).writeN 0x200000 (leBytes 8 (w % 2 ^ nbits))
  let lines := (loadTables.map (fun t => lineOf t.1)) ++ [lineOf 0x200000]
  let p := s.part
  let p : Part :=
    { p with
      sched := [.issue ⟨0, 0, 0⟩], stepReq := none, debugQueue := [], sealed := p.sealed.filter (fun q => !lines.contains q.1), tlb := p.tlb.filter (fun e => e.job != loadJob),
      dies := p.dies.map (fun d => { d with copies := d.copies.filter (fun c => !lines.contains c.1), poison := d.poison.filter (fun l => !lines.contains l) }),
      jobs := p.jobs.filter (fun j => j.id != loadJob) ++ [⟨loadJob, loadTbase, false, false, Counter.zero, [], []⟩] }
  let p := p.onMgmt (fun m => { m with contexts := m.contexts.filter (fun c => c.job != loadJob) ++ [⟨loadJob, 0x10000, 0, 0⟩] })
  let p := p.onCox (fun x => { x with launches := x.launches.filter (fun l => l.id != 1) ++ [loadLaunch] })
  let p := p.onCore 0 (fun k => { k with part := loadPartition, pipes := (0, 0), went := [], slots := setNth k.slots 0 (some (loadWg p.now)) })
  ⟨dram, p⟩

end Sys2Proof.Machine
end

