-- ==== Sys2Proof/Safety.lean ====
section
/-! DEFINITION. The terms that claims are stated in: when an instruction acts, the states that results lead to, what
one byte of memory reads as, and steps that answer a next state. -/

namespace Sys2Proof

/-- A step of the state answers a next state that a property holds of. -/
def StepsTo (s : Machine.State) (P : Machine.State → Prop) : Prop :=
  match Machine.step s with
  | .next t => P t
  | .fault _ => False
  | .refused _ => False

/-- A state from which every one of n steps answers a next state. -/
def SafeFor : Nat → Machine.State → Prop
  | 0, _ => True
  | n + 1, s => StepsTo s (SafeFor n)

namespace Machine

/-! ### When an instruction acts -/

/-- The issue of a well-formed instruction by the group at the focus, when nothing keeps it from its own checks: no check of
R55 after decoding, no stop at a safe point (R249), no hazard (R251), no FMTSET (R95), no value that it is to see and that has not
returned (R39), no faulted lane of the warp without a place in the operand log (R281), and no instruction of the sprinter ahead of
it that has yet to retire (R150, R337). -/
def State.reaches (s : State) (i : Instr) : Option Ctx :=
  match partsOf i with
  | none => none
  | some p =>
    match s.ctx? p with
    | none => none
    | some c =>
      if wf i && (c.heldFirst s).isNone && (c.before s).isNone && !c.early && !c.heldLast s then some c else none

/-- The body of an instruction that runs through the steps of R129. -/
def Parts.globalBody (p : Parts) : Ctx → State → Act :=
  match p.op with
  | .ld => bodyLd p.base p.ext
  | .st => bodySt p.base p.ext
  | .atom => bodyAtom p.base p.ext
  | .red => bodyRed p.base p.ext
  | .stmc => bodyStmc p.base p.ext
  | .pref => bodyPref p.base p.ext
  | .discard => bodyDiscard p.base p.ext
  | .flush => bodyFlush p.base p.ext
  | _ => fun _ _ => .hold 0

/-- The instruction acts: it reaches its own checks, it passes those that come before any watch (R241), and no code predicate stops
it (R240). -/
def State.acts (s : State) (i : Instr) : Option Ctx :=
  match s.reaches i with
  | none => none
  | some c => if (c.checkTrap s c.parts.globalBody).isNone && (c.codeWatch s).2.isNone then some c else none

/-- The immediate of a class I instruction or a long branch. -/
def Parts.imm (p : Parts) : Word :=
  match p.form with
  | .imm v => v
  | _ => 0

/-- The registers as an issue reads them. -/
def Ctx.sees (c : Ctx) (s : State) : Env := c.env (c.counted s)

/-! ### The states that results lead to -/

/-- The issue is done: results of lanes stand as one outstanding write with its flags, the PCs have moved. -/
def Ctx.wrote (c : Ctx) (s : State) (lanes : List PendLane) (fl : Flags) (next : Nat → Nat) : State :=
  c.finish (c.write (c.counted s) lanes fl) next

/-- Every acting lane writes some registers, and the group goes on. -/
def Ctx.gives (c : Ctx) (s : State) (w : Nat → List (Target × Word × Byte)) (fl : Flags) : State :=
  c.wrote s ((c.sees s).acting.map (fun l => laneWrites l (w l))) fl (fun _ => c.next)

/-- The warp writes some registers of its own, and the group goes on. -/
def Ctx.givesWarp (c : Ctx) (s : State) (w : List (Target × Word)) : State :=
  c.wrote s [laneWrites warpLane (w.map (fun q => (q.1, q.2, 0)))] 0 (fun _ => c.next)

/-- The group goes on, and nothing else. -/
def Ctx.goesOn (c : Ctx) (s : State) : State := c.finish (c.counted s) (fun _ => c.next)

/-- The 2^w registers from r on as results. -/
def vGroup (r : BitVec 6) (w : BitVec 2) (val : Nat → Word × Byte) : List (Target × Word × Byte) :=
  (List.range (2 ^ w.toNat)).map (fun k => (.v (r.toNat + k), val k))

/-- The 2^w uniform registers from r on as results. -/
def sGroup (r : BitVec 6) (w : BitVec 2) (val : Nat → Word) : List (Target × Word) :=
  (List.range (2 ^ w.toNat)).map (fun k => (.s (r.toNat + k), val k))

/-- The operand of field B of a lane instruction: register k of its group, or the uniform one under U (R46). -/
def Env.opB (e : Env) (f : Base) (x : Ext) (l k : Nat) : Word :=
  if uniformB x then e.s (f.b.toNat + k) else e.v l (f.b.toNat + k)

/-- Flags that raise no enabled floating trap of the warp (R97) and that no format watch of the core waits for
(R240). -/
def Ctx.quiet (c : Ctx) (s : State) (fl : Flags) : Bool :=
  let preds := (((c.counted s).part.core? c.ref.core).map (fun k => k.activePreds c.ref.slot)).getD []
  (enabledTrap c.w.ften fl).isNone && (formatMatches preds c.pc ((c.sees s).acting.map (fun l => (l, fl)))).isEmpty

end Machine

end Sys2Proof
end

