-- ==== Sys2Proof/Certificates/Slice0/Obligations.lean ====
section
/-! DEFINITION. The statements for the provers: what the instructions, the events and the part as a whole do, by the rules of
the spec. The names under Rules say in the words of the rules what the statements use. -/

namespace Sys2Proof

open Machine

/-! ### Lane compute instructions, R104 to R124 -/

/-- R105: the 64-bit value hi:lo of two words. -/
def Rules.joined (lo hi : Word) : DWord := hi ++ lo

/-- R105: position and length of the field of BFX and BFI. -/
def Rules.pos (b : Word) : Nat := (b.extractLsb 4 0).toNat
def Rules.len (b : Word) : Nat := min (b.extractLsb 13 8).toNat (32 - Rules.pos b)

/-- A word with its low n bits set. -/
def Rules.low (n : Nat) : Word := BitVec.ofNat 32 (2 ^ n - 1)

/-- R105: the word of d from those of a, b and c. -/
def Rules.bits (x : Ext) (a b c : Word) : Op → Option Word
  | .and => some (a &&& b)
  | .or => some (a ||| b)
  | .xor => some (a ^^^ b)
  | .andn => some (a &&& ~~~b)
  | .shf =>
    let n := c.toNat % 32
    some (if x.m.getLsbD 0 then (Rules.joined a b >>> n).extractLsb 31 0 else (Rules.joined a b <<< n).extractLsb 63 32)
  | .popc => some (BitVec.ofNat 32 ((List.range 32).countP a.getLsbD))
  | .clz => some (BitVec.ofNat 32 (((List.range 32).find? (fun i => a.getLsbD (31 - i))).getD 32))
  | .brev => some a.reverse
  | .bfx =>
    let len := Rules.len b
    let v := a >>> Rules.pos b &&& Rules.low len
    some (if x.m.getLsbD 0 && len != 0 && v.getLsbD (len - 1) then v ||| ~~~Rules.low len else v)
  | .bfi =>
    let mask := Rules.low (Rules.len b)
    some (a &&& ~~~(mask <<< Rules.pos b) ||| (c &&& mask) <<< Rules.pos b)
  | _ => none

/-- R105: the tag of d from that of a. -/
def Rules.bitsTag (x : Ext) (a : Byte) : Op → Byte
  | .popc => tagUint32
  | .clz => tagUint32
  | .bfx => if x.m.getLsbD 0 then tagInt32 else tagUint32
  | _ => a

/-- The results of R105 for a lane: register k of d from registers k of a, b and c. -/
def Rules.bitsGroup (c : Ctx) (e : Env) (l : Nat) : List (Target × Word × Byte) :=
  vGroup c.f.d c.x.wd (fun k =>
    ((Rules.bits c.x (e.v l (c.f.a.toNat + k)) (e.opB c.f c.x l k) (e.v l (c.x.c.toNat + k)) c.parts.op).getD 0,
      Rules.bitsTag c.x (e.tag l (c.f.a.toNat + k)) c.parts.op))

end Sys2Proof

open Sys2Proof Sys2Proof.Machine in
/-- R105, completion. AND, AND_LONG, OR, OR_LONG, XOR, XOR_LONG, ANDN, ANDN_LONG, SHF, POPC, POPC_LONG, CLZ, CLZ_LONG,
BREV, BREV_LONG, BFX and BFI complete whenever they act: every acting lane writes the words and tags of the table, no flag
is raised, and the group goes on. No tag is checked. -/
def Obligations.BitInstructions : Prop :=
  ∀ (s : State) (i : Instr) (c : Ctx), s.acts i = some c → (Rules.bits c.x 0 0 0 c.parts.op).isSome →
    exec i s = .next (c.gives s (Rules.bitsGroup c (c.sees s)) 0)

namespace Sys2Proof

open Machine

/-- R106, R114: the index that an instruction installs as a tag is valid and register-capable, and a 64-bit entry goes
with a pair; nothing is checked when no lane acts. -/
def Rules.installs (e : Env) (i : Nat) (pair : Bool) : Bool :=
  e.acting.isEmpty ||
    ((e.fmt.entry i).valid && (e.fmt.entry i).epw != 0 && ((e.fmt.entry i).epw != 15 || pair))

/-- R106, R114, R115: register k of d with its tag, for MOV, MOVI, SEL, TAGSET and TAGGET. -/
def Rules.move (c : Ctx) (e : Env) (l k : Nat) : Option (Word × Byte) :=
  let a := c.f.a.toNat + k
  match c.parts.op with
  | .mov => some (if uniformB c.x then (e.s (c.f.b.toNat + k), e.fmt.tagOf (mBits c.x 4 0)) else (e.v l a, e.tag l a))
  | .movi => some (c.parts.imm, e.fmt.tagOf c.f.a.toNat)
  | .sel => some (if e.p l c.x.c.toNat != mBit c.x 0 then (e.v l a, e.tag l a)
      else (e.opB c.f c.x l k, if uniformB c.x then e.tag l a else e.tag l (c.f.b.toNat + k)))
  | .tagset => some (e.v l a, if mBit c.x 5 then 0 else e.fmt.tagOf (mBits c.x 4 0))
  | .tagget => some (word (e.tag l a).toNat, tagUint32)
  | _ => none

/-- R106, R114: the FMT field that an instruction installs may be installed. -/
def Rules.moveOk (c : Ctx) (e : Env) : Bool :=
  match c.parts.op with
  | .mov => !uniformB c.x || Rules.installs e (mBits c.x 4 0) (c.x.wd == 1)
  | .movi => Rules.installs e c.f.a.toNat false
  | .tagset => mBit c.x 5 || Rules.installs e (mBits c.x 4 0) (c.x.wd == 1)
  | _ => true

/-- R106, R114, R115, completion. MOV, MOV_LONG, MOVI, SEL, TAGSET, TAGGET and TAGGET_LONG complete when the index they
install may be installed: every acting lane writes the words with the tags the rules give. The tag that TAGSET.INV
installs has GEN 0 by the model's choice (log entry 9). -/
def Rules.movesRule : Prop :=
  ∀ (s : State) (i : Instr) (c : Ctx), s.acts i = some c → (Rules.move c (c.sees s) 0 0).isSome →
    Rules.moveOk c (c.sees s) = true →
    exec i s = .next (c.gives s (fun l => vGroup c.f.d c.x.wd (fun k => (Rules.move c (c.sees s) l k).getD (0, 0))) 0)

/-- R106, completion. NOP and SNOP have no effect but to go on. -/
def Rules.noOperationsRule : Prop :=
  ∀ (s : State) (i : Instr) (c : Ctx), s.acts i = some c →
    (c.parts.op = .nop → exec i s = .next (c.wrote s [] 0 (fun _ => c.next))) ∧
    (c.parts.op = .snop → exec i s = .next (c.goesOn s))

/-! #### Integer arithmetic, R104 -/

/-- R102: the entry of a's tag in a lane. -/
def Rules.entryA (c : Ctx) (e : Env) (l : Nat) : Entry := e.fmt.entry (tagIndex (e.tag l c.f.a.toNat))

/-- R104: which of b and c an integer instruction reads, and the exact value of an element from the codes of those of
a, b and c. -/
def Rules.exact (x : Ext) (t : Entry) (a b c : Nat) : Op → Option (Bool × Bool × Int)
  | .iadd => some (true, false, elemInt t a + elemInt t b)
  | .isub => some (true, false, elemInt t a - elemInt t b)
  | .imul => some (true, false,
      if mBit x 0 then (elemInt t a * elemInt t b).fdiv (2 ^ t.width : Nat) else elemInt t a * elemInt t b)
  | .imad => some (true, true, elemInt t a * elemInt t b + elemInt t c)
  | .iminmax => some (true, false,
      if mBit x 0 then max (elemInt t a) (elemInt t b) else min (elemInt t a) (elemInt t b))
  | .iabs => some (false, false, ((elemInt t a).natAbs : Int))
  | .shl => some (true, false, elemInt t (a * 2 ^ (b % t.width) % 2 ^ t.width))
  | .shr => some (true, false,
      if mBit x 0 then elemInt t (wrapInt t.width ((toSigned t.width a).fdiv (2 ^ (b % t.width) : Nat)))
      else elemInt t (a / 2 ^ (b % t.width)))
  | _ => none

/-- The element fits its format. -/
def Rules.inRange (t : Entry) (v : Int) : Bool :=
  decide (intMin t.isSigned t.width ≤ v) && decide (v ≤ intMax t.isSigned t.width)

/-- R104: the code of an exact value, and the flags: clamped with ST under SAT, else wrapped. -/
def Rules.fit (t : Entry) (sat : Bool) (v : Int) : Nat × Flags :=
  if sat && !Rules.inRange t v then
    (wrapInt t.width (max (intMin t.isSigned t.width) (min v (intMax t.isSigned t.width))), flagST)
  else (wrapInt t.width v, 0)

/-- Registers of B that are v registers, and those of C, that an instruction reads. -/
def Rules.further (c : Ctx) (useB useC : Bool) : List Nat :=
  (if useB && !uniformB c.x then groupRegs c.f.b c.x.wb else []) ++ (if useC then groupRegs c.x.c c.x.wc else [])

/-- The exact values of a lane's elements. -/
def Rules.exacts (c : Ctx) (e : Env) (l : Nat) : List Int :=
  let t := Rules.entryA c e l
  let bs := elemsOf t ((groupRegs c.f.b c.x.wb).zipIdx.map (fun q => e.opB c.f c.x l q.2))
  let cs := elemsOf t (e.words l (groupRegs c.x.c c.x.wc))
  (elemsOf t (e.words l (groupRegs c.f.a c.x.wa))).zipIdx.map (fun q =>
    ((Rules.exact c.x t q.1 (nth bs q.2 0) (nth cs q.2 0) c.parts.op).map (·.2.2)).getD 0)

/-- The codes and flags of a lane's elements. -/
def Rules.fits (c : Ctx) (e : Env) (l : Nat) : List (Nat × Flags) :=
  (Rules.exacts c e l).map (Rules.fit (Rules.entryA c e l) (mBit c.x 1))

/-- R93, R102: the integer view of a lane holds. -/
def Rules.intViewOk (c : Ctx) (e : Env) (l : Nat) : Bool :=
  match Rules.exact c.x fp32 0 0 0 c.parts.op with
  | none => false
  | some (useB, useC, _) =>
    (match intView e l (groupRegs c.f.a c.x.wa) (Rules.further c useB useC) with
      | .ok _ => true
      | .error _ => false)

/-- R104, completion. IADD, IADD_LONG, ISUB, ISUB_LONG, IMUL, IMUL_LONG, IMAD, IMIN, IMIN_IMAX_LONG, IABS, IABS_LONG,
SHL, SHL_LONG, SHR and SHR_LONG complete when every acting lane's tags pass the integer view and, under TRAPV, every
exact value fits: d gets the exact values fitted to a's elements, with a's tags, and SAT raises ST. -/
def Rules.integerArithmeticRule : Prop :=
  ∀ (s : State) (i : Instr) (c : Ctx), s.acts i = some c →
    let e := c.sees s
    (Rules.exact c.x fp32 0 0 0 c.parts.op).isSome →
    (∀ l ∈ e.acting, Rules.intViewOk c e l = true) →
    (mBit c.x 2 = true → ∀ l ∈ e.acting, ∀ v ∈ Rules.exacts c e l, Rules.inRange (Rules.entryA c e l) v = true) →
    let fl := orFlags (e.acting.map (fun l => orFlags ((Rules.fits c e l).map (·.2))))
    c.quiet s fl = true →
    exec i s = .next (c.gives s (fun l => vGroup c.f.d c.x.wd (fun k =>
      (nth (packElems (Rules.entryA c e l) ((Rules.fits c e l).map (·.1))) k 0, e.tag l (c.f.a.toNat + k)))) fl)

/-- R104: under TRAPV an exact value that does not fit traps INT_OVF, precisely, naming the lanes that overflow, with no
register written. -/
def Rules.integerOverflowTrapsRule : Prop :=
  ∀ (s : State) (i : Instr) (c : Ctx), s.acts i = some c →
    let e := c.sees s
    (Rules.exact c.x fp32 0 0 0 c.parts.op).isSome →
    let bad := e.acting.filter (fun l => (Rules.exacts c e l).any (fun v => !Rules.inRange (Rules.entryA c e l) v))
    (∀ l ∈ e.acting, Rules.intViewOk c e l = true) → mBit c.x 2 = true → bad ≠ [] →
    exec i s = .next ((c.counted s).raise c { cause := causeIntOvf, info0 := maskOf bad })

end Sys2Proof

open Sys2Proof Sys2Proof.Machine in
/-- Integer arithmetic and its overflow trap: integerArithmeticRule and integerOverflowTrapsRule, whose rules stand with them. -/
def Obligations.IntegerArithmetic : Prop :=
  Rules.integerArithmeticRule ∧ Rules.integerOverflowTrapsRule

namespace Sys2Proof

open Machine

/-- R106, completion. IADDI completes when every acting lane's tag of a passes the integer view with one element a
register: d := (a + imm) mod 2^32, with a's tag. -/
def Rules.addImmediateRule : Prop :=
  ∀ (s : State) (i : Instr) (c : Ctx), s.acts i = some c → c.parts.op = .iaddi →
    let e := c.sees s
    let a := c.f.a.toNat
    (∀ l ∈ e.acting, intView e l [a] [] = .ok (Rules.entryA c e l) ∧ (Rules.entryA c e l).epw = 1) →
    exec i s = .next (c.gives s (fun l => [(.v c.f.d.toNat, e.v l a + c.parts.imm, e.tag l a)]) 0)

end Sys2Proof

open Sys2Proof Sys2Proof.Machine in
/-- Moves, immediates and no-operations: movesRule, noOperationsRule and addImmediateRule, whose rules stand with them. -/
def Obligations.BasicMoves : Prop :=
  Rules.movesRule ∧ Rules.noOperationsRule ∧ Rules.addImmediateRule

namespace Sys2Proof

open Machine

/-! #### Comparisons and predicate logic, R107, R108 -/

/-- R107: cond of two integers. -/
def Rules.cond (n : Nat) (a b : Int) : Bool :=
  match n with
  | 0 => decide (a = b)
  | 1 => decide (a ≠ b)
  | 2 => decide (a < b)
  | 3 => decide (a ≤ b)
  | 4 => decide (b < a)
  | _ => decide (b ≤ a)

/-- R107: cond of two float values: NE and NAN hold of a NaN, and no other; NUM holds of two numbers, NAN of none. -/
def Rules.condFloat (n : Nat) (a b : Val) : Bool :=
  if a.isNan || b.isNan then n == 1 || n == 7
  else if n = 6 then true else if n = 7 then false else Rules.cond n (a.cmp b) 0

/-- R107: cond combined with the predicate C under op and NC. -/
def Rules.combined (c : Ctx) (p : Bool) (cond : Bool) : Bool :=
  let q := p != mBit c.x 6
  match mBits c.x 5 4 with
  | 0 => cond && q
  | 1 => cond || q
  | _ => cond ^^ q

end Sys2Proof

open Sys2Proof Sys2Proof.Machine in
/-- R107, completion. ISET completes when every acting lane's sources pass the integer view with one element a register
or a pair; FSET when they pass the float view with one element a register. The predicate D becomes cond(a, b) op
(p(C) xor NC), compared as signed or unsigned by a's entry, and nothing else is written. -/
def Obligations.Comparisons : Prop :=
  ∀ (s : State) (i : Instr) (c : Ctx), s.acts i = some c →
    let e := c.sees s
    let t (l : Nat) : Entry := Rules.entryA c e l
    let ra := groupRegs c.f.a c.x.wa
    let rb := if uniformB c.x then [] else groupRegs c.f.b c.x.wb
    (c.parts.op = .iset → (∀ l ∈ e.acting, intView e l ra rb = .ok (t l) ∧ ((t l).epw = 1 ∨ (t l).epw = 15)) →
      exec i s = .next (c.gives s (fun l =>
        let a := elemInt (t l) (elemOf (t l) (e.words l ra) 0)
        let b := elemInt (t l) (elemOf (t l) (e.bWords (uniformB c.x) l (groupRegs c.f.b c.x.wb)) 0)
        [(.p c.f.d.toNat, wordOfBool (Rules.combined c (e.p l c.x.c.toNat) (Rules.cond (mBits c.x 3 0) a b)), 0)]) 0)) ∧
    (c.parts.op = .fset → (∀ l ∈ e.acting, floatView e l ra rb = .ok (t l) ∧ (t l).epw = 1) →
      exec i s = .next (c.gives s (fun l =>
        let a := decodeCode (t l) (e.v l c.f.a.toNat).toNat
        let b := decodeCode (t l) (e.opB c.f c.x l 0).toNat
        [(.p c.f.d.toNat, wordOfBool (Rules.combined c (e.p l c.x.c.toNat) (Rules.condFloat (mBits c.x 3 0) a b)), 0)]) 0))


open Sys2Proof Sys2Proof.Machine in
/-- R108, completion. The word of opcode 0x15 in the lane set is PLOP, and PLOP completes whenever it acts: predicate D becomes
bit 4·p(A) + 2·p(B) + p(C) of lut, which M[7:0] holds. lut 0xF0 copies pa, and 0x0F negates it. -/
def Obligations.PredicateLogic : Prop :=
  (∀ (w x : Word) (i : Instr), w.extractLsb 31 31 = 0 → w.extractLsb 26 20 = 0x15 → decodeWords w x = .ok i →
    ∃ f y, i = .plop f y) ∧
  (∀ a b c : Bool, let n := 4 * a.toNat + 2 * b.toNat + c.toNat
    (0xF0#8).getLsbD n = a ∧ (0x0F#8).getLsbD n = !a) ∧
  ∀ (s : State) (i : Instr) (c : Ctx), s.acts i = some c → c.parts.op = .plop →
    let e := c.sees s
    exec i s = .next (c.gives s (fun l =>
      let n := 4 * (e.p l c.f.a.toNat).toNat + 2 * (e.p l c.f.b.toNat).toNat + (e.p l c.x.c.toNat).toNat
      [(.p c.f.d.toNat, wordOfBool ((c.x.m.extractLsb 7 0).getLsbD n), 0)]) 0)

namespace Sys2Proof

open Machine

/-! #### Floats, R109 to R113, R116 -/

/-- R109 to R111: which of b and c a float instruction reads, and the code and flags of an element from the codes of
those of a, b and c. -/
def Rules.float (x : Ext) (t : Entry) (a b c : Nat) : Op → Option (Bool × Bool × (Nat × Flags))
  | .fadd => some (true, false, rounded x t ((srcA x t a).add (modeOf (rmField x) t) (srcB x t b)))
  | .fmul => some (true, false, rounded x t ((srcA x t a).mul (srcB x t b)))
  | .ffma => some (true, true, rounded x t (fmaVal (modeOf (rmField x) t) (srcA x t a) (srcB x t b) (srcC x t c)))
  | .fminmax => some (true, false, (minMaxCode t (mBit x 0) (mBit x 1) a b, 0))
  | .frcp => some (false, false, rounded x t (FloatFn.rcp.eval (decodeCode t a)))
  | .frsq => some (false, false, rounded x t (FloatFn.rsq.eval (decodeCode t a)))
  | .fsqrt => some (false, false, rounded x t (FloatFn.sqrt.eval (decodeCode t a)))
  | .fexp2 => some (false, false, rounded x t (FloatFn.exp2.eval (decodeCode t a)))
  | .flog2 => some (false, false, rounded x t (FloatFn.log2.eval (decodeCode t a)))
  | .fsin => some (false, false, rounded x t (FloatFn.sin.eval (decodeCode t a)))
  | .fcos => some (false, false, rounded x t (FloatFn.cos.eval (decodeCode t a)))
  | .ftanh => some (false, false, rounded x t (FloatFn.tanh.eval (decodeCode t a)))
  | .frnd =>
    let v := decodeCode t a
    let r := roundIntegral (modeOf (rmField x) t) v
    let q := roundFloat t (modeOf (rmField x) t) r.1
    some (false, false, if v.isInf then (t.infCode v.neg, 0) else if v.isNan then (t.nanCode, 0) else (q.1, r.2 ||| q.2))
  | _ => none

/-- R93, R102: the float view of a lane holds. -/
def Rules.floatViewOk (c : Ctx) (e : Env) (l : Nat) : Bool :=
  match Rules.float c.x fp32 0 0 0 c.parts.op with
  | none => false
  | some (useB, useC, _) =>
    (match floatView e l (groupRegs c.f.a c.x.wa) (Rules.further c useB useC) with
      | .ok _ => true
      | .error _ => false)

/-- The codes and flags of a lane's elements. -/
def Rules.floats (c : Ctx) (e : Env) (l : Nat) : List (Nat × Flags) :=
  let t := Rules.entryA c e l
  let bs := elemsOf t ((groupRegs c.f.b c.x.wb).zipIdx.map (fun q => e.opB c.f c.x l q.2))
  let cs := elemsOf t (e.words l (groupRegs c.x.c c.x.wc))
  (elemsOf t (e.words l (groupRegs c.f.a c.x.wa))).zipIdx.map (fun q =>
    ((Rules.float c.x t q.1 (nth bs q.2 0) (nth cs q.2 0) c.parts.op).map (·.2.2)).getD (0, 0))

/-- R109 to R111, completion. FADD, FADD_LONG, FMUL, FMUL_LONG, FFMA, FMIN, FMIN_FMAX_LONG, FRCP, FRCP_LONG, FRSQ,
FRSQ_LONG, FSQRT, FSQRT_LONG, FEXP2, FEXP2_LONG, FLOG2, FLOG2_LONG, FSIN, FSIN_LONG, FCOS, FCOS_LONG, FTANH, FTANH_LONG,
FRND and FRND_LONG complete when every acting lane's tags pass the float view and the flags raise no enabled trap and
meet no format watch: d gets the exact value of each element rounded once into a's entry, with a's tags, and the flags
are ORed. The sign of FSIN and FTANH of −0 is the model's choice (log entry 5), the NaN code of entries without a fraction bit
its own too (log entry 18). -/
def Rules.floatArithmeticRule : Prop :=
  ∀ (s : State) (i : Instr) (c : Ctx), s.acts i = some c →
    let e := c.sees s
    (Rules.float c.x fp32 0 0 0 c.parts.op).isSome →
    (∀ l ∈ e.acting, Rules.floatViewOk c e l = true) →
    let fl := orFlags (e.acting.map (fun l => orFlags ((Rules.floats c e l).map (·.2))))
    c.quiet s fl = true →
    exec i s = .next (c.gives s (fun l => vGroup c.f.d c.x.wd (fun k =>
      (nth (packElems (Rules.entryA c e l) ((Rules.floats c e l).map (·.1))) k 0, e.tag l (c.f.a.toNat + k)))) fl)

/-- R112: the sources a and b of FDOT pass the checks of R93, hold equal tags of integer or float kind, and c has the
tag their kind asks for. -/
abbrev Rules.dotOk (c : Ctx) (e : Env) (l : Nat) : Prop :=
  let ra := groupRegs c.f.a c.x.wa
  let vb := if uniformB c.x then [] else groupRegs c.f.b c.x.wb
  let t := Rules.entryA c e l
  let i := tagIndex (e.tag l c.x.c.toNat)
  checkGroup e l (ra ++ vb ++ [c.x.c.toNat]) = .ok () ∧ (∀ r ∈ ra ++ vb, e.tag l r = e.tag l c.f.a.toNat) ∧
    (t.epw = 15 → c.x.wa = 1) ∧ (t.kind = kindFloat ∧ mBit c.x 1 = false ∧ i = 3 ∨ t.kind = kindInteger ∧ (i = 1 ∨ i = 2))

/-- R112: the word that FDOT writes, and its flags. -/
def Rules.dot (c : Ctx) (e : Env) (l : Nat) : Nat × Flags :=
  let t := Rules.entryA c e l
  let ps := (elemsOf t (e.words l (groupRegs c.f.a c.x.wa))).zip
    (elemsOf t (e.bWords (uniformB c.x) l (groupRegs c.f.b c.x.wb)))
  let old := e.v l c.x.c.toNat
  if t.kind = kindFloat then
    rounded c.x fp32 (dotVals [ofFp32 old] (ps.map (fun p => (decodeCode t p.1, decodeCode t p.2))))
  else
    let ct := e.fmt.entry (tagIndex (e.tag l c.x.c.toNat))
    Rules.fit ct (mBit c.x 1) ((ps.map (fun p => elemInt t p.1 * elemInt t p.2)).foldl (· + ·) (elemInt ct old.toNat))

/-- R112, completion. FDOT completes when every acting lane's tags pass and no enabled trap or watch meets its flags:
d gets c's exact value plus the exact products, rounded once to FP32 or fitted to c's integer entry, with c's tag. -/
def Rules.dotProductRule : Prop :=
  ∀ (s : State) (i : Instr) (c : Ctx), s.acts i = some c → c.parts.op = .fdot →
    let e := c.sees s
    (∀ l ∈ e.acting, Rules.dotOk c e l) →
    let fl := orFlags (e.acting.map (fun l => (Rules.dot c e l).2))
    c.quiet s fl = true →
    exec i s = .next (c.gives s (fun l => [(.v c.f.d.toNat, word (Rules.dot c e l).1, e.tag l c.x.c.toNat)]) fl)

/-- R81: the number m × 2^e that magnitude code n of a float entry stands for. -/
def Rules.magnitude (f : Entry) (n : Nat) : Nat × Int :=
  if n < 2 ^ f.fw then (n, 1 - f.bias - f.fw) else (2 ^ f.fw + n % 2 ^ f.fw, (n / 2 ^ f.fw : Nat) - f.bias - f.fw)

/-- Exact order and midpoint of numbers m × 2^e. -/
def Rules.less (a b : Nat × Int) : Bool :=
  let g := min a.2 b.2
  decide (a.1 * 2 ^ (a.2 - g).toNat < b.1 * 2 ^ (b.2 - g).toNat)
def Rules.middle (a b : Nat × Int) : Nat × Int :=
  let g := min a.2 b.2
  (a.1 * 2 ^ (a.2 - g).toNat + b.1 * 2 ^ (b.2 - g).toNat, g - 1)

/-- R83, R84: a nonzero number between the neighbouring codes n and n + 1 is rounded once, to the one that the mode asks for (0
RNE, 1 RTZ, 2 RDN, 3 RUP, 4 RNA; of two equally near RNE takes the even code), with its sign; beyond the largest finite code it
overflows as the entry's SPEC and the mode ask. -/
def Rules.roundingRule : Prop :=
  ∀ (f : Entry) (mode : Nat) (neg : Bool) (m : Nat) (e : Int) (n : Nat), mode ≤ 4 → m ≠ 0 → (f.sign ≠ 0 ∨ neg = false) →
    Rules.less (m, e) (Rules.magnitude f n) = false → Rules.less (m, e) (Rules.magnitude f (n + 1)) = true →
    let exactly := !Rules.less (Rules.magnitude f n) (m, e)
    let half := Rules.middle (Rules.magnitude f n) (Rules.magnitude f (n + 1))
    let above := Rules.less half (m, e)
    let tie := !above && !Rules.less (m, e) half
    let up := !exactly && (match mode with
      | 1 => false
      | 2 => neg
      | 3 => !neg
      | 4 => above || tie
      | _ => above || tie && n % 2 == 1)
    let k := if up then n + 1 else n
    let sign := if neg then 2 ^ (f.ew + f.fw) else 0
    let infinite := f.spec = 0 ∧ (mode = 0 ∨ mode = 4 ∨ mode = 2 ∧ neg = true ∨ mode = 3 ∧ neg = false)
    let r := roundFloat f mode (.num neg m e false)
    (k ≤ f.maxCode → r.1 = sign + k ∧ (r.2 &&& (flagNX ||| flagOF ||| flagST)) = if exactly then 0 else flagNX) ∧
    (f.maxCode < k → r = (sign + (if infinite then (2 ^ f.ew - 1) * 2 ^ f.fw else f.maxCode),
      flagOF ||| flagNX ||| (if f.spec = 0 then 0 else flagST)))

/-- R110: the algebraic functions of a number m × 2^e are the exact ones: q × 2^k is their value cut to 64 bits or more, and the
mark of a remainder stands where something was cut. FEXP2 of an integer and FLOG2 of a power of two are exact. (Each other value
of the functions of R110 lies in an enclosure that fixes its 64 leading bits, by the model's computation, log entry 5.) -/
def Rules.functionsRule : Prop :=
  ∀ (neg : Bool) (m : Nat) (e : Int) (s : Bool), m ≠ 0 →
    (∃ (q K : Nat) (t : Bool), FloatFn.rcp.eval (.num neg m e s) = (.num neg q (-e - K) t, 0) ∧ 2 ^ 64 ≤ q ∧
      q * m ≤ 2 ^ K ∧ 2 ^ K < (q + 1) * m ∧ (t = true ↔ q * m ≠ 2 ^ K)) ∧
    (∃ (q : Nat) (k : Int) (t : Bool), FloatFn.sqrt.eval (.num false m e s) = (.num false q k t, 0) ∧ 2 ^ 64 ≤ q ∧ 2 * k ≤ e ∧
      let x := m * 2 ^ (e - 2 * k).toNat
      q * q ≤ x ∧ x < (q + 1) * (q + 1) ∧ (t = true ↔ q * q ≠ x)) ∧
    (∃ (q : Nat) (k : Int) (t : Bool), FloatFn.rsq.eval (.num false m e s) = (.num false q k t, 0) ∧ 2 ^ 64 ≤ q ∧ e + 2 * k ≤ 0 ∧
      let one := 2 ^ (-(e + 2 * k)).toNat
      q * q * m ≤ one ∧ one < (q + 1) * (q + 1) * m ∧ (t = true ↔ q * q * m ≠ one)) ∧
    (∀ i : Nat, e = i → m * 2 ^ i ≤ 4096 →
      FloatFn.exp2.eval (.num neg m e s) = (.num false 1 (if neg then -(m * 2 ^ i : Nat) else (m * 2 ^ i : Nat)) false, 0)) ∧
    (∀ i : Nat, m = 2 ^ i → FloatFn.log2.eval (.num false m e s) = (.ofInt (e + i), 0))

/-- R110: the special values of the functions. -/
def Rules.special (fn : FloatFn) (v : Val) : Option (Val × Flags) :=
  let bad : Val × Flags := (.nan, flagNV ||| flagNP)
  let one (neg : Bool) : Val := .num neg 1 0 false
  match v, fn with
  | .nan, _ => some (.nan, 0)
  | .inf neg, .rcp => some (.zero neg, 0)
  | .inf false, .rsq => some (.zero false, 0)
  | .inf false, .sqrt => some (.inf false, 0)
  | .inf false, .exp2 => some (.inf false, 0)
  | .inf true, .exp2 => some (.zero false, 0)
  | .inf false, .log2 => some (.inf false, 0)
  | .inf neg, .tanh => some (one neg, 0)
  | .inf _, _ => some bad
  | .num neg 0 _ _, .rcp => some (.inf neg, flagDZ)
  | .num neg 0 _ _, .rsq => some (.inf neg, flagDZ)
  | .num neg 0 _ _, .sqrt => some (.zero neg, 0)
  | .num _ 0 _ _, .exp2 => some (one false, 0)
  | .num _ 0 _ _, .log2 => some (.inf true, flagDZ)
  | .num false 0 _ _, .sin => some (.zero false, 0)
  | .num _ 0 _ _, .cos => some (one false, 0)
  | .num false 0 _ _, .tanh => some (.zero false, 0)
  | .num true (_ + 1) _ _, .rsq => some bad
  | .num true (_ + 1) _ _, .sqrt => some bad
  | .num true (_ + 1) _ _, .log2 => some bad
  | _, _ => none

/-- R110: at these operands each function answers its special result. -/
def Rules.specialsRule : Prop := ∀ (fn : FloatFn) (v : Val), ∀ r ∈ Rules.special fn v, fn.eval v = r

end Sys2Proof

open Sys2Proof Sys2Proof.Machine in
/-- Floating point functions and dot products: floatArithmeticRule, roundingRule, functionsRule, specialsRule and dotProductRule,
whose rules stand with them. -/
def Obligations.FloatingPoint : Prop :=
  Rules.floatArithmeticRule ∧ Rules.roundingRule ∧ Rules.functionsRule ∧ Rules.specialsRule ∧ Rules.dotProductRule

namespace Sys2Proof

open Machine

/-- R113: the source of CVT passes the checks of R93, its registers are of one kind that converts (of one tag, for
floats), and the element counts agree. -/
abbrev Rules.cvtOk (c : Ctx) (e : Env) (l : Nat) : Prop :=
  let ra := groupRegs c.f.a c.x.wa
  let t := Rules.entryA c e l
  let dst := e.fmt.entry (mBits c.x 4 0)
  checkGroup e l ra = .ok () ∧ (t.kind = kindInteger ∨ t.kind = kindFloat) ∧
    (∀ r ∈ ra, (e.fmt.entry (tagIndex (e.tag l r))).kind = t.kind) ∧
    (t.kind = kindFloat → ∀ r ∈ ra, e.tag l r = e.tag l c.f.a.toNat) ∧
    elemCount t ra.length = elemCount dst (groupRegs c.f.d c.x.wd).length ∧ (t.epw = 15 → ra.length ≠ 1)

/-- The codes and flags of a lane's elements under CVT. -/
def Rules.cvt (c : Ctx) (e : Env) (l : Nat) : List (Nat × Flags) :=
  let t := Rules.entryA c e l
  (elemsOf t (e.words l (groupRegs c.f.a c.x.wa))).map (fun a =>
    rounded c.x (e.fmt.entry (mBits c.x 4 0)) (decodeCode t a, 0))

/-- R113, completion. CVT completes when FMT names a valid register entry of integer or float kind that fits d's width,
every acting lane's source passes, and no enabled trap or watch meets its flags: d gets a's elements converted, with FMT's
current tag. -/
def Rules.conversionRule : Prop :=
  ∀ (s : State) (i : Instr) (c : Ctx), s.acts i = some c → c.parts.op = .cvt →
    let e := c.sees s
    let n := mBits c.x 4 0
    let dst := e.fmt.entry n
    dst.valid = true → dst.epw ≠ 0 → (dst.kind = kindInteger ∨ dst.kind = kindFloat) → (dst.epw = 15 → c.x.wd ≠ 0) →
    (∀ l ∈ e.acting, Rules.cvtOk c e l) →
    let fl := orFlags (e.acting.map (fun l => orFlags ((Rules.cvt c e l).map (·.2))))
    c.quiet s fl = true →
    exec i s = .next (c.gives s (fun l => vGroup c.f.d c.x.wd (fun k =>
      (nth (packElems dst ((Rules.cvt c e l).map (·.1))) k 0, e.fmt.tagOf n))) fl)

/-- R116, completion. QBLK completes when FMT names a valid block entry, every participant holds one integer or float element, and
no enabled trap or watch meets the flags: each gets its code and the scale and micro bytes of the block of 32 lanes, in which a
lane that does not participate counts as +0, with tag UINT32. The codes of an MX block that is NaN are the model's choice (log
entry 18). -/
def Rules.quantisationRule : Prop :=
  ∀ (s : State) (i : Instr) (c : Ctx), s.acts i = some c → c.parts.op = .qblk →
    let e := c.sees s
    let a := c.f.a.toNat
    let d := c.f.d.toNat
    let dst := e.fmt.entry (mBits c.x 4 0)
    e.acting ≠ [] → dst.valid = true → dst.kind = kindBlock →
    (∀ l ∈ e.acting, checkTag e.fmt a (e.tag l a) = .ok (Rules.entryA c e l) ∧ (Rules.entryA c e l).epw = 1 ∧
      ((Rules.entryA c e l).kind = kindInteger ∨ (Rules.entryA c e l).kind = kindFloat)) →
    let b := quantise e.fmt dst (modeOf (rmField c.x) dst) (allLanes.map (fun l =>
      if e.acting.contains l then decodeCode (Rules.entryA c e l) (e.v l a).toNat else .zero false))
    c.quiet s b.flags = true →
    exec i s = .next (c.gives s (fun l =>
      [(.v d, word (nth b.codes l 0), tagUint32),
       (.v (d + 1), word (b.scale + 256 * (if isBX dst then b.micro else 0)), tagUint32)]) b.flags)

end Sys2Proof

open Sys2Proof Sys2Proof.Machine in
/-- Conversion and block quantisation: conversionRule and quantisationRule, whose rules stand with them. -/
def Obligations.Conversions : Prop :=
  Rules.conversionRule ∧ Rules.quantisationRule

namespace Sys2Proof

open Machine

/-! #### Across the lanes of a group, R117 to R124 -/

/-- R118: the lane that SHFL reads for lane l, when it names one of its segment that participates. -/
def Rules.shflFrom (c : Ctx) (e : Env) (l : Nat) : Option Nat :=
  let size := 32 / 2 ^ mBits c.x 4 2
  ((shflSource (mBits c.x 1 0) size (l % size) (e.opB c.f c.x l 0)).map (fun j => l - l % size + j)).filter
    e.acting.contains

/-- R119: the acting lanes whose vote is true. -/
def Rules.yes (c : Ctx) (e : Env) : List Nat := e.acting.filter (fun l => e.p l c.f.a.toNat != mBit c.x 2)

/-- R118 to R120, R122: the writes of a lane under SHFL, VOTE, MATCH and ELECT. -/
def Rules.cross (c : Ctx) (e : Env) (l : Nat) : Option (List (Target × Word × Byte)) :=
  let a := c.f.a.toNat
  let ra := groupRegs c.f.a c.x.wa
  let all := e.acting.length
  match c.parts.op with
  | .shfl =>
    let k := (Rules.shflFrom c e l).getD l
    some (vGroup c.f.d c.x.wd (fun j => (e.v k (a + j), e.tag k (a + j)))
      ++ [(.p c.x.c.toNat, wordOfBool (Rules.shflFrom c e l).isSome, 0)])
  | .vote =>
    let yes := Rules.yes c e
    let n := (allLanes.filter yes.contains).length
    let r := match mBits c.x 1 0 with
      | 0 => decide (yes = e.acting)
      | 1 => decide (yes ≠ [])
      | 2 => decide (yes = []) || decide (yes = e.acting)
      | _ => decide (n % 2 = 1)
    some ((if mBit c.x 4 then [] else
        [(Target.v c.f.d.toNat, word (if mBit c.x 3 then n else maskOf yes), tagUint32)])
      ++ [(.p c.x.c.toNat, wordOfBool r, 0)])
  | .matchLanes =>
    let g := e.acting.filter (fun k => e.words k ra == e.words l ra)
    let d := match mBits c.x 1 0 with
      | 0 => maskOf g
      | 1 => (minList? g).getD l
      | 2 => (g.filter (fun k => decide (k < l))).length
      | _ => if g.length = all then maskOf e.acting else 0
    some [(.v c.f.d.toNat, word d, tagUint32)]
  | .elect =>
    let chosen := if mBit c.x 0 then e.acting.foldl max 0 else (minList? e.acting).getD 0
    some ([(.p c.f.d.toNat, wordOfBool (l == chosen), 0)] ++
      (if mBit c.x 1 then [(Target.v c.x.c.toNat, word chosen, tagUint32)] else []))
  | _ => none

/-- R118 to R120, R122, completion. SHFL, VOTE, MATCH, MATCH_LONG, ELECT and ELECT_LONG complete whenever they act, with
the results of the rules for each participant; they check no tag and raise no flag. -/
def Rules.crossLaneRule : Prop :=
  ∀ (s : State) (i : Instr) (c : Ctx), s.acts i = some c → (Rules.cross c (c.sees s) 0).isSome →
    exec i s = .next (c.gives s (fun l => (Rules.cross c (c.sees s) l).getD []) 0)

/-- R121: the code and flags REDUX gives lane l. -/
def Rules.redux (c : Ctx) (e : Env) (l : Nat) : Nat × Flags :=
  let t := e.fmt.entry (tagIndex (e.tag (e.acting.headD 0) c.f.a.toNat))
  let set := e.acting.filter (fun k =>
    mBits c.x 6 5 == 0 || decide (k < l) || (mBits c.x 6 5 == 1 && k == l))
  let cs := set.map (fun k => (e.v k c.f.a.toNat).toNat)
  if mBits c.x 3 0 < 6 then reduxInt t (mBits c.x 3 0) (mBit c.x 4) (cs.map (elemInt t))
  else reduxFloat c.x t (mBits c.x 3 0) cs

/-- R121, completion. REDUX completes when every participant holds one element of the kind of the operation, with the
lowest participant's tag for a float operation, and no enabled trap or watch meets its flags. -/
def Rules.reductionsRule : Prop :=
  ∀ (s : State) (i : Instr) (c : Ctx), s.acts i = some c → c.parts.op = .redux →
    let e := c.sees s
    let a := c.f.a.toNat
    let tag := e.tag (e.acting.headD 0) a
    (∀ l ∈ e.acting, checkTag e.fmt a (e.tag l a) = .ok (Rules.entryA c e l) ∧ (Rules.entryA c e l).epw = 1 ∧
      (if mBits c.x 3 0 < 6 then (Rules.entryA c e l).kind = kindInteger ∨ (Rules.entryA c e l).kind = kindRaw
       else (Rules.entryA c e l).kind = kindFloat ∧ e.tag l a = tag)) →
    let fl := orFlags (e.acting.map (fun l => (Rules.redux c e l).2))
    c.quiet s fl = true →
    exec i s = .next (c.gives s (fun l => [(.v c.f.d.toNat, word (Rules.redux c e l).1, tag)]) fl)

end Sys2Proof

open Sys2Proof Sys2Proof.Machine in
/-- Cross-lane operations and reductions: crossLaneRule and reductionsRule, whose rules stand with them. -/
def Obligations.CrossLane : Prop :=
  Rules.crossLaneRule ∧ Rules.reductionsRule

namespace Sys2Proof

open Machine

/-- R123, completion. S2V and S2V_LONG complete whenever they act: a single register takes the low word of the special
register with tag UINT32, a pair both words of one sample with tag INT64. -/
def Rules.specialToLaneRule : Prop :=
  ∀ (s : State) (i : Instr) (c : Ctx), s.acts i = some c → c.parts.op = .s2v →
    let v (l : Nat) : Nat := specialReg c (c.counted s).part.now l c.f.a.toNat
    exec i s = .next (c.gives s (fun l =>
      if c.x.wd = 1 then [(.v c.f.d.toNat, word (v l), tagInt64), (.v (c.f.d.toNat + 1), word (v l / 2 ^ 32), tagInt64)]
      else [(.v c.f.d.toNat, word (v l), tagUint32)]) 0)

/-- R124: the set of a CONV: all lanes, or bits 31 to 0 of the uniform operand. -/
def Rules.convSet (c : Ctx) (s : State) : Nat :=
  if uniformB c.x then ((c.sees s).s c.f.b.toNat).toNat else 2 ^ 32 - 1

/-- R124, completion. CONV and CONV_LONG complete when the set holds every participant and is the one recorded at the instruction,
if threads still wait there: the participants park there, the rest of the group goes on, and rendezvous that are complete end.
With no participant the group goes on. That threads whose guard is false go on is the model's reading (log entry 18). -/
def Rules.rendezvousRule : Prop :=
  ∀ (s : State) (i : Instr) (c : Ctx), s.acts i = some c → c.parts.op = .conv →
    let acting := (c.sees s).acting
    let m := Rules.convSet c s
    (acting = [] → exec i s = .next (c.goesOn s)) ∧
    (acting ≠ [] → (∀ l ∈ acting, bitNat m l ≠ 0) → (∀ r ∈ c.w.conv, r.1 = c.pc → c.w.convWaits c.pc = true → r.2 = m) →
      let parked (w : Warp) : Warp :=
        { w.onLanes acting (fun t => { t with st := .live (.parked (.conv c.size)) }) with
          conv := (c.pc, m) :: w.conv.filter (fun r => r.1 != c.pc) }
      let u := c.counted s
      let t := c.finish { u with part := u.part.onWarp c.ref parked } (fun l => if acting.contains l then c.pc else c.next)
      exec i s = .next { t with part := t.part.settle c.ref.core c.ref.slot })

end Sys2Proof

open Sys2Proof Sys2Proof.Machine in
/-- Special registers and rendezvous: specialToLaneRule and rendezvousRule, whose rules stand with them. -/
def Obligations.SpecialAndRendezvous : Prop :=
  Rules.specialToLaneRule ∧ Rules.rendezvousRule

namespace Sys2Proof

open Machine

/-! ### Control flow, R59 to R61, R151 to R158, R167 -/

/-- R59, R60, R167: the signed offset, in words, of a direct branch: D:A:B, A:B or the immediate. -/
def Rules.offset (p : Parts) : Int :=
  if p.isImm then p.imm.toInt
  else if p.op = .bra ∨ p.op = .sbra then (p.base.d ++ p.base.a ++ p.base.b).toInt
  else (p.base.a ++ p.base.b).toInt

/-- R59: the target of a direct branch, 4 bytes a word from its own PC. -/
def Rules.target (c : Ctx) : Nat := ((c.pc + 4 * Rules.offset c.parts) % 2 ^ 64).toNat

/-- R61, R167: predicate D[2:0], negated under D[5]. -/
def Rules.taken (c : Ctx) (p : Nat → Bool) : Bool := p (c.f.d.extractLsb 2 0).toNat ^^ c.f.d.getLsbD 5

/-- R59 to R61, R167, completion. BRA, BRA_LONG, BRC, BRC_LONG, SBRA, SBRA_LONG, SBRC and SBRC_LONG complete whenever they
act: the group, each thread of it under BRC, goes to the target, or to the next instruction where the condition does not
hold; nothing else changes. The low 64 bits of the target are the model's choice (log entry 10). -/
def Rules.directBranchesRule : Prop :=
  ∀ (s : State) (i : Instr) (c : Ctx), s.acts i = some c →
    let e := c.sees s
    let go (next : Nat → Nat) : State := c.finish (c.counted s) next
    (c.parts.op = .bra ∨ c.parts.op = .sbra → exec i s = .next (go (fun _ => Rules.target c))) ∧
    (c.parts.op = .brc → exec i s = .next (go (fun l => if Rules.taken c (e.p l) then Rules.target c else c.next))) ∧
    (c.parts.op = .sbrc → exec i s = .next (go (fun _ => if Rules.taken c e.q then Rules.target c else c.next)))

/-- R152, R153: a jump target that fetch accepts. -/
def Rules.fetchable (t : Int) : Bool := decide (0 ≤ t) && decide (t < 2 ^ 57) && decide (t % 4 = 0)

/-- R153: the registers that a link writes: pc + 8, tag INT64. -/
def Rules.link (c : Ctx) : List (Target × Word × Byte) :=
  [(.v c.f.d.toNat, BitVec.ofNat 32 (c.pc + 8), tagInt64),
   (.v (c.f.d.toNat + 1), BitVec.ofNat 32 ((c.pc + 8) / 2 ^ 32), tagInt64)]

/-- R152, R153: the target of a lane: the pair at A, or the PC plus the signed word at A. -/
def Rules.indirect (c : Ctx) (e : Env) (l : Nat) : Int :=
  if c.parts.op = .brx ∧ mBit c.x 0 = false then c.pc + (e.v l c.f.a.toNat).toInt
  else (Rules.joined (e.v l c.f.a.toNat) (e.v l (c.f.a.toNat + 1))).toNat

/-- R152, R153, completion. BRX, RET and RET_LONG complete when every participant's target is one that fetch accepts: the
participants go there, with the link under BRX.LINK, and the other threads of the group go on. CALL always completes: every thread
of the group links and goes to the direct target, also one that does not fetch, by the model's reading (log entry 17). -/
def Rules.indirectJumpsRule : Prop :=
  ∀ (s : State) (i : Instr) (c : Ctx), s.acts i = some c →
    let e := c.sees s
    (c.parts.op = .brx ∨ c.parts.op = .ret → (∀ l ∈ e.acting, Rules.fetchable (Rules.indirect c e l) = true) →
      let next (l : Nat) : Nat := if e.acting.contains l then (Rules.indirect c e l).toNat else c.next
      exec i s = .next (if c.parts.op = .brx ∧ mBit c.x 1 = true
        then c.wrote s (e.acting.map (fun l => laneWrites l (Rules.link c))) 0 next
        else c.finish (c.counted s) next)) ∧
    (c.parts.op = .call →
      exec i s = .next (c.wrote s (c.group.map (fun l => laneWrites l (Rules.link c))) 0 (fun _ => Rules.target c)))

/-- R152, R280: a jump with a target that fetch does not accept traps BAD_TARGET: TINFO0 names the participants whose
target fails, TADDR the low 57 bits of the lowest one's target; no register is written. -/
def Rules.badTargetsRule : Prop :=
  ∀ (s : State) (i : Instr) (c : Ctx), s.acts i = some c → (c.parts.op = .brx ∨ c.parts.op = .ret) →
    let e := c.sees s
    let bad := e.acting.filter (fun l => !Rules.fetchable (Rules.indirect c e l))
    bad ≠ [] →
    exec i s = .next ((c.counted s).raise c
      { cause := causeBadTarget, addr := (Rules.indirect c e (bad.headD 0) % 2 ^ 57).toNat, info0 := maskOf bad })

end Sys2Proof

open Sys2Proof Sys2Proof.Machine in
/-- Branches, jumps and bad targets: directBranchesRule, indirectJumpsRule and badTargetsRule, whose rules stand with them. -/
def Obligations.Branches : Prop :=
  Rules.directBranchesRule ∧ Rules.indirectJumpsRule ∧ Rules.badTargetsRule

namespace Sys2Proof

open Machine

/-- R155, completion. EXIT and EXIT_LONG complete unless they would end a warp that holds its lock (R148): the participants
exit, the rest of the group goes on, and the waits that their exit completes end. -/
def Rules.exitsRule : Prop :=
  ∀ (s : State) (i : Instr) (c : Ctx), s.acts i = some c → c.parts.op = .exit →
    let acting := (c.sees s).acting
    (c.w.lock = none ∨ acting = [] ∨ ∃ l ∈ c.w.lanesWhere (fun t => !t.isExited), l ∉ acting) →
    let u := c.counted s
    let t := c.finish { u with part := u.part.onWarp c.ref (fun w => w.onLanes acting (fun t => { t with st := .exited })) }
      (fun _ => c.next)
    exec i s = .next { t with part := (t.part.settle c.ref.core c.ref.slot).tellHalt c.ref acting c.pc }

/-- R156, R157, completion. YIELD and YIELD_LONG mark their participants and, on the herd, act as Y. NSLEEP puts to sleep
each participant whose interval is not 0, for 4 cycles a nanosecond of it, a register operand counting for at most
1,048,576 ns. Both go on at the next instruction. The wake time is exact by the model's choice (log entry 2). -/
def Rules.yieldAndSleepRule : Prop :=
  ∀ (s : State) (i : Instr) (c : Ctx), s.acts i = some c →
    let e := c.sees s
    let t := c.goesOn s
    (c.parts.op = .yield → exec i s = .next { t with part := t.part.onWarp c.ref (fun w =>
      { w.onLanes e.acting (fun x => { x with yielded := true }) with
        yPend := w.yPend || (!e.acting.isEmpty && w.sprint.isNone) }) }) ∧
    (c.parts.op = .nsleep →
      let ns (l : Nat) : Nat := if mBit c.x 12 then mBits c.x 11 0 else min 1048576 (e.opB c.f c.x l 0).toNat
      exec i s = .next { t with part := t.part.onWarp c.ref (fun w =>
        { w with threads := w.threads.zipIdx.map (fun q =>
          if e.acting.contains q.2 && decide (0 < ns q.2)
          then { q.1 with st := .live (.asleep ((c.counted s).part.now + 4 * ns q.2)) } else q.1) }) })

/-- R158, R235: the code and the lanes of a software trap: TRAPL names its participants, TRAP the group when its guard
holds. -/
def Rules.softLanes (c : Ctx) (e : Env) : List Nat := if c.parts.op = .trap then c.group else e.acting

/-- R158, R235, R275, completion. BKPT and BKPT_LONG raise BKPT with their code at their own PC, in every mode; TRAPL and
TRAP raise SW_TRAP with theirs, resuming after the instruction: precisely in user mode, and in trap mode, with fewer than
seven traps waiting, as the newest record of the trap queue, going on. With no lane to name, all only go on. -/
def Rules.softwareTrapsRule : Prop :=
  ∀ (s : State) (i : Instr) (c : Ctx), s.acts i = some c →
    let e := c.sees s
    let u := c.counted s
    let lanes := Rules.softLanes c e
    (c.parts.op = .bkpt → exec i s = .next (if e.acting = [] then c.goesOn s
      else u.raise c { cause := causeBkpt, info0 := mBits c.x 7 0 })) ∧
    (c.parts.op = .trapl ∨ c.parts.op = .trap →
      exec i s = .next (
        if e.acting = [] then c.goesOn s
        else if c.w.trapMode = true ∧ c.w.tqueue.length < 7 then
          let r : TrapRec := { imp := false, cause := causeSwTrap, lanes := maskOf lanes, epc := c.next, addr := 0,
                               info0 := word (mBits c.x 11 0), info1 := 0 }
          c.finish { u with part := u.part.onWarp c.ref (fun w => { w with tqueue := w.tqueue ++ [r] }) } (fun _ => c.next)
        else u.raise c { cause := causeSwTrap, lanes := some (maskOf lanes), after := true, info0 := mBits c.x 11 0,
                         moved := c.group }))

end Sys2Proof

open Sys2Proof Sys2Proof.Machine in
/-- Exit, yield, sleep and software traps: exitsRule, yieldAndSleepRule and softwareTrapsRule, whose rules stand with them. -/
def Obligations.ThreadControl : Prop :=
  Rules.exitsRule ∧ Rules.yieldAndSleepRule ∧ Rules.softwareTrapsRule


open Sys2Proof Sys2Proof.Machine in
/-- R56, completion. A word of opcode 0x7F in either set decodes to ILLEGAL_WORD whatever its other bits hold and whatever word
follows it, 0xFFFF_FFFF among them, and ILLEGAL_WORD, when it issues and nothing before it holds it, traps ILL_OPC for the whole
issuing group, with the base word. The word 0 is a lane NOP in short form. -/
def Obligations.IllegalWords : Prop :=
  (∀ w x : Word, w.extractLsb 26 20 = 0x7F → decodeWords w x = .ok (.illegalWord w)) ∧
  (∀ x : Word, decodeWords 0xFFFFFFFF x = .ok (.illegalWord 0xFFFFFFFF)) ∧
  (∀ x : Word, decodeWords 0 x = .ok (.nop ⟨false, false, 0, 0, 0, 0, false⟩)) ∧
  ∀ (s : State) (w : Word) (c : Ctx), s.ctx? ⟨.nop, ⟨false, false, 0, 0, 0, 0, false⟩, .short⟩ = some c →
    c.heldFirst s = none → c.early = false →
    exec (.illegalWord w) s = .next (s.raise c { cause := causeIllOpc, lanes := some (maskOf c.group), info0 := w.toNat })

namespace Sys2Proof

open Machine

/-! ### Uniform scalar instructions, R159 to R173 -/

/-- R159: a uniform instruction has its effect once, when its guard holds. -/
def Rules.onceIf (c : Ctx) (s : State) (t : State) : State := if c.on (c.counted s) then t else c.goesOn s

/-- R161 to R164, R171: the registers a scalar instruction writes. -/
def Rules.scalar (c : Ctx) (s : State) (e : Env) : Option (List (Target × Word)) :=
  let a := e.s c.f.a.toNat
  let b := e.s c.f.b.toNat
  let k := e.s c.x.c.toNat
  let ra (j : Nat) : Word := e.s (c.f.a.toNat + j)
  let rb (j : Nat) : Word := e.s (c.f.b.toNat + j)
  -- single registers or pairs, as 64-bit values
  let wide (r : BitVec 6) (w : BitVec 2) : DWord :=
    if w = 1 then Rules.joined (e.s r.toNat) (e.s (r.toNat + 1)) else (e.s r.toNat).setWidth 64
  let sum (v : DWord) : List (Target × Word) :=
    sGroup c.f.d c.x.wd (fun j => if j = 0 then v.extractLsb 31 0 else v.extractLsb 63 32)
  let one (v : Word) : List (Target × Word) := [(.s c.f.d.toNat, v)]
  match c.parts.op with
  | .sadd => some (sum (wide c.f.a c.x.wa + wide c.f.b c.x.wb))
  | .ssub => some (sum (wide c.f.a c.x.wa - wide c.f.b c.x.wb))
  | .smul => some (one (if !mBit c.x 1 then a * b
      else if mBit c.x 0 then (a.setWidth 64 * b.setWidth 64).extractLsb 63 32
      else (a.signExtend 64 * b.signExtend 64).extractLsb 63 32))
  | .smad => some (one (a * b + k))
  | .sminmax =>
    let less := if mBit c.x 0 then a.ule b else a.sle b
    some (one (if mBit c.x 1 then (if less then b else a) else (if less then a else b)))
  | .sand => some (sGroup c.f.d c.x.wd (fun j => ra j &&& rb j))
  | .sor => some (sGroup c.f.d c.x.wd (fun j => ra j ||| rb j))
  | .sxor => some (sGroup c.f.d c.x.wd (fun j => ra j ^^^ rb j))
  | .sshl => some (one (a <<< (b.toNat % 32)))
  | .sshr => some (one (if mBit c.x 0 then a.sshiftRight (b.toNat % 32) else a >>> (b.toNat % 32)))
  | .smov => some (sGroup c.f.d c.x.wd ra)
  | .smovi => some (one c.parts.imm)
  | .saddi => some (one (a + c.parts.imm))
  | .sset =>
    let va : DWord := wide c.f.a c.x.wa
    let vb : DWord := wide c.f.b c.x.wa
    let sg (v : DWord) : Int := if c.x.wa = 1 then v.toInt else (v.setWidth 32).toInt
    let cond := if mBit c.x 7 then Rules.cond (mBits c.x 3 0) va.toNat vb.toNat
      else Rules.cond (mBits c.x 3 0) (sg va) (sg vb)
    some [(.q c.f.d.toNat, wordOfBool (Rules.combined c (e.q c.x.c.toNat) cond))]
  | .ssel => some (sGroup c.f.d c.x.wd (fun j => if e.q c.x.c.toNat != mBit c.x 0 then ra j else rb j))
  | .s2s =>
    let v := specialReg c (c.counted s).part.now 0 c.f.a.toNat
    some (sGroup c.f.d c.x.wd (fun j => if j = 0 then word v else word (v / 2 ^ 32)))
  | .bufmk =>
    let perm : Word := (if mBit c.x 0 then 0x02000000 else 0) ||| (if mBit c.x 1 then 0x04000000 else 0)
      ||| (if mBit c.x 2 then 0x08000000 else 0)
    some (sGroup c.f.d 2 (fun j => match j with
      | 0 => a
      | 1 => (e.s (c.f.a.toNat + 1) &&& 0x01FFFFFF) ||| perm ||| (word (mBits c.x 4 3) <<< 28)
      | 2 => b
      | _ => k))
  | _ => none

end Sys2Proof

open Sys2Proof Sys2Proof.Machine in
/-- R161 to R164, R171, completion. SADD, SADD_LONG, SSUB, SSUB_LONG, SMUL, SMUL_LONG, SMAD, SMIN, SMIN_SMAX_LONG, SAND,
SAND_LONG, SOR, SOR_LONG, SXOR, SXOR_LONG, SSHL, SSHL_LONG, SSHR, SSHR_LONG, SSET, SSEL, SMOV, SMOV_LONG, SMOVI, SADDI,
S2S, S2S_LONG and BUFMK complete whenever they act: when the guard holds the warp's registers get the values of the rules,
and else nothing is written; the group goes on. -/
def Obligations.ScalarArithmetic : Prop :=
  ∀ (s : State) (i : Instr) (c : Ctx), s.acts i = some c → (Rules.scalar c s (c.sees s)).isSome →
    exec i s = .next (Rules.onceIf c s (c.givesWarp s ((Rules.scalar c s (c.sees s)).getD [])))

namespace Sys2Proof

open Machine

/-- R165, completion. V2S completes when its guard does not hold, when the lane it names does not act (q becomes 0 and
nothing else is written), and when that lane's registers have no outstanding write: the words go to d, and q becomes 1. -/
def Rules.laneToUniformRule : Prop :=
  ∀ (s : State) (i : Instr) (c : Ctx), s.acts i = some c → c.parts.op = .v2s →
    let e := c.sees s
    let q := Target.q c.x.c.toNat
    let lane := (if mBit c.x 5 then e.acting.min? else some (mBits c.x 4 0)).filter e.acting.contains
    (lane = none → exec i s = .next (Rules.onceIf c s (c.givesWarp s [(q, 0)]))) ∧
    (∀ l ∈ lane, (∀ r ∈ groupRegs c.f.a c.x.wa, c.w.hits l (.v r) = []) →
      exec i s = .next (Rules.onceIf c s
        (c.givesWarp s (sGroup c.f.d c.x.wd (fun j => e.v l (c.f.a.toNat + j)) ++ [(q, 1)]))))

/-- R172: the four words of a buffer record under BUFSET with operand a; none for an .ADV of a record that has neither a
stride nor whole blocks to advance by. -/
def Rules.bufset (c : Ctx) (e : Env) (a : Nat) : Option (List Word) :=
  let w (j : Nat) : Word := e.s (c.f.d.toNat + j)
  let put (v : Word) (hi lo : Nat) (x : Nat) : Word :=
    (v &&& ~~~(Rules.low (hi + 1 - lo) <<< lo)) ||| ((BitVec.ofNat 32 x &&& Rules.low (hi + 1 - lo)) <<< lo)
  let base : Nat := (w 0).toNat + 2 ^ 32 * ((w 1).extractLsb 24 0).toNat
  let moved (bytes : Nat) : List Word :=
    let b := (base + bytes) % 2 ^ 57
    [BitVec.ofNat 32 b, put (w 1) 24 0 (b / 2 ^ 32), BitVec.ofNat 32 ((w 2).toNat - a), w 3]
  match mBits c.x 2 0 with
  | 0 => some [BitVec.ofNat 32 a, put (w 1) 24 0 (a / 2 ^ 32), w 2, w 3]
  | 1 => some [w 0, w 1, BitVec.ofNat 32 a, w 3]
  | 2 => some [w 0, w 1, w 2, put (w 3) 15 0 a]
  | 3 => some [w 0, w 1, w 2, put (w 3) 20 16 a]
  | 4 => some [w 0, w 1, w 2, put (w 3) 24 21 a]
  | 5 => some [w 0, put (w 1) 29 25 a, w 2, w 3]
  | _ =>
    let stride := ((w 3).extractLsb 15 0).toNat
    let t := e.fmt.entry ((w 3).extractLsb 20 16).toNat
    if stride ≠ 0 then some (moved (a * stride))
    else if t.valid = true ∧ t.kind = kindBlock ∧ a % 256 = 0 then some (moved (a / 256 * groupBytes t))
    else none

/-- R172, completion. BUFSET completes when its guard does not hold, and when the record can take the change: the quad d
gets it. An .ADV that cannot be made traps BUF_BAD naming d. -/
def Rules.bufferFieldsRule : Prop :=
  ∀ (s : State) (i : Instr) (c : Ctx), s.acts i = some c → c.parts.op = .bufset →
    let e := c.sees s
    let a : Nat := if c.x.wa = 1 then (Rules.joined (e.s c.f.a.toNat) (e.s (c.f.a.toNat + 1))).toNat
      else (e.s c.f.a.toNat).toNat
    exec i s = .next (Rules.onceIf c s (match Rules.bufset c e a with
      | some ws => c.givesWarp s (sGroup c.f.d 2 (fun j => nth ws j 0))
      | none => (c.counted s).raise c { cause := causeBufBad, info0 := c.f.d.toNat }))

/-- R173, completion. LAYOUT completes whenever it acts: with its guard, .RD reads the six words of the slot and two
zeros into eight registers, and else the slot takes the first six of eight registers. -/
def Rules.layoutSlotsRule : Prop :=
  ∀ (s : State) (i : Instr) (c : Ctx), s.acts i = some c → c.parts.op = .layout →
    let e := c.sees s
    let n := mBits c.x 2 0
    let u := c.counted s
    exec i s = .next (Rules.onceIf c s (
      if mBit c.x 3 then c.givesWarp s ((nth c.g.layouts n [] ++ [0, 0]).zipIdx.map (fun (q : Word × Nat) => (Target.s (c.f.d.toNat + q.2), q.1)))
      else c.finish { u with part := u.part.onWg c.ref.core c.ref.slot (fun g =>
        { g with layouts := setNth g.layouts n ((List.range 6).map (fun j => e.s (c.f.a.toNat + j))) }) } (fun _ => c.next)))

end Sys2Proof

open Sys2Proof Sys2Proof.Machine in
/-- Buffer records and layout slots: bufferFieldsRule and layoutSlotsRule, whose rules stand with them. -/
def Obligations.BufferRecords : Prop :=
  Rules.bufferFieldsRule ∧ Rules.layoutSlotsRule

namespace Sys2Proof

open Machine

/-- R166, completion. SBCAST completes whenever it acts: with its guard, every target warp of the workgroup gets the words
of a as an outstanding variable-latency write of the registers d, the issuing warp's own under its number. -/
def Rules.broadcastRule : Prop :=
  ∀ (s : State) (i : Instr) (c : Ctx), s.acts i = some c → c.parts.op = .sbcast →
    let e := c.sees s
    let u := c.counted s
    let o := u.part.oracle
    let lanes := [laneWrites warpLane ((sGroup c.f.d c.x.wd (fun j => e.s (c.f.a.toNat + j))).map (fun q => (q.1, q.2, 0)))]
    let give (w : Warp) (k : Nat) : Warp :=
      if !(mBit c.x 4 || k == mBits c.x 3 0) then w
      else if k = c.ref.warp then
        w.addPend o { id := w.seq, pc := c.pc, foreign := false, due := none, lanes := lanes, flags := 0 }
      else w.addPend o { id := foreignId o, pc := c.pc, foreign := true, due := none, lanes := lanes, flags := 0 }
    exec i s = .next (Rules.onceIf c s (c.finish { u with part := u.part.onWg c.ref.core c.ref.slot (fun g =>
      { g with warps := g.warps.zipIdx.map (fun q => give q.1 q.2) }) } (fun _ => c.next)))

/-- R168, R169: the count of a BAR: WARPS, or every warp of the workgroup. -/
def Rules.barCount (c : Ctx) : Nat := if mBits c.x 8 4 = 0 then c.g.warps.length else mBits c.x 8 4

/-- R169: a barrier whose count is open or the same, and not above the workgroup's warps. -/
def Rules.barOk (c : Ctx) : Bool :=
  let b := nth c.g.bars (mBits c.x 3 0) Barrier.start
  decide (Rules.barCount c ≤ c.g.warps.length) && (b.count.isNone || b.count == some (Rules.barCount c))

/-- R168 to R170, completion. BAR completes when its guard does not hold, and when its count is one the barrier may take and the
warp's accesses have been performed: the threads of the group arrive, under BAR.ARRIVE they go on and else park there, and
barriers that are complete flip, once what SBCAST has written to other warps stands in them. A count it may not take traps
BAR_MISUSE. -/
def Rules.barriersRule : Prop :=
  ∀ (s : State) (i : Instr) (c : Ctx), s.acts i = some c → c.parts.op = .bar →
    let u := c.counted s
    let id := mBits c.x 3 0
    let wait := !mBit c.x 9
    let arrive (g : Wg) : Wg :=
      let g := { g with bars := setNth g.bars id ((nth c.g.bars id Barrier.start).arrive (Rules.barCount c)
        (c.group.map (fun l => c.ref.warp * 32 + l))) }
      if wait then g.onWarp c.ref.warp (fun w => w.onLanes c.group (fun t =>
        { t with st := .live (.parked (.bar id c.size)), since := u.part.now })) else g
    let t := c.finish { u with part := u.part.onWg c.ref.core c.ref.slot arrive } (fun _ => if wait then c.pc else c.next)
    (Rules.barOk c = false → exec i s = .next (Rules.onceIf c s (u.raise c { cause := causeBarMisuse, info0 := id }))) ∧
    (Rules.barOk c = true → u.part.quietOf c.ref = true →
      exec i s = .next (Rules.onceIf c s { t with part := t.part.settle c.ref.core c.ref.slot }))

end Sys2Proof

open Sys2Proof Sys2Proof.Machine in
/-- V2S, SBCAST and BAR: laneToUniformRule, broadcastRule and barriersRule, whose rules stand with them. -/
def Obligations.LaneAndUniform : Prop :=
  Rules.laneToUniformRule ∧ Rules.broadcastRule ∧ Rules.barriersRule

namespace Sys2Proof

open Machine

/-! ### Warps that leave the sprinter or stop -/

/-- R150, R337: a warp without the instructions that have issued on the sprinter and not retired: its threads stand again at the
oldest of them that each was to execute. Those that stand once issued, by the model's reading (log entry 38), stay. -/
def Rules.discarded (w : Warp) : Warp :=
  let gone := w.pend.filter (fun e => !e.foreign && !e.firm)
  let back (q : Thread × Nat) : Thread := match gone.find? (fun e => e.group.contains q.2) with
    | none => q.1
    | some e => { q.1 with pc := e.pc, retry := false, begun := false }
  if w.sprint = none then w
  else { w with threads := w.threads.zipIdx.map back, pend := w.pend.filter (fun e => e.foreign || e.firm) }

/-- R36, R50, R337: a warp back on the herd. Results of fixed latency of what stands commit with it, but those that a format
predicate is to see. -/
def Rules.backOnHerd (w : Warp) : Warp :=
  let v := (Rules.discarded w).commitWhere (fun e => e.due.isSome && e.raised.isEmpty)
  if w.sprint = none then w else { v with sprint := none, kPark := v.pend.any (fun e => e.covered) }

/-- R36, R279: a warp that has stopped after n instructions past a halt signal; a promoted one is back on the herd. -/
def Rules.stopped (w : Warp) (bs : List HaltBy) (n : Nat) : Warp :=
  let w := Rules.backOnHerd w
  { w with threads := w.threads.map (fun t => bs.foldl Thread.halt t), haltCause := causeSibHalt, tskid := n, skid := none,
           ownHalt := w.ownHalt || bs.contains .watch }

/-! ### What watch predicates do, R238 to R241 -/

/-- R239: bits hi to lo of word i of a definition. -/
def Rules.defn (d : Predicate) (i hi lo : Nat) : Nat := ((d.words[i]?).getD 0).toNat / 2 ^ lo % 2 ^ (hi + 1 - lo)

/-- R239: the kind of a definition and its action. -/
def Rules.kindOf (d : Predicate) : Nat := Rules.defn d 0 3 0
def Rules.actionOf (d : Predicate) : Nat := Rules.defn d 0 10 8

/-- R241: a predicate that has counted a match, and whether its action is taken: under ACTION 0 never, under any other when the
count reaches THRESH (0 as 1), from which it returns to 0. -/
def Rules.counts (d : Predicate) : Predicate × Bool :=
  let n := min (2 ^ 32 - 1) (d.count + 1)
  let acts := decide (Rules.actionOf d ≠ 0) && decide (max 1 (Rules.defn d 7 23 0) ≤ n)
  ({ d with count := if acts then 0 else n, fired := true }, acts)

/-- R239, R240: a word compares with VALUE as CMP asks, under MASKEQ and for kind 3 by the watched bytes of the word at a. -/
def Rules.compares (d : Predicate) (a : Nat) (w : Word) : Bool :=
  let byte (i : Nat) : Nat := if (Rules.defn d 4 15 0).testBit ((a - a % 4 + i) % 16) then 255 * 256 ^ i else 0
  let masked := Rules.kindOf d = 3 ∨ Rules.defn d 0 15 13 = 6
  let mask : Word := if masked then BitVec.ofNat 32 (byte 0 + byte 1 + byte 2 + byte 3) else BitVec.allOnes 32
  let x := w &&& mask
  let y := (d.words[5]?).getD 0 &&& mask
  let below (a b : Word) : Bool := if Rules.defn d 0 16 16 = 1 then a.slt b else a.ult b
  match Rules.defn d 0 15 13 with
  | 0 => decide (x = y)
  | 1 => decide (x ≠ y)
  | 2 => below x y
  | 3 => !below y x
  | 4 => below y x
  | 5 => !below x y
  | 6 => decide (x = y)
  | _ => false

/-- R238, R240, R244: the predicates that an instruction of the workgroup in a slot meets at its issue, by number. -/
def Rules.armed (k : Core) (slot : Nat) : List (Nat × Predicate) :=
  ((k.oldPreds.getD k.preds).zipIdx.filter (fun q => q.1.enabled && k.inScope q.1 slot)).map (fun q => (q.2, q.1))

/-- R240: the lowest watched byte of an access of one lane, whose word passes the comparison of kind 3, with its word. -/
def Rules.hitAt (d : Predicate) (x : LaneAccess) : Option (Nat × Word) :=
  let from_ := Rules.defn d 1 31 0 + 2 ^ 32 * Rules.defn d 2 24 0
  let word (a : Nat) : Word :=
    BitVec.ofNat 32 (leNat ((List.range 4).map (fun i => ((x.bytes.find? (fun b => b.1 == a - a % 4 + i)).map (·.2)).getD 0)))
  let watched (a : Nat) : Bool := decide (from_ ≤ a) && decide (a < from_ + Rules.defn d 3 31 0) &&
    (Rules.defn d 4 15 0).testBit (a % 16) && (Rules.kindOf d != 3 || Rules.compares d a (word a))
  ((x.bytes.map (·.1)).filter watched).min?.map (fun a => (a, word a))

/-- R240: the match of a data or value predicate with the performed lanes of an access (bit 0 of ACCESS for loads, 1 for stores, 2
for atomics, 3 for the scratchpad), by the lanes that are not suppressed. -/
def Rules.accessedBy (c : Ctx) (bit : Nat) (spad : Bool) (xs : List LaneAccess) (q : Nat × Predicate) : Option Match :=
  let d := q.2
  let by_ := xs.filter (fun x => !c.suppressed x.lane && (Rules.defn d 6 31 0).testBit x.lane && (Rules.hitAt d x).isSome)
  if (Rules.kindOf d = 2 ∨ Rules.kindOf d = 3) ∧ (Rules.defn d 0 7 4).testBit bit = true ∧
    (Rules.defn d 0 7 4).testBit 3 = spad then
    (by_.head?.bind (Rules.hitAt d)).map (fun h => ⟨q.1, d, by_.map (·.lane), h.1, h.2⟩)
  else none

/-- R239, R240: the match of a format predicate at a PC with the flags that lanes raise, which its word names. -/
def Rules.flaggedBy (pc : Nat) (raised : List (Nat × Flags)) (q : Nat × Predicate) : Option Match :=
  let d := q.2
  let from_ := Rules.defn d 1 31 0 + 2 ^ 32 * Rules.defn d 2 24 0
  let len := Rules.defn d 3 31 0
  let fexc (f : Flags) : Nat := ([7, 2, 3, 4, 5, 6].map (fun i => f.getLsbD i)).zipIdx.foldl (fun n b => n + if b.1 then 2 ^ b.2 else 0) 0
  let by_ := raised.filter (fun r => (Rules.defn d 6 31 0).testBit r.1 && (fexc r.2 &&& Rules.defn d 4 21 16) != 0)
  if Rules.kindOf d = 4 ∧ (len = 0 ∨ from_ ≤ pc ∧ pc < from_ + len) ∧ by_ ≠ [] then
    some ⟨q.1, d, by_.map (·.1), 0, BitVec.ofNat 32 (fexc (orFlags (by_.map (·.2))) &&& Rules.defn d 4 21 16)⟩
  else none

/-- The matches of one issue are of different predicates, with the definitions that the core holds, and actions that R239 allows.
-/
def Rules.current (p : Part) (core : Nat) (ms : List Match) : Prop :=
  (ms.map (·.pred)).Nodup ∧ ∀ m ∈ ms, ((p.core? core).bind (fun k => k.preds[m.pred]?)) = some m.by_ ∧ Rules.actionOf m.by_ ≤ 5

/-- R241, R386: the matches of one issue of a group counted, and the record of each of ACTION 1 that acts, with the matched
address of an access, else the PC. -/
def Rules.evaluated (p : Part) (r : WarpRef) (group : List Nat) (pc : Nat) (ms : List Match) : Part :=
  let count (q : Predicate × Nat) : Predicate := if ms.any (fun m => m.pred == q.2) then (Rules.counts q.1).1 else q.1
  let launch := ((p.wg? r.core r.slot).map (·.launch)).getD 0
  let record (p : Part) (m : Match) : Part :=
    let kind := Rules.kindOf m.by_
    p.trace r.core (m.by_.owner.getD r.slot) (traceEntry p.gtime (if kind = 2 ∨ kind = 3 then m.addr else pc) launch (maskOf group) 3
      r.core (r.warp + 16 * m.pred) kind m.value)
  (ms.filter (fun m => (Rules.counts m.by_).2 && Rules.actionOf m.by_ == 1)).foldl record
    (p.onCore r.core (fun k => { k with preds := k.preds.zipIdx.map count }))

/-- R241: the match that stops an issue: of those whose action is taken the strongest, halt workgroup, trap, halt warp, halt
thread, and of those the predicate of the lowest number. -/
def Rules.stop (ms : List Match) : Option Match :=
  [5, 2, 4, 3].findSome? (fun a => ms.find? (fun m => (Rules.counts m.by_).2 && Rules.actionOf m.by_ == a))

/-- R241: the record of a trap by a match. -/
def Rules.stopRecord (m : Match) (lanes : List Nat) (epc : Nat) : TrapRec :=
  let kind := Rules.kindOf m.by_
  { imp := false, cause := if kind = 1 then causeCodeBreak else causeWatch, lanes := maskOf lanes, epc := epc, addr := m.addr,
    info0 := word (m.pred + 16 * kind), info1 := m.value }

/-- R279: a warp as the signal of a halt leaves it: one with no ready thread or parked by K (R50) stops at once with skid 0, and
so does one with a trap queued or in trap mode, by the model's choice (log entry 8); any other begins its skid, or goes on with
it. -/
def Rules.signalled (by_ : HaltBy) (w : Warp) : Warp :=
  if w.nextPc.isNone || w.kPark || !w.tqueue.isEmpty || w.trapMode then Rules.stopped w [by_] 0
  else
    { w with skid := some (match w.skid with
        | none => ⟨0, 0, [by_]⟩
        | some k => { k with by_ := if k.by_.contains by_ then k.by_ else k.by_ ++ [by_] }) }

/-- R241, R377: what the action of a match does at its stop point: a precise trap of some lanes with the resume PC; or the
matching threads, the warp, or the workgroup halt, told on the debug channel (R383), and each other warp of a halted workgroup
gets the signal to halt (R279). -/
def Rules.stops (p : Part) (tbase : Nat) (r : WarpRef) (m : Match) (lanes : List Nat) (epc : Nat) : Part :=
  let act := Rules.actionOf m.by_
  let halt (ls : List Nat) (w : Warp) : Warp :=
    let w := Rules.backOnHerd w
    { w with threads := w.threads.zipIdx.map (fun q => if ls.contains q.2 then q.1.halt .watch else q.1), ownHalt := true }
  let tell (p : Part) : Part := (p.debugEvent r (maskOf m.lanes) (act - 2) m.pred epc).tellHalt r m.lanes epc
  if act = 2 then p.onWg r.core r.slot (fun g => g.takeTrap tbase r.warp (Rules.stopRecord m lanes epc))
  else if act = 3 then tell (p.onWarp r (halt m.lanes))
  else if act = 4 then tell (p.onWarp r (halt (List.range 32)))
  else tell (p.onWg r.core r.slot (fun g => { g with
    warps := g.warps.zipIdx.map (fun q => if q.2 = r.warp then halt (List.range 32) q.1 else Rules.signalled .watch q.1) }))

/-! ### Memory instructions, R127 to R150 -/

/-- No armed data watch of the core looks at these accesses (R240, R241). -/
def Rules.unwatched (c : Ctx) (s : State) (bit : Nat) (spad : Bool) (xs : List LaneAccess) : Bool :=
  match s.part.core? c.ref.core with
  | none => true
  | some k => (accessMatches (k.activePreds c.ref.slot) bit spad (c.seen xs)).isEmpty

/-- The results of an instruction stand, also where its warp leaves the sprinter before they commit: of a load that has met a
watch predicate (R376), or of which some lanes trap. -/
def Rules.stood (c : Ctx) (p : Part) : Part :=
  p.onWarp c.ref (fun w => { w with pend := w.pend.map (fun e => if e.id = c.w.seq ∧ e.foreign = false then { e with firm := true } else e) })

/-- R244: the predicates that a load meets: those of its issue, which one held at issue for its value keeps. -/
def Rules.loadArmed (c : Ctx) (p : Part) : List (Nat × Predicate) :=
  match c.w.watchAt.filter (fun q => c.retried && q.1 == c.pc) with
  | some q => q.2
  | none => (Rules.armed ((p.core? c.ref.core).getD Core.reset) c.ref.slot).filter (fun q => decide (2 ≤ Rules.kindOf q.2))

/-- R241: some lane of a load meets the address part of an armed load predicate, and the load is held until its value is
delivered. -/
def Rules.loadWaits (c : Ctx) (p : Part) (plan : Plan) : Bool :=
  (Rules.loadArmed c p).any (fun q =>
    let d := q.2
    let from_ := Rules.defn d 1 31 0 + 2 ^ 32 * Rules.defn d 2 24 0
    let watched (a : Nat) : Bool :=
      decide (from_ ≤ a) && decide (a < from_ + Rules.defn d 3 31 0) && (Rules.defn d 4 15 0).testBit (a % 16)
    (Rules.kindOf d == 2 || Rules.kindOf d == 3) && (Rules.defn d 0 7 4).testBit 0 && !(Rules.defn d 0 7 4).testBit 3 &&
      plan.ok.any (fun o => !c.suppressed o.piece.lane && (Rules.defn d 6 31 0).testBit o.piece.lane &&
        (List.range o.piece.len).any (fun i => watched (o.piece.va + i))))

/-- R240: the matches of a load with the data of its lanes and, for a decoding one, the flags that they raise. -/
def Rules.loadMatches (c : Ctx) (p : Part) (xs : List LaneAccess) (raised : List (Nat × Flags)) : List Match :=
  (Rules.loadArmed c p).flatMap (fun q =>
    (Rules.accessedBy c 0 false xs q).toList ++ (Rules.flaggedBy c.pc (raised.filter (fun r => !c.suppressed r.1)) q).toList)

/-- R240: the matches of another access. -/
def Rules.matches (c : Ctx) (p : Part) (bit : Nat) (spad : Bool) (xs : List LaneAccess) : List Match :=
  (Rules.armed ((p.core? c.ref.core).getD Core.reset) c.ref.slot).filterMap (Rules.accessedBy c bit spad xs)

/-- R241: the lanes that a stop holds before their writes commit. -/
def Rules.heldBy (ms : List Match) : List Nat := ((Rules.stop ms).map (·.lanes)).getD []

/-- R241, R376: the matches of a load counted; its results stand. -/
def Rules.loadEvaluated (c : Ctx) (p : Part) (ms : List Match) : Part :=
  if ms = [] then p else Rules.evaluated (Rules.stood c p) c.ref c.group c.pc ms

/-- R145: the state in which an access may go on after the release it asks for: its own when it asks for none. -/
def Rules.released (c : Ctx) (s : State) (needed : Bool) (scope : Nat) : Option State :=
  if !needed then some s
  else
    match s.part.release c.ref c.pc scope (s.part.quietOf c.ref) with
    | .done p => some { s with part := p }
    | _ => none

/-- A piece of every lane that is in bounds, in the order of the lanes. -/
def Rules.pieces (lanes : List LanePieces) : List Piece := (lanes.filter (·.inb)).flatMap (·.pieces)

/-- The lanes of a global access that the record admits: it passes the checks of R33 under a permission and of the
format, and no lane traps (R129, R130). -/
def Rules.admits (r : Rec) (e : Env) (c : Ctx) (allowed : Rec → Bool) (format : Option TrapInfo) (align : Nat)
    (lanes : List LanePieces) : Bool :=
  (r.check e.fmt allowed c.group).isNone && format.isNone && (laneTrap r align lanes).isNone

/-- A global access goes ahead at its issue: nothing earlier of the warp holds it (R145, R282), the Vexlink engine has room for it
(R341), and a route to every peer it reaches is left (R367). -/
def Rules.ahead (c : Ctx) (s : State) (isLoad : Bool) (ps : List Piece) (plan : Plan) : Bool :=
  (s.part.accessHold c.ref isLoad ps plan).isNone && (plan.cutOff s.part).isEmpty

/-- R281: the lanes of an access whose pages or keys deny it. -/
def Rules.deniedLanes (plan : Plan) : List Nat := (plan.denied.map (fun d => d.1.lane)).eraseDups

/-- R241, R280, R281: the end of an access whose other lanes have been performed. With nothing denied the group goes on, and the
stop of a watch is taken; else the precise trap of the lowest failing address (PROT, or KEY_BAD with its key) names the denied
lanes, which stay at the instruction with no effect while the others go on. Lanes that a stop holds before the access stay too.
Where both are traps, the watch's waits behind the other; that is the model's reading (log entry 12). -/
def Rules.concluded (c : Ctx) (t : State) (plan : Plan) (stop : Option Match) (held : List Nat) (epc : Nat) : State :=
  let lowest := ((plan.denied.map (fun d => d.1.va)).min?).getD 0
  let lanes := maskOf (plan.denied.map (fun d => d.1.lane))
  let named (m : Match) : List Nat := if Rules.kindOf m.by_ = 4 then c.group else m.lanes
  let take (t : State) : State := match stop with
    | none => t
    | some m => { t with part := Rules.stops t.part c.tbase c.ref m (named m) epc }
  match plan.denied.find? (fun d => d.1.va == lowest) with
  | none => take (c.finish t (fun l => if held.contains l then c.pc else c.next))
  | some d =>
    let trap : TrapInfo := { cause := d.2.1, lanes := some lanes, addr := lowest, info0 := lanes, info1 := d.2.2,
                             moved := c.group.filter (fun l => !(Rules.deniedLanes plan).contains l && !held.contains l) }
    let u : State := { t with part := Rules.stood c t.part }
    match stop with
    | none => u.raise c trap
    | some m =>
      if Rules.actionOf m.by_ = 2 then
        let v := u.raise c trap
        { v with part := v.part.onWarp c.ref (fun w => { w with tqueue := w.tqueue ++ [Rules.stopRecord m (named m) epc] }) }
      else (take u).raise c trap

/-- R131: the lanes that a load accesses: those in bounds, and under .DEC all of them. -/
def Rules.loadLanes (c : Ctx) (e : Env) : List LoadLane :=
  (ldLanes c.f c.x e (e.record c.f.b.toNat)).filter (fun l => l.at_.inb || mBit c.x 7)

/-- R131, R35: the lines of a load. -/
def Rules.loadPlan (c : Ctx) (e : Env) (u : State) : Plan :=
  u.plan c.g.job .read ((Rules.loadLanes c e).flatMap (fun l => l.at_.pieces))

/-- R129, R131: the record, the format and the lanes of a load pass, the access goes ahead, and its lines are sound where it needs
its value at issue. -/
def Rules.loadGoes (c : Ctx) (e : Env) (u : State) : Bool :=
  let r := e.record c.f.b.toNat
  let lanes := ldLanes c.f c.x e r
  let plan := Rules.loadPlan c e u
  let acq := if semField c.x = 1 then some (scopeField c.x) else none
  Rules.admits r e c (fun r => r.r) (ldFormat c.x e.fmt r)
      (if mBit c.x 7 then 1 else min 16 (accessBytes (mBits c.x 6 5) (2 ^ c.x.wd.toNat))) (lanes.map (·.at_)) &&
    Rules.ahead c u true ((Rules.loadLanes c e).flatMap (fun l => l.at_.pieces)) plan &&
    (!(acq.isSome || mBit c.x 7 || Rules.loadWaits c u.part plan) || (u.part.poisonedPieces c.ref.core acq plan.ok).isEmpty)

/-- R131, R132, R145, R240, R241, R265, R281, completion. LD completes with no participant, and where the record, the format and
the lanes pass, the access goes ahead, and a load that needs its value at issue (an acquire, .DEC, one that meets a watch by
address) has it: the lanes' registers stand as one outstanding write of what the L1 or, for an acquire, the slice of its scope
holds, or of what the host or a peer has answered, lanes whose answer failed or that are denied apart, which trap (concluded); a
plain load asks for absent sectors, its requests leave for host and peers, lines that are not present are logged, and an acquire
at .CL or wider drops the L1's clean words, one at .WG those of the lines it has read (the model's reading, log entry 20). Its
matches are counted with the value delivered, and a stop comes after it, at the next instruction. -/
def Rules.loadsRule : Prop :=
  ∀ (s : State) (i : Instr) (c : Ctx), s.acts i = some c → c.parts.op = .ld →
    let e := c.sees s
    let u := c.counted s
    let x := c.x
    let k := (u.part.core? c.ref.core).getD Core.reset
    let r := e.record c.f.b.toNat
    let plan := Rules.loadPlan c e u
    let acq := if semField x = 1 then some (scopeField x) else none
    let now := acq.isSome || mBit x 7 || Rules.loadWaits c u.part plan
    let near := plan.ok.filter (fun q => isDevice q.loc)
    let far := plan.ok.filter (fun q => !isDevice q.loc)
    let mine := if now then u.part.syncReads c.ref c.pc else []
    let read (a : Nat) : Option Byte :=
      if !isDevice a then mine.findSome? (fun q => if q.loc ≤ a then q.data[a - q.loc]? else none)
      else match acq with
        | some scope => u.acquireByte c.ref.core scope a
        | none => k.l1Byte a
    let lost := (mine.filter (fun q => q.op == 2)).map (·.lane) ++ Rules.deniedLanes plan
    let res := ((ldLanes c.f x e r).filter (fun l => !lost.contains l.at_.lane)).map (loadPend c.f x (ldTag x e.fmt r) plan read)
    let fl := orFlags (res.map (·.2))
    let bytes (l : LoadLane) : LaneAccess :=
      ⟨l.at_.lane, (loadSlots plan read l.at_).filterMap (fun b => b.got.map (fun v => (b.va, v)))⟩
    (e.acting = [] → exec i s = .next (c.goesOn s)) ∧
    (e.acting ≠ [] → Rules.loadGoes c e u = true →
      (∀ scope ∈ acq, ∀ q ∈ near, u.acquireReady c.ref.core scope (lineOf q.loc) = true) →
      (acq = none → now = true → k.lacks near = false) →
      (now = true → far ≠ [] → mine ≠ []) → (∀ q ∈ mine, q.op ≠ 0) →
      (mBit x 7 = true → enabledTrap c.w.ften fl = none) →
      let s1 := c.write u (res.map (·.1)) fl
      let used (k : Core) : Core := plan.lines.foldl (fun k l => if (k.line? l).isSome then k.touch l else k) k
      let seen (k : Core) : Core := near.foldl (fun (k : Core) (o : Placed) => k.see (s1.part.die (homeDie o.loc)).vc) k
      let p := match acq with
        | none => s1.part.onCore c.ref.core (fun k => (used k).askFills s1.part.nextCommand near)
        | some scope =>
          let q := s1.part.onCore c.ref.core (fun k => if scope = 0 then plan.lines.foldl Core.forget k
            else if scopeWide scope then (seen k).acquire else k.acquire)
          plan.lines.foldl (fun q l => q.consume c.ref.core l) q
      let p := p.dropReads mine
      let p := if now then p else p.askRemote c (some c.w.seq) none far
      let p := p.logLines c plan .read (some c.w.seq) (e.fmt.entry r.fmt) 0 acq (fun _ => [])
      let ms := Rules.loadMatches c p (((Rules.loadLanes c e).filter (fun l => !(Rules.deniedLanes plan).contains l.at_.lane)).map bytes)
        ((res.map (fun q => (q.1.lane, q.2))).filter (fun _ => mBit x 7))
      Rules.current p c.ref.core ms →
      exec i s = .next (Rules.concluded c { s1 with part := Rules.loadEvaluated c p ms } plan (Rules.stop ms) [] c.next))

/-- R131, R132, R145, R241: a load that needs its value at issue and has yet to have it is held there, issued, with the predicates
of its issue (R244), and asks: an acquire for the lines that it may not be performed on, those of the homes after the core's own
stores to them; another for the sectors that the L1 lacks; both for what lies in host memory or in a peer, whose answers they wait
for. -/
def Rules.loadsAskRule : Prop :=
  ∀ (s : State) (i : Instr) (c : Ctx), s.acts i = some c → c.parts.op = .ld →
    let e := c.sees s
    let u := c.counted s
    let k := (u.part.core? c.ref.core).getD Core.reset
    let plan := Rules.loadPlan c e u
    let acq := if semField c.x = 1 then some (scopeField c.x) else none
    let near := plan.ok.filter (fun q => isDevice q.loc)
    let far := plan.ok.filter (fun q => !isDevice q.loc)
    let now := mBit c.x 7 || Rules.loadWaits c u.part plan
    let waits (p : Part) (why : Nat) : Host.Outcome State Fault Refusal := .next (c.begun (c.keepPreds { u with part := p }) why)
    let ready := acq.all (fun scope => near.all (fun q => u.acquireReady c.ref.core scope (lineOf q.loc)))
    let ask (k : Core) (line : Nat) : Core := (if acq.any scopeWide then k.copyBack line else k).askLine u.part.nextCommand line
    e.acting ≠ [] → Rules.loadGoes c e u = true →
      (ready = false → exec i s = waits (u.part.onCore c.ref.core (fun k => plan.lines.foldl ask k)) 13) ∧
      (acq = none → now = true → k.lacks near = true →
        exec i s = waits (u.part.onCore c.ref.core (fun k => k.askFills u.part.nextCommand near)) 15) ∧
      (ready = true → (acq.isSome = true ∨ now = true ∧ k.lacks near = false) → far ≠ [] →
        (u.part.syncReads c.ref c.pc = [] → exec i s = waits (u.part.askRemote c none none far) 15) ∧
        (∀ q ∈ u.part.syncReads c.ref c.pc, q.op = 0 → exec i s = .next (c.held s 15)))

end Sys2Proof

open Sys2Proof Sys2Proof.Machine in
/-- Loads and what they wait for: loadsRule and loadsAskRule, whose rules stand with them. -/
def Obligations.Loads : Prop :=
  Rules.loadsRule ∧ Rules.loadsAskRule


open Sys2Proof Sys2Proof.Machine in
/-- R133, R145, R240, R241, R262, R281, completion. ST completes with no participant, and where the record, the tags and the lanes
pass, the release it asks for has completed and the access goes ahead: the bytes of the lanes in bounds are stored in ascending
lane order, in the L1 or, for a release, at the slice of its scope, leave for host and peers, and lines that are not present are
logged; denied lanes store nothing and trap (concluded). Its matches are counted first, and the lanes that a stop holds store
nothing and stay. -/
def Obligations.Stores : Prop :=
  ∀ (s : State) (i : Instr) (c : Ctx), s.acts i = some c → c.parts.op = .st →
    let e := c.sees s
    let x := c.x
    let r := e.record c.f.b.toNat
    let rc := groupRegs x.c x.wc
    let n := accessBytes (mBits x 6 5) rc.length
    let lanes := accessLanes e.fmt r (byteOff x 4 0) n (fun l => (e.v l c.f.a.toNat).toNat) e.acting
    let data (l : Nat) : List Byte := e.laneBytes l rc n
    let slice := if semField x = 1 then some (scopeWide (scopeField x)) else none
    (e.acting = [] → exec i s = .next (c.goesOn s)) ∧
    (e.acting ≠ [] → Rules.admits r e c (fun r => r.w) (storeFormat e.fmt r.fmt e rc) (min n 16) lanes = true →
      ∀ u ∈ Rules.released c (c.counted s) (semField x == 1) (scopeField x),
      let ps := Rules.pieces lanes
      let plan := u.plan c.g.job .write ps
      Rules.ahead c u false ps plan = true →
      let ms := Rules.matches c u.part 1 false (writeAccess plan.ok data)
      let held := Rules.heldBy ms
      Rules.current u.part c.ref.core ms →
      let p := (Rules.evaluated u.part c.ref c.group c.pc ms).storeAll c slice (plan.ok.filter (fun q => !held.contains q.piece.lane)) data
      let p := p.logLines c (plan.spare held) .write none (e.fmt.entry r.fmt) 0 none (fun q => q.cut (data q.lane))
      exec i s = .next (Rules.concluded c { u with part := p } plan (Rules.stop ms) held c.pc))

namespace Sys2Proof

open Machine

/-- R136 to R138, R140, R145, R240, R241, R281, completion. ATOM and RED complete with no participant, and where the record, the
types and the lanes pass, every path carries the operation, the release they ask for has completed and the access goes ahead: one
request leaves for each home line of the part and for each lane in host memory or a peer, and under ATOM the lanes in bounds await
its answer in d, those out of bounds reading 0; denied lanes perform nothing and trap (concluded). Their matches are counted
first, and the lanes that a stop holds perform nothing and stay. -/
def Rules.atomicsRule : Prop :=
  ∀ (s : State) (i : Instr) (c : Ctx), s.acts i = some c → (c.parts.op = .atom ∨ c.parts.op = .red) →
    let e := c.sees s
    let x := c.x
    let red := decide (c.parts.op = .red)
    let r := e.record c.f.b.toNat
    let op := mBits x 7 4
    let wd := if red then none else some x.wd
    let entry := e.fmt.entry r.fmt
    let n := (atomBytes op entry wd x.wc).getD 4
    let lanes := accessLanes e.fmt r (byteOff x 3 0) n (fun l => (e.v l c.f.a.toNat).toNat) e.acting
    let operand (l : Nat) : List Word := e.words l (groupRegs x.c x.wc)
    let acq := if semField x % 2 = 1 then some (scopeField x) else none
    (e.acting = [] → exec i s = .next (c.goesOn s)) ∧
    (e.acting ≠ [] → Rules.admits r e c (fun r => r.a) (atomFormat op wd x e r.fmt) (min n 16) lanes = true →
      let ps := Rules.pieces lanes
      let plan := (c.counted s).plan c.g.job .atomic ps
      plan.pathTrap (c.counted s).part (atomClass op n) = none →
      ∀ u ∈ Rules.released c (c.counted s) (decide (2 ≤ semField x)) (scopeField x),
      Rules.ahead c u false ps plan = true →
      let ms := Rules.matches c u.part 2 false (writeAccess plan.ok (fun l => atomWatched op n (operand l)))
      let held := Rules.heldBy ms
      let stays (l : Nat) : Bool := (Rules.deniedLanes plan).contains l || held.contains l
      Rules.current u.part c.ref.core ms →
      let v : State := { u with part := Rules.evaluated u.part c.ref c.group c.pc ms }
      let rd := groupRegs c.f.d x.wd
      let wait (l : LanePieces) : PendLane :=
        { lane := l.lane, targets := rd.map Target.v, tags := rd.map (fun _ => e.fmt.tagOf r.fmt),
          values := if l.inb then none else some (rd.map (fun _ => 0)), bytes := [], form := .whole }
      let s1 := if red then v else c.write v ((lanes.filter (fun l => !stays l.lane)).map wait) 0
      let id := if red then none else some c.w.seq
      let p := s1.part.sendAtomics c.ref c.pc id op n entry acq (plan.ok.filter (fun q => !held.contains q.piece.lane)) operand
      let p := p.logLines c (plan.spare held) .atomic id entry 0 acq (fun q => (operand q.lane).flatMap (fun w => leBytes 4 w.toNat))
      exec i s = .next (Rules.concluded c { s1 with part := p } plan (Rules.stop ms) held c.pc))

/-- The destinations of an STMC with the plans of their lanes. -/
def Rules.dests (c : Ctx) (e : Env) (s : State) : List (Dest × Plan) :=
  let rop := mBits c.x 7 5
  ((List.range (mBits c.x 1 0 + 1)).map (fun j => e.record (c.f.b.toNat + 4 * j))).zipIdx.map (fun q =>
    let d := stmcDest e.fmt rop (byteOff c.x 4 2) (4 * (groupRegs c.x.c c.x.wc).length)
      (fun l => (e.v l c.f.a.toNat).toNat) e.acting q.2 q.1
    (d, s.plan c.g.job (if rop = 0 then .write else .atomic) (d.open_.flatMap (·.pieces))))

/-- R141, R280: the trap of the denials of an STMC, each a destination, a lane and its address: the status of each destination,
its lowest denied lane, and the address of that of the lowest denied destination. -/
def Rules.partial (lanes moved : List Nat) (denied : List (Nat × Nat × Nat)) : TrapInfo :=
  let lowest (j : Nat) : Nat := (((denied.filter (fun d => d.1 == j)).map (·.2.1)).min?).getD 0
  let first := ((denied.map (·.1)).min?).getD 0
  let field (j : Nat) : Nat := if denied.any (fun d => d.1 == j) then 2 ^ j + lowest j * 2 ^ (4 + 5 * j) else 0
  { cause := causeMcPartial, lanes := some (maskOf lanes), after := true, moved := moved,
    addr := (((denied.filter (fun d => d.1 == first)).map (·.2)).lookup (lowest first)).getD 0,
    info0 := field 0 + field 1 + field 2 + field 3 }

/-- R141: what an STMC denies: by destination, the lanes that its record or its policy denies, and those of pages that deny. -/
def Rules.denials (ds : List (Dest × Plan)) : List (Nat × Nat × Nat) :=
  ds.flatMap (fun d =>
    let pages := d.2.denied.map (fun q => (q.1.lane, ((d.1.lanes.find? (fun l => l.lane == q.1.lane)).map (·.addr)).getD 0))
    (d.1.denied ++ pages).map (fun q => (d.1.num, q)))

/-- R141, completion. STMC completes with no participant, and at its first issue where every destination's record, format and
lanes pass, every path carries the operation, the release it asks for has completed, the access goes ahead and no data watch looks
at it: every destination is written, at the slices, or reduced in turn, but for the lanes that are denied; lines that are not
present are logged. With none logged it ends at once: it traps MC_PARTIAL after itself where some lane has been denied. With some
it waits at issue until they have been replayed or abandoned, and ends then. -/
def Rules.multicastStoresRule : Prop :=
  ∀ (s : State) (i : Instr) (c : Ctx), s.acts i = some c → c.parts.op = .stmc →
    let e := c.sees s
    let x := c.x
    let rop := mBits x 7 5
    let rc := groupRegs x.c x.wc
    let n := 4 * rc.length
    let ds := Rules.dests c e (c.counted s)
    let whole : Plan := ⟨ds.flatMap (·.2.ok), ds.flatMap (·.2.denied), ds.flatMap (·.2.absent)⟩
    let ps := ds.flatMap (fun d => d.1.open_.flatMap (·.pieces))
    let data (l : Nat) : List Byte := if rop = 0 then e.laneBytes l rc n else atomWatched (stmcOp rop) n (e.words l rc)
    let done (u : State) (m : Multi) : State :=
      let t := { u with part := u.part.onWarp c.ref (fun w => { w with multi := w.multi.filter (fun q => q.pc != c.pc) }) }
      let late := c.group.filter (fun l => bitNat m.lanes l == 0)
      if m.denied = [] then c.finish t (fun l => if late.contains l then c.pc else c.next)
      else t.raise c (Rules.partial (e.acting.filter (fun l => !late.contains l)) (c.group.filter (fun l => !late.contains l)) m.denied)
    (e.acting = [] → exec i s = .next (c.goesOn s)) ∧
    (e.acting ≠ [] → ∀ m, c.w.multi.find? (fun q => q.pc == c.pc) = some m → m.stop = none →
      exec i s = .next (if (c.counted s).part.logOpen c.ref c.pc then c.held s 12 else done (c.counted s) m)) ∧
    (e.acting ≠ [] → c.w.multi.find? (fun q => q.pc == c.pc) = none →
      (∀ d ∈ ds, stmcOk rop x e rc d.1.at_ = true ∧ laneTrap { d.1.at_ with oob := 1 } (min n 16) d.1.lanes = none ∧
        (rop ≠ 0 → d.2.pathTrap (c.counted s).part (atomClass (stmcOp rop) n) = none)) →
      ∀ u ∈ Rules.released c (c.counted s) (semField x == 2) (scopeField x),
      u.part.accessHold c.ref false ps whole = none → (∀ d ∈ ds, d.2.cutOff u.part = []) →
      Rules.unwatched c u (if rop = 0 then 1 else 2) false (writeAccess whole.ok data) = true →
      let home := decide (semField x = 2) && scopeWide (scopeField x)
      let one (p : Part) (d : Dest × Plan) : Part :=
        let p := if rop = 0 then p.storeAll c (some home) d.2.ok (fun l => e.laneBytes l rc n)
          else p.sendAtomics c.ref c.pc none (stmcOp rop) n (e.fmt.entry d.1.at_.fmt) none d.2.ok (fun l => e.words l rc)
        p.logLines c d.2 (if rop = 0 then .write else .atomic) none (e.fmt.entry d.1.at_.fmt) d.1.num none
          (fun q => if rop = 0 then q.cut (e.laneBytes q.lane rc n) else (e.words q.lane rc).flatMap (fun w => leBytes 4 w.toNat))
      let p := ds.foldl one u.part
      let m : Multi := ⟨c.pc, maskOf c.group, Rules.denials ds, none⟩
      exec i s = .next (if p.logOpen c.ref c.pc
        then c.begun { u with part := p.onWarp c.ref (fun w => { w with multi := w.multi ++ [m] }) } 12
        else done { u with part := p } m))

end Sys2Proof

open Sys2Proof Sys2Proof.Machine in
/-- Atomics and multicast stores: atomicsRule and multicastStoresRule, whose rules stand with them. -/
def Obligations.AtomicAccesses : Prop :=
  Rules.atomicsRule ∧ Rules.multicastStoresRule

namespace Sys2Proof

open Machine

/-- R134, R135, R139: the window an access addresses passes the checks of R134 for n bytes a lane. -/
def Rules.windowOk (_ : Ctx) (s : State) (win : Nat × Nat) (n : Nat) (writes : Bool) (ls : List SpadLane) : Bool :=
  (spadChecks (((s.part.wg? win.1 win.2).map (·.scratch)).getD 0) n writes ls).isNone

/-- R239: the accesses that a watch on scratchpad addresses sees: those of the workgroup's own window. -/
def Rules.own (c : Ctx) (win : Nat × Nat) (xs : List LaneAccess) : List LaneAccess := if win = (c.ref.core, c.ref.slot) then xs else []

end Sys2Proof

open Sys2Proof Sys2Proof.Machine in
/-- R134, R135, R139, R240, R241, completion. LDS, STS and ATOMS complete with no participant, and where the format passes, the
window they address exists, no lane fails the checks of R134, no acquire of the warp is under way (R271), and, for LDS and ATOMS,
every line they touch is full. LDS reads the little-endian words of each lane; STS writes in ascending lane order; ATOMS reads and
updates lane by lane in ascending order, giving the old words with c's tag. Their matches are counted: the lanes that a stop of
STS or ATOMS holds do nothing and stay, and a stop of LDS comes after it. -/
def Obligations.ScratchpadAccesses : Prop :=
  ∀ (s : State) (i : Instr) (c : Ctx), s.acts i = some c →
    let e := c.sees s
    let u := c.counted s
    let x := c.x
    let rd := groupRegs c.f.d x.wd
    let rc := groupRegs x.c x.wc
    let op := mBits x 7 4
    (c.parts.op ∈ [Op.lds, .sts, .atoms] → e.acting = [] → exec i s = .next (c.goesOn s)) ∧
    (e.acting ≠ [] → u.part.acquiring c.ref = false → ∀ win ∈ c.window (uniformB x) (e.s c.f.b.toNat).toNat,
      (c.parts.op = .lds → ldsFormat x e.fmt = none →
        let n := accessBytes (mBits x 6 5) rd.length
        let ls := spadLanes e c.f.a.toNat (byteOff x 4 0)
        let bytes (l : SpadLane) : List Byte := u.part.winRead win.1 win.2 l.at_ n
        let tag := if mBits x 6 5 = 0 then e.fmt.tagOf (mBits x 12 8) else tagUint32
        Rules.windowOk c u win n false ls = true → u.part.emptyFor win n ls = [] →
        let ms := Rules.matches c u.part 0 true (Rules.own c win (spadAccess ls bytes))
        Rules.current u.part c.ref.core ms →
        let t := c.write u (ls.map (fun l => laneWrites l.lane
          (vGroup c.f.d x.wd (fun j => (nth (bytesWords (bytes l)) j 0, tag))))) 0
        let p := Rules.loadEvaluated c (c.chargeLanes t.part n ls) ms
        exec i s = .next (Rules.concluded c { t with part := p } ⟨[], [], []⟩ (Rules.stop ms) [] c.next)) ∧
      (c.parts.op = .sts →
        let n := accessBytes (mBits x 6 5) rc.length
        let ls := spadLanes e c.f.a.toNat (byteOff x 4 0)
        let bytes (l : SpadLane) : List Byte := e.laneBytes l.lane rc n
        Rules.windowOk c u win n true ls = true →
        let ms := Rules.matches c u.part 1 true (Rules.own c win (spadAccess ls bytes))
        Rules.current u.part c.ref.core ms →
        let held := Rules.heldBy ms
        let go := ls.filter (fun l => !held.contains l.lane)
        let p := c.chargeLanes (Rules.evaluated u.part c.ref c.group c.pc ms) n go
        let p := go.foldl (fun p l => p.winWrite win.1 win.2 l.at_ (bytes l)) p
        exec i s = .next (Rules.concluded c { u with part := p } ⟨[], [], []⟩ (Rules.stop ms) held c.pc)) ∧
      (c.parts.op = .atoms →
        let n := 4 * rd.length
        let ls := spadLanes e c.f.a.toNat (byteOff x 3 0)
        let type (l : Nat) : Entry := e.fmt.entry (tagIndex (e.tag l x.c.toNat))
        (∀ l ∈ e.acting, atomsType op x e rc l = .ok (type l)) →
        Rules.windowOk c u win n true ls = true → u.part.emptyFor win n ls = [] →
        let ms := Rules.matches c u.part 2 true (Rules.own c win (spadAccess ls (fun l => atomWatched op n (e.words l.lane rc))))
        Rules.current u.part c.ref.core ms →
        let held := Rules.heldBy ms
        let go := ls.filter (fun l => !held.contains l.lane)
        let step (a : Machine.Part × List PendLane) (l : SpadLane) : Machine.Part × List PendLane :=
          let (p, old) := a.1.spadAtom win (type l.lane) op n l.at_ (e.words l.lane rc)
          (p, a.2 ++ [laneWrites l.lane (vGroup c.f.d x.wd (fun j => (nth (bytesWords old) j 0, e.tag l.lane x.c.toNat)))])
        let r := go.foldl step (c.chargeLanes (Rules.evaluated u.part c.ref c.group c.pc ms) n go, [])
        exec i s = .next (Rules.concluded c (c.write { u with part := r.1 } r.2 0) ⟨[], [], []⟩ (Rules.stop ms) held c.pc)))


open Sys2Proof Sys2Proof.Machine in
/-- R142 to R145, R313, R314, completion. PREF completes whenever its record is well formed, asking for what the L1 or the slice
lacks. DISCARD completes where its record grants writes, its addresses lie in the address space (R34) and nothing earlier of the
warp holds it: the dirty words of its lines in the L1 are dropped, and under .DI the slice is asked to follow; that a line its
leaf denies is one of the untranslated lines that R143 skips is the model's reading (log entry 20). FLUSH completes where its
record grants reads or writes, its addresses lie in the address space, nothing earlier holds it and a walker is free: the covered
dirty words leave at once, and the walker keeps what was sent and seen before. FENCE completes when the warp's accesses have been
performed and the release it asks for has completed, an acquire at .CL or wider dropping the L1's clean words. With no participant
all of them only go on. -/
def Obligations.CacheControl : Prop :=
  ∀ (s : State) (i : Instr) (c : Ctx), s.acts i = some c →
    let e := c.sees s
    let u := c.counted s
    let x := c.x
    let r := e.record c.f.b.toNat
    let m := byteOff x 4 0
    let index (l : Nat) : Nat := (e.v l c.f.a.toNat).toNat
    let held (lines : List Nat) (vas : List Nat) : Bool :=
      u.part.acquiring c.ref || u.part.logNames c.ref vas || u.part.lineBusy c.ref false lines []
    (c.parts.op ∈ [Op.pref, .discard, .flush, .fence] → e.acting = [] → exec i s = .next (c.goesOn s)) ∧
    (e.acting ≠ [] →
      (c.parts.op = .pref → r.formOk e.fmt = true →
        let lines := if r.r then u.linesOf c.g.job e.fmt r m index .read e.acting else []
        let lacks (k : Core) (line : Nat) : List (Nat × Nat) :=
          ((List.range 4).filter (fun j => !((k.line? line).map (fun y => y.sectors.testBit j)).getD false)).map (fun j => (line, j))
        let want (k : Core) (line : Nat) : Core := k.ask u.part.nextCommand (if semField x = 1 then [(line, 4)] else lacks k line)
        exec i s = .next (c.finish { u with part := u.part.onCore c.ref.core (fun k => lines.foldl want k) } (fun _ => c.next))) ∧
      (c.parts.op = .discard → (r.check e.fmt (fun r => r.w) c.group).isNone →
        let lines := u.linesOf c.g.job e.fmt r m index .write e.acting
        laneTrap { r with oob := 1 } 1 (accessLanes e.fmt r m 1 index e.acting) = none →
        held lines (recLines r m index e.acting) = false →
        let drop (k : Core) (line : Nat) : Core :=
          let k := match k.line? line with
            | none => k
            | some y => { k with l1 := insertKey line y.discard k.l1 }
          if scopeField x = 2 then { k with discards := k.discards ++ [(k.nextId, line, c.ref)], nextId := k.nextId + 1 } else k
        exec i s = .next (c.finish { u with part := u.part.onCore c.ref.core (fun k => lines.foldl drop k) } (fun _ => c.next))) ∧
      (c.parts.op = .flush → (r.check e.fmt (fun r => r.r || r.w) c.group).isNone →
        let ps := flushPieces e.fmt r m index (fun l => (e.v l x.c.toNat).toNat) e.acting
        let ranges := u.flushRanges c.g.job ps
        laneTrap { r with oob := 1 } 1 (flushLanes r m index ps e.acting) = none →
        held (ranges.map (·.1)) (ps.map (fun q => q.va / 128 * 128)) = false →
        ((u.part.core? c.ref.core).getD Core.reset).walkers.length < 4 →
        let walk (k : Core) : Core :=
          let z := ranges.foldl (fun z q => z.copyBackWords q.1 (q.2.foldl (fun m w => m ||| 2 ^ w) 0)) { k with nextId := k.nextId + 1 }
          { z with walkers := z.walkers ++ [⟨k.nextId, c.ref, ranges, decide (scopeField x = 3), z.nextId,
            joinClock k.seen (u.part.die (dieOf c.ref.core)).vc⟩] }
        exec i s = .next (c.finish { u with part := u.part.onCore c.ref.core walk } (fun _ => c.next))) ∧
      (c.parts.op = .fence → u.part.performed c.ref = true →
        ∀ t ∈ Rules.released c u (decide (2 ≤ semField x)) (scopeField x),
        let p := if semField x % 2 = 1 ∧ 1 ≤ scopeField x then t.part.onCore c.ref.core Core.acquire else t.part
        exec i s = .next (c.finish { t with part := p } (fun _ => c.next))))

namespace Sys2Proof

open Machine

/-- R282, R341, R445: the state and location of an address that translation places at issue, its line named by no entry of the
warp's operand log, and in a peer only where the Vexlink engine has an entry free. -/
def Rules.placedAt (c : Ctx) (s : State) (va : Nat) : Option (Part × Nat) :=
  if opPlaces c.parts.op && s.part.logNames c.ref [va / 128 * 128] then none
  else
    match c.place s va with
    | .ok p loc => if opPlaces c.parts.op && locTarget loc = 2 && s.part.vexFull (dieOf c.ref.core) 1 then none else some (p, loc)
    | _ => none

/-- R146, R147, R445: what a LOCK has at issue when it may send its request: a well-formed record, no lock held or asked
for, no acquire under way, and a placed address. -/
def Rules.lockSends (c : Ctx) (e : Env) (s : State) : Option (Part × Nat × List Rec) :=
  let r := e.record c.f.b.toNat
  let guarded := if mBit c.x 2 then [] else (List.range (mBits c.x 1 0 + 1)).map (fun j => e.record (c.f.a.toNat + 4 * j))
  if (lockRecord c e r).isSome || (guardChecks c e r.base guarded).isSome || c.w.locked || s.part.acquiring c.ref then none
  else (Rules.placedAt c s r.base).map (fun q => (q.1, q.2, guarded))

/-- R146, R147, R307, R415, completion. LOCK completes with no participant, and with its lock granted: a request of this
instruction that has been answered is removed and the group goes on; while it is not, the group stays parked. LOCK.TRY completes
when it may send its request, its participants' predicates awaiting the answer. A blocking LOCK that may send its request, to the
part or to a peer with a route, parks its group; without a route it goes on, the model's reading (log entry 21). -/
def Rules.locksRule : Prop :=
  ∀ (s : State) (i : Instr) (c : Ctx), s.acts i = some c → c.parts.op = .lock →
    let e := c.sees s
    let u := c.counted s
    let base := (e.record c.f.b.toNat).base
    let asked := if mBit c.x 3 then none
      else (c.w.lockWait.toList ++ c.w.lockDone).find? (fun w => w.pc == c.pc && w.pend.isNone &&
        c.group.any (fun l => bitNat w.lanes l == 1))
    (e.acting = [] → exec i s = .next (c.goesOn s)) ∧
    (e.acting ≠ [] → (∀ q ∈ asked, exec i s = .next (if q.answer = none then c.parkAt u .lock
        else c.finish { u with part := u.part.onWarp c.ref (fun w => { w with lockDone := w.lockDone.erase q }) } (fun _ => c.next))) ∧
      (asked = none → ∀ q ∈ Rules.lockSends c e u,
        let s1 := { u with part := q.1 }
        let ref : LockRef := ⟨base, physical q.2.1⟩
        let ranges := s1.guardedLines c.g.job e.fmt q.2.2
        (mBit c.x 3 = true →
          let wait (l : Nat) : PendLane :=
            { lane := l, targets := [.p (c.f.d.toNat % 8)], tags := [0], values := none, bytes := [], form := .whole }
          let s2 := c.write s1 (e.acting.map wait) 0
          exec i s = .next (c.finish { s2 with part := s2.part.sendLock c true (some c.w.seq) ref ranges } (fun _ => c.next))) ∧
        (mBit c.x 3 = false →
          let s2 := { s1 with part := s1.part.sendLock c false none ref ranges }
          let reached := isDevice q.2.1 || (s2.part.portOf q.2.1).isSome
          exec i s = .next (if reached then c.parkAt s2 .lock else c.finish s2 (fun _ => c.next)))))

/-- R148, R415, completion. UNLOCK completes with no participant, and where its record names the lock the warp holds, its
address is placed, the warp's accesses have been performed and a release round is free: the hold ends at once and the
release, begun at .DV, frees the lock when it completes. -/
def Rules.unlocksRule : Prop :=
  ∀ (s : State) (i : Instr) (c : Ctx), s.acts i = some c → c.parts.op = .unlock →
    let e := c.sees s
    let u := c.counted s
    let r := e.record c.f.b.toNat
    (e.acting = [] → exec i s = .next (c.goesOn s)) ∧
    (e.acting ≠ [] → lockRecord c e r = none → ∀ k ∈ c.w.lock, k.va = r.base →
      ∀ p ∈ Rules.placedAt c u r.base, p.1.quietOf c.ref = true → ∀ q ∈ p.1.beginRelease c.ref c.pc 3,
        let mark (z : Core) : Core :=
          { z with releases := z.releases.modify (z.releases.length - 1) (fun q => { q with unlock := some (c.ref, k) }) }
        exec i s = .next (c.finish { u with part := (q.onCore c.ref.core mark).onWarp c.ref (fun w =>
          { w with release := none, lock := none }) } (fun _ => c.next)))

end Sys2Proof

open Sys2Proof Sys2Proof.Machine in
/-- LOCK and UNLOCK: locksRule and unlocksRule, whose rules stand with them. -/
def Obligations.LockInstructions : Prop :=
  Rules.locksRule ∧ Rules.unlocksRule

namespace Sys2Proof

open Machine

/-! ### Tile commands, R174 to R193 -/

/-- R179, R180: the edge of a tile command; none where its edge word is malformed. -/
def Rules.edge (c : Ctx) (e : Env) : Option Edge :=
  let mma := c.parts.op == .mma
  let whole : Edge := ⟨64, 128, 0, 0⟩
  if c.parts.op = .topk then edgeOf (e.s (c.x.c.toNat + 1)) false false
  else if c.parts.op = .tzero || c.parts.op = .tmov || !mBit c.x 3 then some whole
  else edgeOf (e.s c.x.c.toNat) mma (mma && mBit c.x 4)

/-- R93: a tile whose tag, as the commands dispatched before leave it, passes and whose entry a condition accepts. -/
def Rules.tileTag (c : Ctx) (s : State) (t : Nat) (ok : Entry → Bool) : Bool :=
  let g := c.tagAhead s t
  let f := c.g.fmt.entry (tagIndex g)
  tagValid g && f.valid && tagGen g == f.gen % 4 && ok f

/-- R183, R186 to R193: a tile that holds FP32. -/
def Rules.fp32Tile (c : Ctx) (s : State) (t : Nat) : Bool := Rules.tileTag c s t (fun _ => c.tagAhead s t == tagFp32)

/-- R93: a valid entry that a condition accepts. -/
def Rules.goodIndex (c : Ctx) (i : Nat) (ok : Entry → Bool) : Bool := (c.g.fmt.entry i).valid && ok (c.g.fmt.entry i)

/-- R183 to R193: what each tile command asks of its operands, besides its edge. -/
def Rules.tileOk (c : Ctx) (s : State) (e : Env) (ed : Edge) : Bool :=
  let pa := pairOf (e.sPair c.f.a)
  let pb := pairOf (e.sPair c.f.b)
  let pd := pairOf (e.sPair c.f.d)
  let entry (p : Pair) : Entry := c.g.fmt.entry p.fmt
  let a := c.f.a.toNat
  let d := c.f.d.toNat
  let row := mBits c.x 5 0
  match c.parts.op with
  | .mma =>
    let k := classK (entry pb)
    let src := mBits c.x 1 0
    pb.ok (entry pb) (if pb.t then k else 128) true && Rules.goodIndex c pb.fmt mmaAccepts && Rules.fp32Tile c s d &&
      decide (ed.kv ≤ k) && (c.window (mBit c.x 4) ed.peer).isSome &&
      (if src = 0 then pa.ok (entry pa) (if pa.t then 64 else classK (entry pa)) false && Rules.goodIndex c pa.fmt mmaAccepts &&
          classK (entry pa) == k
        else Rules.fp32Tile c s a && a != d && k == (if src = 1 then 64 else 128))
  | .tzero => Rules.goodIndex c (mBits c.x 4 0) (fun f => f.epw == 1)
  | .tld => pa.tileOk c.g.fmt && Rules.goodIndex c pa.fmt (fun f => copiesBits f || (f.kind != kindRaw && f.epw != 15))
  | .tst =>
    let same := pd.fmt == tagIndex (c.tagAhead s a)
    pd.tileOk c.g.fmt && Rules.goodIndex c pd.fmt (fun f => f.epw != 15 && (same || f.kind != kindRaw)) &&
      Rules.tileTag c s a (fun f => f.epw == 1 && (same || f.kind != kindRaw))
  | .tred =>
    Rules.fp32Tile c s a && (!mBit c.x 2 || e.acting.all (fun l =>
      (both (checkGroup e l (groupRegs c.f.d 1)) (checkEqual e l tagFp32 (groupRegs c.f.d 1))).isOk))
  | .tscal => (e.s c.f.b.toNat).toNat % 16 == 0 && Rules.fp32Tile c s a
  | .topk =>
    if mBit c.x 1 then pa.tileOk c.g.fmt && Rules.goodIndex c pa.fmt (fun f => f.kind == kindFloat || f.kind == kindBlock)
    else Rules.fp32Tile c s a && a != d
  | .tmov =>
    if mBit c.x 8 then
      let ra := groupRegs c.f.a c.x.wa
      let g := e.tag (e.acting.headD 0) a
      decide (row + 2 ^ c.x.wa.toNat ≤ 64) && e.acting.all (fun l => (checkGroup e l ra).isOk) &&
        e.acting.all (fun l => (both (checkEqual e l g ra) (checkKinds e l (fun f => f.epw == 1) ra)).isOk)
    else decide (row + 2 ^ c.x.wd.toNat ≤ 64)
  | _ => false

/-- R183 to R193: scratchpad bytes a tile command reads in its own window and in the peer's, and writes. -/
def Rules.tileBytes (c : Ctx) (e : Env) (ed : Edge) : List (Nat × Nat) × List (Nat × Nat) × List (Nat × Nat) :=
  let pa := pairOf (e.sPair c.f.a)
  let pb := pairOf (e.sPair c.f.b)
  let pd := pairOf (e.sPair c.f.d)
  let entry (p : Pair) : Entry := c.g.fmt.entry p.fmt
  let kv := if ed.kv = 0 then classK (entry pb) else ed.kv
  match c.parts.op with
  | .mma => (if mBits c.x 1 0 = 0 then pa.ranges (entry pa) false ed.rows kv else [], pb.ranges (entry pb) false kv ed.cols, [])
  | .tld => (pa.ranges (entry pa) false ed.rows ed.cols, [], [])
  | .tst => ([], [], pd.ranges (entry pd) true ed.rows ed.cols)
  | .tscal => ([((e.s c.f.b.toNat).toNat, 4 * (if mBit c.x 0 then ed.cols else ed.rows))], [], [])
  | .topk => (if mBit c.x 1 then pa.ranges (entry pa) false ed.rows ed.cols else [], [], [])
  | _ => ([], [], [])

/-- R174, R189, R190: the v registers that a tile command writes, by lane, with their tag. -/
def Rules.tileRegs (c : Ctx) (s : State) (e : Env) (ed : Edge) : List PendLane :=
  let wait (l : Nat) (rs : List Nat) (tag : Byte) : PendLane :=
    { lane := l, targets := rs.map Target.v, tags := rs.map (fun _ => tag), values := none, bytes := [], form := .whole }
  let d := c.f.d.toNat
  match c.parts.op with
  | .tred => (e.acting.filter (fun l => decide (l < ed.rows))).map (fun l =>
      wait l (d :: (if l + 32 < ed.rows then [d + 1] else [])) tagFp32)
  | .tmov => if mBit c.x 8 then [] else
      e.acting.map (fun l => wait l (groupRegs c.f.d c.x.wd) (c.tagAhead s c.f.a.toNat))
  | _ => []

/-- R174, R183 to R193: the command that is dispatched, with what it captures. -/
def Rules.tileCommand (c : Ctx) (s : State) (e : Env) (ed : Edge) : TileCmd :=
  let entry (r : BitVec 6) : Entry := c.g.fmt.entry (pairOf (e.sPair r)).fmt
  let g := c.tagAhead s c.f.a.toNat
  let z := { c.tileCmd e with rows := ed.rows, cols := ed.cols }
  let words (rs : List Nat) : List (Nat × List Word) := e.acting.map (fun l => (l, e.words l rs))
  match c.parts.op with
  | .mma =>
    { z with kv := if ed.kv = 0 then classK (entry c.f.b) else ed.kv, entryA := entry c.f.a, entryB := entry c.f.b,
             peer := (c.window (mBit c.x 4) ed.peer).getD (0, 0), outTag := some tagFp32 }
  | .tzero => { z with outTag := some (c.g.fmt.tagOf (mBits c.x 4 0)) }
  | .tld =>
    { z with entryA := entry c.f.a,
             outTag := some (if copiesBits (entry c.f.a) then c.g.fmt.tagOf (pairOf (e.sPair c.f.a)).fmt else tagFp32) }
  | .tst => { z with entryA := entry c.f.d, srcTag := g }
  | .tred => { z with vregs := words (groupRegs c.f.d 1), srcTag := g }
  | .tscal => { z with base := e.s c.f.b.toNat, outTag := some tagFp32 }
  | .topk =>
    { z with base := e.s c.x.c.toNat, outTag := some tagRaw32,
             entryA := if mBit c.x 1 then entry c.f.a else c.g.fmt.entry (tagIndex g) }
  | .tmov =>
    if mBit c.x 8 then
      let t := e.tag (e.acting.headD 0) c.f.a.toNat
      { z with vregs := words (groupRegs c.f.a c.x.wa), srcTag := t, outTag := some t }
    else { z with vregs := words (groupRegs c.f.d c.x.wd), srcTag := g }
  | _ => z

/-- The opcodes of tile commands. -/
def Rules.tileOps : List Op := [.mma, .tzero, .tld, .tst, .tred, .tscal, .topk, .tmov]

end Sys2Proof

open Sys2Proof Sys2Proof.Machine in
/-- R174 to R193, completion. MMA, TZERO, TLD, TST, TRED, TSCAL, TOPK and TMOV complete without their guard, and where the
operands pass, every byte lies in its window, no written byte meets the command ring, every line read is full and the array queue
has room: the command goes to the end of the core's array queue under the workgroup's next MT number, and the v registers it will
write stand as one outstanding write. That TMOV.TV checks no tag and that the K of an MMA is that of the class of B (log entry
24), and which types the operands of an MMA may have (log entry 18), are the model's reading. -/
def Obligations.TileCommands : Prop :=
  ∀ (s : State) (i : Instr) (c : Ctx), s.acts i = some c → c.parts.op ∈ Rules.tileOps →
    let e := c.sees s
    let u := c.counted s
    (c.on u = false → exec i s = .next (c.goesOn s)) ∧
    (c.on u = true → ∀ ed ∈ Rules.edge c e, Rules.tileOk c u e ed = true →
      let x := Rules.tileCommand c u e ed
      let own := (Rules.tileBytes c e ed).1
      let far := (Rules.tileBytes c e ed).2.1
      let written := (Rules.tileBytes c e ed).2.2
      let peer := u.part.wg? x.peer.1 x.peer.2
      let inside (n : Nat) (rs : List (Nat × Nat)) : Bool := rs.all (fun r => r.2 == 0 || decide (r.1 + r.2 ≤ n))
      inside c.g.scratch own = true → inside ((peer.map (·.scratch)).getD 0) far = true →
      inside (c.g.scratch - 512) written = true →
      c.g.emptyLines (linesTouched own) = [] → (∀ g ∈ peer, g.emptyLines (linesTouched far) = []) →
      ∀ k ∈ u.part.core? c.ref.core, k.arrayQueue.length < 16 →
      let regs := Rules.tileRegs c u e ed
      let x := { x with id := u.part.nextCommand, pend := if regs = [] then none else some c.w.seq,
                        number := ((u.part.wg? c.ref.core c.ref.slot).map (·.mt.issued)).getD 0 + 1 }
      let p := { u.part with nextCommand := u.part.nextCommand + 1 }
      let p := p.onWg c.ref.core c.ref.slot (fun g => { g with mt := { g.mt with issued := g.mt.issued + 1 } })
      let p := p.onCore c.ref.core (fun k => { k with arrayQueue := k.arrayQueue ++ [x] })
      let p := p.onWarp c.ref (fun w => { w with heldCmd := w.heldCmd.filter (fun h => h.1 != c.pc) })
      let t : State := { u with part := p }
      exec i s = .next (c.finish (if regs = [] then t else c.write t regs 0) (fun _ => c.next)))

namespace Sys2Proof

open Machine

/-! ### Copies, R198 to R207 -/

/-- R200, R203: what a copy finds at issue: its box, the location and address of its barrier, the members that receive the
data, and the state in which the barrier's line is translated; none where a check traps or the barrier's line waits. -/
def Rules.copy (c : Ctx) (s : State) : Option (Box × Option (Nat × Nat) × List (Nat × Nat) × State) :=
  let e := c.sees s
  let r := e.record c.f.a.toNat
  let u := c.markIssued (c.counted s) (c.copyNames e)
  let go (b : Box) (tb : Option (Nat × Nat)) (u : State) : Option (Box × Option (Nat × Nat) × List (Nat × Nat) × State) :=
    if (b.check c.g.scratch (!opReadsSpad c.parts.op)).isSome then none else (c.receivers e).map (fun ms => (b, tb, ms, u))
  if (r.check e.fmt (copyAllowed c.parts.op) c.group).isSome then none
  else
    match boxOf c e r (e.s c.f.b.toNat), c.copyBarrier e with
    | .ok b, .ok none => go b none u
    | .ok b, .ok (some a) => (Rules.placedAt c u a).bind (fun q => go b (some (q.2, a)) { u with part := q.1 })
    | _, _ => none

/-- R201, R341: nothing holds the dispatch of a copy: the source lines are full, its ring slot and its destination lines are
free, its engine has room, and so has the Vexlink engine of its die where the barrier lies in a peer. -/
def Rules.copyReady (c : Ctx) (u : State) (b : Box) (barrier : Option (Nat × Nat)) (members : List (Nat × Nat)) : Bool :=
  (if opReadsSpad c.parts.op then (c.g.emptyLines (linesTouched b.ranges)).isEmpty
    else !u.part.linesBusy members (linesTouched b.ranges)) &&
  !u.part.ringBusy c.ref.core c.ref.slot (c.g.copies % 16) && !u.part.engineFull c.ref.core c.parts.op &&
  barrier.all (fun q => locTarget q.1 != 2 || !u.part.vexFull (dieOf c.ref.core) 1)

/-- R201, R202: the state after a copy with its number is dispatched: the command in its engine's queue, its ring entry
written, its destination lines empty with one more copy pending, its posting on its way to the barrier. -/
def Rules.dispatched (c : Ctx) (u : State) (q : Command) (va : Nat) : Part :=
  let p := { u.part with nextCommand := u.part.nextCommand + 1 }
  let p := p.onWg c.ref.core c.ref.slot (fun g => { g with copies := g.copies + 1 })
  let p := if q.op = .cpyr then
      (p.onLaunch c.g.launch (fun l => { l with xt := l.xt.take })).onWg c.ref.core c.ref.slot
        (fun g => { g with xtLast := q.number, xtOpen := g.xtOpen ++ [q.number] })
    else p.onWg c.ref.core c.ref.slot (fun g => { g with ct := g.ct.take })
  let p := if q.op = .cpyr then p.onDie (dieOf c.ref.core) (fun d => { d with collQueue := d.collQueue ++ [q] })
    else p.onCore c.ref.core (fun k => { k with copyQueue := k.copyQueue ++ [q] })
  let p := (p.writeRing q).markDestinations q
  match q.barrier with
  | none => p
  | some loc => p.sendTb c.ref c.pc 3 loc va (q.bytes * q.members.length) false (some q.id) [0, 0, 0, 0]

/-- R198 to R203, R207, completion. CPY, CPYO and CPYC complete without their guard, and where the checks of R200 pass and
nothing holds their dispatch: the command is dispatched under the workgroup's next CT number, and the group goes on. -/
def Rules.copiesRule : Prop :=
  ∀ (s : State) (i : Instr) (c : Ctx), s.acts i = some c → c.parts.op ∈ [Op.cpy, .cpyo, .cpyc] →
    (c.on (c.counted s) = false → exec i s = .next (c.goesOn s)) ∧
    (c.on (c.counted s) = true → ∀ q ∈ Rules.copy c s, Rules.copyReady c q.2.2.2 q.1 q.2.1 q.2.2.1 = true →
      let u := q.2.2.2
      let x := { c.command u q.1 q.2.2.1 (q.2.1.map (·.1)) with number := c.g.ct.issued + 1 }
      exec i s = .next (c.finish (c.markDispatched { u with part := Rules.dispatched c u x ((q.2.1.map (·.2)).getD 0) })
        (fun _ => c.next)))

/-- R204, R205, R344, completion. CPYR completes as the other copies do, under the next XT number of its launch, where its
own die numbers the launch's collective commands, and where it has been numbered elsewhere. CPYM completes where its MMA's
operands pass too and the array queue has room: the MMA waits there for the copy. -/
def Rules.copiesWithMoreRule : Prop :=
  ∀ (s : State) (i : Instr) (c : Ctx), s.acts i = some c → c.parts.op ∈ [Op.cpyr, .cpym] →
    let e := c.sees s
    (c.on (c.counted s) = false → exec i s = .next (c.goesOn s)) ∧
    (c.on (c.counted s) = true → (∀ a ∈ c.w.answer, a.1 ≠ c.pc) → ∀ q ∈ Rules.copy c s,
      Rules.copyReady c q.2.2.2 q.1 q.2.1 q.2.2.1 = true →
      let u := q.2.2.2
      let n := ((u.part.launch? c.g.launch).map (·.xt.issued)).getD 0 + 1
      let x := c.command u q.1 q.2.2.1 (q.2.1.map (·.1))
      (c.parts.op = .cpyr → u.part.anchorOf c.g.launch (dieOf c.ref.core) = dieOf c.ref.core →
        let p := Rules.dispatched c u { x with number := n } ((q.2.1.map (·.2)).getD 0)
        exec i s = .next (c.finish (c.markDispatched { u with part := p }) (fun _ => c.next))) ∧
      (c.parts.op = .cpym → ∀ m ∈ (c.followOn u e).toOption, m.space c u = none →
        c.g.emptyLines (linesTouched m.reads) = [] → u.part.arrayFull c.ref.core = false →
        let p := (Rules.dispatched c u { x with number := c.g.ct.issued + 1 } 0).enqueueTile { m.cmd with waits := some x.id }
        exec i s = .next (c.finish (c.markDispatched { u with part := p }) (fun _ => c.next)))) ∧
    (c.on (c.counted s) = true → c.parts.op = .cpyr → (∀ a ∈ c.w.answer, a.1 = c.pc ∧ a.2.isSome = true) →
      c.w.answer.isSome = true →
      let p := (c.counted s).part.setAnswer c.ref none
      ∀ k ∈ p.core? c.ref.core, ∀ x ∈ k.numbering.find? (fun q => q.w == c.ref),
        let p := p.onCore c.ref.core (fun k => { k with numbering := k.numbering.filter (fun y => y.id != x.id) })
        exec i s = .next (c.finish (c.markDispatched { c.counted s with part := p.dispatchCommand x (c.barrierVa (c.counted s)) })
          (fun _ => c.next)))

end Sys2Proof

open Sys2Proof Sys2Proof.Machine in
/-- Copy commands: copiesRule and copiesWithMoreRule, whose rules stand with them. -/
def Obligations.CopyCommands : Prop :=
  Rules.copiesRule ∧ Rules.copiesWithMoreRule

namespace Sys2Proof

open Machine

/-! ### Levels of completion, R195 to R213 -/

/-- R195: the counts of a timeline: CT and MT of the workgroup, XT of its launch. -/
def Rules.timeline (c : Ctx) (s : State) : Timeline :=
  match mBits c.x 1 0 with
  | 0 => c.g.ct
  | 1 => c.g.mt
  | _ => ((s.part.launch? c.g.launch).map (·.xt)).getD Timeline.zero

/-- R196, R197, completion. TLWAIT traps TL_ERROR for a number that has not been issued; with its number completed it acquires at
.DV and gives the error up to it; else it parks its group. TLGET gives COMPLETED, ISSUED (for XT the workgroup's own last number)
or ERRFIRST, and one that shows a number complete, ERRFIRST included, leaves the fix-up lists written for the timeline before
every later load of its core (R355). -/
def Rules.timelinesRule : Prop :=
  ∀ (s : State) (i : Instr) (c : Ctx), s.acts i = some c →
    let e := c.sees s
    let u := c.counted s
    let t := Rules.timeline c u
    let v := (e.s c.f.a.toNat).toNat + 2 ^ 32 * (e.s (c.f.a.toNat + 1)).toNat
    (c.parts.op ∈ [Op.tlwait, .tlget] → c.on u = false → exec i s = .next (c.goesOn s)) ∧
    (c.parts.op = .tlwait → c.on u = true →
      exec i s = .next (
        if t.issued < v then u.raise c { cause := causeTlError }
        else if t.completed < v then c.parkAt u .timeline
        else
          let see (k : Core) : Core := if v = 0 then k else (k.see t.clock).acquire
          let err := decide (t.errFirst ≠ 0) && decide (t.errFirst ≤ v)
          c.finish (c.writeWarp { u with part := if v = 0 then u.part else u.part.onCore c.ref.core see }
            [(.q c.f.d.toNat, if err then 1 else 0)]) (fun _ => c.next))) ∧
    (c.parts.op = .tlget → c.on u = true →
      let n := match mBits c.x 3 2 with
        | 0 => t.completed
        | 1 => if mBits c.x 1 0 = 2 then c.g.xtLast else t.issued
        | _ => t.errFirst
      let see (k : Core) : Core :=
        if mBits c.x 3 2 ≠ 1 ∧ n ≠ 0 ∧ t.listLines ≠ [] then t.listLines.foldl Core.forget (k.see t.listClock) else k
      exec i s = .next (c.finish (c.writeWarp { u with part := u.part.onCore c.ref.core see }
        [(.s c.f.d.toNat, word n), (.s (c.f.d.toNat + 1), word (n / 2 ^ 32))]) (fun _ => c.next)))

/-- R208, R209, completion. FEMARK and FEFILL complete without their guard, and where their address is line-aligned and
their lines lie in the window below the command ring: the lines become empty or full, and threads that wait for full lines
go on. Else they trap MISALIGN, OOB or PROT. -/
def Rules.fullEmptyLinesRule : Prop :=
  ∀ (s : State) (i : Instr) (c : Ctx), s.acts i = some c → c.parts.op ∈ [Op.femark, .fefill] →
    let e := c.sees s
    let u := c.counted s
    let a := (e.s c.f.a.toNat).toNat
    let n := (e.s c.f.b.toNat).toNat
    let lines := (List.range n).map (fun j => a / 128 + j)
    let mark (g : Wg) : Wg := lines.foldl (fun g l => g.setLine l { g.lineState l with full := c.parts.op == .fefill }) g
    exec i s = .next (
      if c.on u = false then c.goesOn s
      else if a % 128 ≠ 0 then u.raise c { cause := causeMisalign, addr := a }
      else if n = 0 then u.raise c { cause := causeOob, addr := a }
      else if c.g.scratch < a + 128 * n then u.raise c { cause := causeOob, addr := max c.g.scratch a }
      else if c.g.scratch - 512 < a + 128 * n then u.raise c { cause := causeProt, addr := max (c.g.scratch - 512) a }
      else c.finish { u with part := (u.part.onWg c.ref.core c.ref.slot mark).wakeLines c.ref.core c.ref.slot } (fun _ => c.next))

end Sys2Proof

open Sys2Proof Sys2Proof.Machine in
/-- Timelines and full/empty lines: timelinesRule and fullEmptyLinesRule, whose rules stand with them. -/
def Obligations.AsyncWaits : Prop :=
  Rules.timelinesRule ∧ Rules.fullEmptyLinesRule

namespace Sys2Proof

open Machine

/-- R33, R210: the address of the barrier a record and TBI name, where both pass. -/
def Rules.barrierAt (c : Ctx) (e : Env) : Option Nat :=
  let r := e.record c.f.a.toNat
  let n := mBits c.x 12 9
  if r.formOk e.fmt && r.stride == 16 && r.a && decide (n < r.extent) && r.base % 16 == 0 then some (r.base + 16 * n) else none

end Sys2Proof

open Sys2Proof Sys2Proof.Machine in
/-- R210 to R213, completion. TBINIT and TBEXP complete without their guard, and where record and value pass and nothing holds
them: the update leaves for the barrier's home. TBARV completes likewise when the answer to its update is that it was performed,
and traps TB_BAD when it was refused. TBWAIT completes where the barrier of this part can be read and its phase is not the one it
waits on: it gives the barrier's error, an acquire after which the warp has seen the barrier's home, whatever the scope (the
model's reading, log entry 26); a barrier in that phase parks it, or ends it by the CANCEL trap where one is pending (log entry
13). -/
def Obligations.TransactionBarriers : Prop :=
  ∀ (s : State) (i : Instr) (c : Ctx), s.acts i = some c →
    let e := c.sees s
    let u := c.counted s
    let b := (e.s c.f.b.toNat)
    (c.parts.op ∈ [Op.tbinit, .tbexp, .tbarv, .tbwait] → c.on u = false → exec i s = .next (c.goesOn s)) ∧
    (c.on u = true → ∀ a ∈ Rules.barrierAt c e,
      (c.parts.op ∈ [Op.tbinit, .tbexp] → (c.parts.op = .tbinit → 1 ≤ b.toNat ∧ b.toNat ≤ 65535) →
        u.part.acquiring c.ref = false → ∀ q ∈ Rules.placedAt c u a, q.1.lineBusy c.ref false [lineOf q.2] [] = false →
        let init := decide (c.parts.op = .tbinit)
        let p := q.1.sendTb c.ref c.pc (if init then 0 else 1) q.2 a (if init then (b.toNat : Int) else b.toInt) false none [0, 0, 0, 0]
        exec i s = .next (c.finish { u with part := p } (fun _ => c.next))) ∧
      (c.parts.op = .tbarv → ∀ x ∈ c.w.answer, x.1 = c.pc → ∀ v ∈ x.2,
        let clear : State := { u with part := u.part.onWarp c.ref (fun w => { w with answer := none }) }
        exec i s = .next (if v = 0 then clear.raise c { cause := causeTbBad, addr := a } else c.finish clear (fun _ => c.next))) ∧
      (c.parts.op = .tbwait → u.part.acquiring c.ref = false → ∀ q ∈ Rules.placedAt c u a, isDevice q.2 = true →
        let s1 : State := { u with part := q.1 }
        ∀ bs ∈ s1.tbRead c q.2,
        let s2 : State := { s1 with part := s1.part.dropReads (s1.part.syncReads c.ref c.pc) }
        let vc := (s2.part.die (homeDie q.2)).vc
        let see (k : Core) : Core := (k.see vc).acquire
        exec i s = .next (if (nth bs 3 0).getLsbD 7 = mBit c.x 8 then
            match c.cancelled s2 c.group with
            | some (s3, t) => s3.raise c t
            | none => c.parkAt s2 .phase
          else c.finish (c.writeWarp { s2 with part := s2.part.onCore c.ref.core see }
            [(.q c.f.d.toNat, if (nth bs 3 0).getLsbD 6 then 1 else 0)]) (fun _ => c.next))))

namespace Sys2Proof

open Machine

/-! ### Supersteps and messages, R214 to R221 -/

/-- R214, completion. CATCH (CATCH_LONG) traps CATCH_BAD in a workgroup of another class than 2, without phase mode, or
under a lock; else, once the release at .DV it asks for has completed, its threads have arrived and park there, naming the
register that its D option names, and barriers that are complete flip. -/
def Rules.superstepsRule : Prop :=
  ∀ (s : State) (i : Instr) (c : Ctx), s.acts i = some c → c.parts.op = .catchOp →
    let u := c.counted s
    let bad := decide (c.g.cls ≠ 2) || !c.g.phaseMode || c.w.lock.isSome
    let reg := if mBit c.x 0 then some c.f.d.toNat else none
    let threads := c.group.map (fun l => 32 * c.ref.warp + l)
    let arrive (g : Wg) : Wg :=
      { g with caught := g.caught.filter (fun a => !threads.contains a.1) ++ threads.map (fun t => (t, reg)) }
    let rest (t : Thread) : Thread := { t with st := .live (.parked (.catchStep c.size)), since := u.part.now }
    exec i s = .next (if c.on u = false then c.goesOn s else if bad then u.raise c { cause := causeCatchBad } else
      ((Rules.released c u true 3).map (fun v =>
        let p := v.part.onWg c.ref.core c.ref.slot (fun g => (arrive g).onWarp c.ref.warp (fun w => w.onLanes c.group rest))
        let t := c.finish { v with part := p } (fun _ => c.pc)
        { t with part := t.part.settle c.ref.core c.ref.slot })).getD
      (match u.part.release c.ref c.pc 3 (u.part.quietOf c.ref) with
        | .begun p => c.begun { u with part := p } 13
        | _ => c.held s 13))

/-- R217, R221: a match word takes a message: source core and slot in bits 13 to 0 unless bit 14 is set, and the tag in
bits 31 to 16 unless bit 15 is set. -/
def Rules.takes (w : Word) (m : Message) : Bool :=
  (w.getLsbD 14 || ((w.extractLsb 7 0).toNat == m.srcCore && (w.extractLsb 13 8).toNat == m.srcSlot)) &&
    (w.getLsbD 15 || (w.extractLsb 31 16).toNat == m.tag)

/-- R220: the messages in the hamper for the workgroup, oldest first. -/
def Rules.kept (c : Ctx) (s : State) : List Message :=
  ((s.part.core? c.ref.core).map (fun k => k.hamper.filter (fun m => m.dstSlot == c.ref.slot))).getD []

/-- R216: the form of a SEND: destination word, length and address. -/
def Rules.sendForm (dest : Word) (a n : Nat) : Bool :=
  dest.extractLsb 15 14 == 0 && decide ((dest.extractLsb 13 8).toNat ≤ 47) && decide (1 ≤ n) && decide (n ≤ 4096) && a % 16 == 0

/-- R217: the form of a receive in a window: line-aligned destination, receipt outside it, lengths, no byte beyond the
window or in its command ring. -/
def Rules.receiveForm (size : Nat) (r : Receive) : Bool :=
  let stop := r.dst + roundUp r.max 128
  r.dst % 128 == 0 && r.receipt % 16 == 0 && decide (1 ≤ r.max) && decide (r.max ≤ 4096) &&
    (decide (r.receipt < r.dst) || decide (stop ≤ r.receipt)) && decide (stop ≤ size - 512) && decide (r.receipt + 16 ≤ size - 512)

/-- R216 to R221, completion. SEND, RECVP and MPROBE complete without their guard. A SEND whose form and window pass, whose source
lines are full and whose list and engine have room is dispatched under the launch's next XT number where its own die hands it out,
and where it has been numbered elsewhere. A RECVP whose form passes, with a receive free, empties the lines of its range and
receipt, then takes the oldest hampered message its word matches, or waits. MPROBE gives length and source of the oldest match, or
q 0. -/
def Rules.messagesRule : Prop :=
  ∀ (s : State) (i : Instr) (c : Ctx), s.acts i = some c →
    let e := c.sees s
    let u := c.counted s
    let nat (r : BitVec 6) : Nat := (e.s r.toNat).toNat
    (c.parts.op ∈ [Op.send, .recvp, .mprobe] → c.on u = false → exec i s = .next (c.goesOn s)) ∧
    (c.parts.op = .send → c.on u = true → (∀ a ∈ c.w.answer, a.1 ≠ c.pc) →
      let a := nat c.f.a
      let n := nat c.f.b
      let q := c.sendCommand u (e.s c.f.d.toNat) a n
      Rules.sendForm (e.s c.f.d.toNat) a n = true → a + n ≤ c.g.scratch → c.g.emptyLines (linesTouched [(a, n)]) = [] →
      u.part.sendListBusy c.ref q.ring = false → u.part.engineFull c.ref.core .send = false →
      u.part.anchorOf c.g.launch (dieOf c.ref.core) = dieOf c.ref.core →
      let x := ((u.part.launch? c.g.launch).map (·.xt.issued)).getD 0 + 1
      let count (g : Wg) : Wg := { g with sends := g.sends + 1, xtLast := x, xtOpen := g.xtOpen ++ [x] }
      let p := { u.part with nextCommand := u.part.nextCommand + 1 }
      let p := (p.onWg c.ref.core c.ref.slot count).onLaunch c.g.launch (fun l => { l with xt := { l.xt with issued := l.xt.issued + 1 } })
      let p := p.onDie (dieOf c.ref.core) (fun d => { d with collQueue := d.collQueue ++ [{ q with number := x }] })
      exec i s = .next (c.finish (c.markDispatched { u with part := p }) (fun _ => c.next))) ∧
    (c.parts.op = .send → c.on u = true → (∀ a ∈ c.w.answer, a.1 = c.pc ∧ a.2.isSome = true) → c.w.answer.isSome = true →
      let p := u.part.setAnswer c.ref none
      ∀ k ∈ p.core? c.ref.core, ∀ x ∈ k.numbering.find? (fun q => q.w == c.ref),
        let p := p.onCore c.ref.core (fun k => { k with numbering := k.numbering.filter (fun y => y.id != x.id) })
        exec i s = .next (c.finish (c.markDispatched { u with part := p.dispatchCommand x 0 }) (fun _ => c.next))) ∧
    (c.parts.op = .recvp → c.on u = true →
      let r : Receive := ⟨c.ref.warp, nat c.f.d, e.s c.f.a.toNat, nat c.f.b, nat c.x.c⟩
      Rules.receiveForm c.g.scratch r = true → c.g.receives.length < 16 →
      let lines := linesTouched [(r.dst, r.max)] ++ [r.receipt / 128]
      let empty (g : Wg) : Wg := lines.foldl (fun g l => g.setLine l { g.lineState l with full := false }) g
      let p := u.part.onWg c.ref.core c.ref.slot empty
      let m := (Rules.kept c u).find? (Rules.takes r.mw)
      let open_ := p.onWg c.ref.core c.ref.slot (fun g => { g with receives := g.receives ++ [r] })
      (m = none → exec i s = .next (c.finish { u with part := open_ } (fun _ => c.next))) ∧
      (∀ x ∈ m,
        let bs := u.homeRead (u.part.hamperAt c.ref.core x.entry) x.len
        let p := p.onCore c.ref.core (fun k => { k with hamper := k.hamper.filter (fun y => y.entry != x.entry) })
        exec i s = .next (c.finish { u with part := p.deliverMessage c.ref.core c.ref.slot r x bs } (fun _ => c.next)))) ∧
    (c.parts.op = .mprobe → c.on u = true →
      let d := c.f.d.toNat
      exec i s = .next (match (Rules.kept c u).find? (Rules.takes (e.s c.f.a.toNat)) with
        | none => c.givesWarp s [(.q c.x.c.toNat, 0)]
        | some m => c.givesWarp s [(.s d, word m.len), (.s (d + 1), word (m.srcCore + 256 * m.srcSlot + 65536 * m.tag)),
            (.q c.x.c.toNat, 1)]))

end Sys2Proof

open Sys2Proof Sys2Proof.Machine in
/-- CATCH and messages: superstepsRule and messagesRule, whose rules stand with them. -/
def Obligations.SuperstepsAndMessages : Prop :=
  Rules.superstepsRule ∧ Rules.messagesRule

namespace Sys2Proof

open Machine

/-! ### Launches from the device, R223 to R229 -/

/-- R223, R224, completion. LREC completes without its guard, and where its base is a multiple of 64 and its 32 bytes lie
in the window below the ring: they get the eight registers. LAUNCH completes without its guard; with a record that passes
R323, in full lines of the window, and a free place in the pending queue, it pushes the record, once the release at .DV has
completed, and gives the id (and, under .NB, q 1); under .NB with no place it gives q 0, and else it parks. -/
def Rules.launchRecordsRule : Prop :=
  ∀ (s : State) (i : Instr) (c : Ctx), s.acts i = some c →
    let e := c.sees s
    let u := c.counted s
    (c.parts.op ∈ [Op.lrec, .launch] → c.on u = false → exec i s = .next (c.goesOn s)) ∧
    (c.parts.op = .lrec → c.on u = true →
      let base := (e.s c.f.d.toNat).toNat
      let a := base + 32 * mBits c.x 0 0
      base % 64 = 0 → a + 32 ≤ c.g.scratch - 512 →
      let bs := ((List.range 8).map (fun j => e.s (c.f.a.toNat + j))).flatMap (fun w => leBytes 4 w.toNat)
      exec i s = .next (c.finish { u with part := u.part.winWrite c.ref.core c.ref.slot a bs } (fun _ => c.next))) ∧
    (c.parts.op = .launch → c.on u = true →
      let a := (e.s c.f.a.toNat).toNat
      let ws := bytesWords (u.part.winRead c.ref.core c.ref.slot a 64)
      a % 64 = 0 → a + 64 ≤ c.g.scratch → c.g.emptyLines (linesTouched [(a, 64)]) = [] → recordOk ws = true →
      (4 ≤ c.g.pending.length →
        let v : State := { u with part := u.part.onWarp c.ref (fun w => { w with release := w.release.filter (fun r => !r.done) }) }
        exec i s = .next (if mBit c.x 0 then c.finish (c.writeWarp v [(.q c.x.c.toNat, 0)]) (fun _ => c.next)
          else c.parkAt v .queue)) ∧
      (c.g.pending.length < 4 → ∀ v ∈ Rules.released c u true 3,
        let queue := ((v.part.launch? c.g.launch).map (·.queue)).getD 0
        let q := v.part.addLaunch ws queue c.g.job c.g.launch (some (c.g.launch, c.g.number, c.ref.warp)) false
        let push (g : Wg) : Wg := { g with pending := g.pending ++ [⟨q.2, ws, c.ref.warp⟩], pushed := g.pushed ++ [q.2] }
        exec i s = .next (c.finish (c.writeWarp { v with part := q.1.onWg c.ref.core c.ref.slot push }
          ((.s c.f.d.toNat, word q.2) :: (if mBit c.x 0 then [(.q c.x.c.toNat, 1)] else []))) (fun _ => c.next))))

/-- R225: the id and the counter that an instruction names at levels 1 to 4. -/
def Rules.named (c : Ctx) (s : State) (e : Env) : Option (Nat × Counter) :=
  let level := mBits c.x 2 0
  let id := (e.s c.f.a.toNat).toNat
  let id := if level = 4 ∧ id = 0 then c.g.job else id
  if level = 0 then none else (s.part.counter? c.g.job level id).map (fun k => (id, k))

/-- R227: a workgroup that a CWAIT.SWAP leaves in place. -/
def Rules.stays (c : Ctx) (s : State) : Bool :=
  c.g.cls == 2 || decide (2 ≤ c.g.cluster) || c.g.warps.any (fun w => w.lock.isSome) || !c.g.receives.isEmpty ||
    !(Rules.kept c s).isEmpty

/-- R225 to R228, completion. CWAIT that names no counter traps CWAIT_BAD. Where its counter meets the target it acquires
at .DV and gives q 0, under SWAP too when no drain is on, and where the workgroup stays in place also under a drain; a
counter that does not meet it parks a CWAIT without SWAP or in a workgroup that stays. A CWAIT whose wait an event has
granted goes on in the same way, whatever the counter has become since (log entry 26). CGET gives COUNT and FLAGS of the counter
it names, or at level 0 how many warps of the workgroup have finished, with FLAGS 0 (log entry 26). -/
def Rules.countersRule : Prop :=
  ∀ (s : State) (i : Instr) (c : Ctx), s.acts i = some c →
    let e := c.sees s
    let u := c.counted s
    let d := c.f.d.toNat
    let see (p : Part) : Part :=
      (p.onCore c.ref.core (fun k => (p.dies.foldl (fun k y => k.see y.vc) k).acquire)).onWarp c.ref (fun w =>
        { w with granted := w.granted.filter (fun pc => pc != c.pc) })
    let ends := c.finish (c.writeWarp { u with part := see u.part } [(.q d, 0)]) (fun _ => c.next)
    let give (a b : Nat) : State := c.givesWarp s [(.s d, word a), (.s (d + 1), word b)]
    (c.parts.op ∈ [Op.cwait, .cget] → c.on u = false → exec i s = .next (c.goesOn s)) ∧
    (c.parts.op = .cwait → c.on u = true →
      (c.w.granted.contains c.pc = true → exec i s = .next ends) ∧
      (c.w.granted.contains c.pc = false → Rules.named c u e = none → exec i s = .next (u.raise c { cause := causeCwaitBad })) ∧
      (c.w.granted.contains c.pc = false → ∀ q ∈ Rules.named c u e,
        let n := (e.s c.f.b.toNat).toNat
        let meets := q.2.meets n (mBit c.x 4)
        (meets = true → (mBit c.x 3 = false ∨ c.g.drain = false ∨ Rules.stays c u = true) → exec i s = .next ends) ∧
        (meets = false → (mBit c.x 3 = false ∨ Rules.stays c u = true) →
          exec i s = .next (c.parkAt u (.counter (mBits c.x 2 0) q.1 n (mBit c.x 4)))))) ∧
    (c.parts.op = .cget → c.on u = true →
      let id := (e.s c.f.a.toNat).toNat
      (mBits c.x 2 0 = 0 → exec i s = .next (if id = 0 then give (c.g.warps.countP Warp.finished) 0
        else u.raise c { cause := causeCwaitBad })) ∧
      (mBits c.x 2 0 ≠ 0 → exec i s = .next (match Rules.named c u e with
        | none => u.raise c { cause := causeCwaitBad }
        | some q => give q.2.count q.2.flags)))

/-- R227: a CWAIT.SWAP that does not go on, or that a drain covers (R286), in a workgroup that need not stay, whose image has
space in the save area: it gives q 1 and the image begins. Every warp is back on the herd and stops where it is in a skid; that
the others halt at once is the model's choice (log entry 8), and so is the place of the image, first fit at multiples of 4 KiB
(log entry 15). -/
def Rules.swappingWaitsRule : Prop :=
  ∀ (s : State) (i : Instr) (c : Ctx), s.acts i = some c → c.parts.op = .cwait →
    let e := c.sees s
    let u := c.counted s
    let n := (e.s c.f.b.toNat).toNat
    c.on u = true → c.w.granted.contains c.pc = false → mBit c.x 3 = true → Rules.stays c u = false →
    ∀ q ∈ Rules.named c u e, (q.2.meets n (mBit c.x 4) = false ∨ c.g.drain = true) →
    ∀ a ∈ u.saveSpace (((u.part.launch? c.g.launch).map (·.queue)).getD 0) c.g.imageSize,
    let v := c.finish (c.writeWarp u [(.q c.f.d.toNat, 1)]) (fun _ => c.next)
    let leave (w : Warp) (n : Nat) : Warp := match w.skid with
      | none => w.demote
      | some x => w.stopSkid x.by_ (x.issued + n)
    let stop (w : Warp) (k : Nat) : Warp := if k = c.ref.warp then leave w 1 else (leave w 0).haltAll [.swap]
    let go (g : Wg) : Wg :=
      { g with warps := g.warps.zipIdx.map (fun x => stop x.1 x.2),
               swapping := some (⟨c.ref.warp, mBits c.x 2 0, q.1, n, mBit c.x 4, q.2.meets n (mBit c.x 4)⟩, a, none) }
    let p := (v.part.onWg c.ref.core c.ref.slot go).onCox (fun y => { y with saves := y.saves ++ [(a, c.g.imageSize)] })
    exec i s = .next { v with part := p }

end Sys2Proof

open Sys2Proof Sys2Proof.Machine in
/-- Completion counters and swapping waits: countersRule and swappingWaitsRule, whose rules stand with them. -/
def Obligations.CounterWaits : Prop :=
  Rules.countersRule ∧ Rules.swappingWaitsRule

namespace Sys2Proof

open Machine

/-- R225, R229, completion. CANCEL at level 4 outside trap mode traps PRIV. At level 0, with id 0, it cancels its own
workgroup and every launch it pushed; above, a CANCEL that names a counter asks the cox and waits, and it completes when the
cox has answered. One that names no counter, then or while it waits, or at level 0 another id, traps CWAIT_BAD. -/
def Rules.cancellationRule : Prop :=
  ∀ (s : State) (i : Instr) (c : Ctx), s.acts i = some c → c.parts.op = .cancel →
    let e := c.sees s
    let u := c.counted s
    let level := mBits c.x 2 0
    let id := (e.s c.f.a.toNat).toNat
    (c.on u = false → exec i s = .next (c.goesOn s)) ∧
    (c.on u = true → level = 4 → c.w.trapMode = false → exec i s = .next (u.raise c (c.wordTrap causePriv))) ∧
    (c.on u = true → level = 0 → exec i s = .next (
      if id = 0 then c.finish { u with part := u.part.cancelSelf c.ref.core c.ref.slot c.g } (fun _ => c.next)
      else u.raise c { cause := causeCwaitBad })) ∧
    (c.on u = true → level ≠ 0 → (level = 4 → c.w.trapMode = true) →
      (∀ a ∈ c.w.answer, a.1 = c.pc → a.2.isSome = true → exec i s = .next
        (c.finish { u with part := u.part.onWarp c.ref (fun w => { w with answer := none }) } (fun _ => c.next))) ∧
      (∀ a ∈ c.w.answer, a.1 = c.pc → a.2 = none → Rules.named c u e = none →
        let p := (u.part.onWarp c.ref (fun w => { w with answer := none })).onCox (fun x =>
          { x with asked := x.asked.filter (fun q => q.1 != c.ref) })
        exec i s = .next ({ u with part := p }.raise c { cause := causeCwaitBad })) ∧
      ((∀ a ∈ c.w.answer, a.1 ≠ c.pc) → exec i s = .next (match Rules.named c u e with
        | none => u.raise c { cause := causeCwaitBad }
        | some q =>
          let p := u.part.onWarp c.ref (fun w => { w with answer := some (c.pc, none) })
          c.begun { u with part := p.onCox (fun x => { x with asked := x.asked ++ [(c.ref, level, q.1)] }) } 15)))

end Sys2Proof

open Sys2Proof Sys2Proof.Machine in
/-- Launch records and cancels: launchRecordsRule and cancellationRule, whose rules stand with them. -/
def Obligations.Launching : Prop :=
  Rules.launchRecordsRule ∧ Rules.cancellationRule

namespace Sys2Proof

open Machine

/-! ### Control registers, the format context, the watch bank, R231 to R244 -/

/-- The low and the high word of a value. -/
def Rules.halves (n : Nat) : List Word := [word n, word (n / 2 ^ 32)]

/-- R231, R232, R96: the control registers, as runs of words from a number on. -/
def Rules.controlFile (c : Ctx) (u : State) : List (Nat × List Word) :=
  let w := c.w
  let g := c.g
  let k := (u.part.core? c.ref.core).getD Core.reset
  let d := u.part.die (dieOf c.ref.core)
  let xt := ((u.part.launch? g.launch).map (·.xt)).getD Timeline.zero
  let entry (i : Nat) : List Word := [(g.fmt.entry i).w0, (g.fmt.entry i).w1, (g.fmt.entry i).w2, (g.fmt.entry i).w3]
  let words (n : Nat) (l : List Word) : List Word := (List.range n).map (fun i => nth l i 0)
  let status : Word := (if w.trapMode then 0x80000000 else 0) ||| (if w.hchk then 1 else 0)
  [(0x000, [w.tcause, w.tlanes] ++ Rules.halves w.tepc ++ Rules.halves w.taddr ++
      [w.tinfo0, w.tinfo1, word w.tskid, word (min 7 w.tqueue.length + 256 * w.tlost)] ++ words 4 w.tsave),
   (0x010, [word w.fstat.toNat, word w.ften.toNat, status]),
   (0x100, (List.range 32).flatMap entry),
   (0x180, (List.range 8).flatMap (fun i => words 8 (nth g.fmt.tables i []))),
   (0x200, (List.range 16).flatMap (fun i => words 8 (nth k.preds i Predicate.start).words)),
   (0x280, words 4 g.swsel ++ [word g.swheld]),
   (0x300, (List.range 9).flatMap (fun i => Rules.halves (nth k.ehist i 0))),
   (0x320, (List.range 16).flatMap (fun i => Rules.halves (nth k.stall i 0)) ++ Rules.halves g.bconf ++ [if k.pctl then 1 else 0]),
   (0x400, [k.part]), (0x402, Rules.halves c.tbase),
   (0x410, [g.ct.completed, g.ct.issued, g.ct.errFirst, g.mt.completed, g.mt.issued, g.mt.errFirst, xt.completed,
      xt.issued].flatMap Rules.halves ++ [word ((if k.narrow then 1 else 0) + (if d.alarm then 2 else 0)), word d.palarm]),
   (0x430, [word u.part.mgmt.devid, word (0x72000000 + Config.stepping.toNat), u.part.cox.ucver, word g.job] ++
      Rules.halves Config.serial.toNat ++ [word (nth u.part.clusters (clusterOf c.ref.core) Cluster.reset).trlost])]

/-- The word of a control register. -/
def Rules.control (c : Ctx) (u : State) (n : Nat) : Word :=
  ((Rules.controlFile c u).findSome? (fun r => if r.1 ≤ n then r.2[n - r.1]? else none)).getD 0

/-- R231, R233, completion. CSRR completes without its guard, and, unless it names FSTAT with flags of lane instructions to
come, gives the register it names, or under WD 1 that and the next. -/
def Rules.controlReadsRule : Prop :=
  ∀ (s : State) (i : Instr) (c : Ctx), s.acts i = some c → c.parts.op = .csrr →
    let u := c.counted s
    let n := mBits c.x 11 0
    (c.on u = false → exec i s = .next (c.goesOn s)) ∧
    (c.on u = true → (n = 0x010 ∨ (n = 0x00F ∧ c.x.wd = 1) → ∀ e ∈ c.w.pend, e.raisesFlags = false) →
      exec i s = .next (c.givesWarp s (sGroup c.f.d c.x.wd (fun j => Rules.control c u (n + j)))))

/-- R242: an armed slice comparator may be set: a watch of data the workgroup owns, of reads or writes or both, in at most
four extents. -/
def Rules.watches (c : Ctx) (u : State) (n : Nat) : Option Comparator :=
  let d := nth ((u.part.core? c.ref.core).getD Core.reset).preds n Predicate.start
  if d.owner == some c.ref.slot && (d.kind == 2 || d.kind == 3) && !d.access.testBit 3 then
    (Predicate.extents u c.g.job d).map (fun xs => ⟨c.ref.core, c.ref.slot, n, d.words, xs⟩)
  else none

/-- R231, R233, R242: what a write of v does to the register n; none where it is refused. -/
def Rules.written (c : Ctx) (u : State) (n : Nat) (v : Word) : Option Part :=
  let p := u.part
  let half (j old : Nat) : Nat := if j % 2 = 0 then v.toNat + 2 ^ 32 * (old / 2 ^ 32) else old % 2 ^ 32 + 2 ^ 32 * v.toNat
  let warp (f : Warp → Warp) : Option Part := some (p.onWarp c.ref f)
  let core (f : Core → Core) : Option Part := some (p.onCore c.ref.core f)
  if n = 0x001 then warp (fun w => { w with tlanes := v })
  else if n = 0x002 then (if v.extractLsb 1 0 = 0 then warp (fun w => { w with tepc := half 0 w.tepc }) else none)
  else if n = 0x003 then (if v.extractLsb 31 25 = 0 then warp (fun w => { w with tepc := half 1 w.tepc }) else none)
  else if 0x00A ≤ n ∧ n ≤ 0x00D then warp (fun w => { w with tsave := setNth w.tsave (n - 0x00A) v })
  else if n = 0x010 then warp (fun w => { w with fstat := w.fstat &&& ~~~(v.extractLsb 7 0) })
  else if n = 0x011 then warp (fun w => { w with ften := v.extractLsb 3 0 })
  else if n = 0x012 then warp (fun w => { w with hchk := v.getLsbD 0 })
  else if 0x280 ≤ n ∧ n ≤ 0x283 then
    let k := n - 0x280
    let foreign := match nth p.comparators k none with
      | none => false
      | some q => q.core != c.ref.core || q.slot != c.ref.slot
    let armed := v.getLsbD 31
    let q := Rules.watches c u (v.extractLsb 3 0).toNat
    if foreign || (armed && q.isNone) then none
    else
      let held := (c.g.swheld &&& (15 - 2 ^ k)) + (if armed then 2 ^ k else 0)
      some { p.onWg c.ref.core c.ref.slot (fun g => { g with swsel := setNth g.swsel k (v &&& 0x8000000F), swheld := held }) with
        comparators := setNth p.comparators k (if armed then q else none) }
  else if 0x300 ≤ n ∧ n ≤ 0x311 then core (fun k => { k with ehist := modifyNth k.ehist ((n - 0x300) / 2) (half n) })
  else if 0x320 ≤ n ∧ n ≤ 0x33F then core (fun k => { k with stall := modifyNth k.stall ((n - 0x320) / 2) (half n) })
  else if n = 0x340 ∨ n = 0x341 then some (p.onWg c.ref.core c.ref.slot (fun g => { g with bconf := half n g.bconf }))
  else core (fun k => { k with pctl := v.getLsbD 0 })

/-- R231, R233, R242, completion. CSRW completes without its guard, and where the register takes the value that OPW forms of
a and the register: FSTAT clears the bits that are 1, a half of a 64-bit register keeps the other half, SWSEL arms or frees a
slice comparator. (An HCHK, FTEN, PCTL or SWSEL write drops the bits that have no meaning. That a half of EHIST, STALL or BCONF
keeps a value other than 0 is the model's choice, log entry 23.) -/
def Rules.controlWritesRule : Prop :=
  ∀ (s : State) (i : Instr) (c : Ctx), s.acts i = some c → c.parts.op = .csrw →
    let u := c.counted s
    let n := mBits c.x 11 0
    let a := (c.sees s).s c.f.a.toNat
    let old := Rules.control c u n
    let v := match mBits c.x 13 12 with
      | 0 => a
      | 1 => old ||| a
      | _ => old &&& ~~~a
    (c.on u = false → exec i s = .next (c.goesOn s)) ∧
    (c.on u = true → ∀ p ∈ Rules.written c u n v, exec i s = .next (c.finish { u with part := p } (fun _ => c.next)))

end Sys2Proof

open Sys2Proof Sys2Proof.Machine in
/-- Control registers: controlReadsRule and controlWritesRule, whose rules stand with them. -/
def Obligations.ControlRegisters : Prop :=
  Rules.controlReadsRule ∧ Rules.controlWritesRule

namespace Sys2Proof

open Machine

/-- R95, R237, completion. FMTSET completes without its guard, and where the entry is not locked, the image passes R75 to R92
and no outstanding result or command names the entry: it takes the image with the next generation, not locked; else FMT_ILLEGAL
traps. FMTGET gives the four words of an entry. CPDSET completes likewise for a table that passes R91, and every unlocked entry
that names the table takes its next generation. -/
def Rules.formatContextRule : Prop :=
  ∀ (s : State) (i : Instr) (c : Ctx), s.acts i = some c →
    let e := c.sees s
    let u := c.counted s
    let n := mBits c.x 4 0
    let old := c.g.fmt.entry n
    let set (f : FmtCtx → FmtCtx) : State :=
      let mine (q : Nat × Nat × List Nat) : Bool := q.1 == c.ref.warp && q.2.1 == c.pc
      c.finish { u with part := u.part.onWg c.ref.core c.ref.slot (fun g =>
        { g with fmt := f g.fmt, fmtWait := c.g.fmtWait.filter (fun q => !mine q) }) } (fun _ => c.next)
    let gen (w1 g : Word) : Word := (w1 &&& 0x0FFFFFFF) ||| ((g + 1) <<< 29 >>> 1)
    let image : Entry := ⟨e.s c.f.a.toNat, e.s (c.f.a.toNat + 1), e.s (c.f.a.toNat + 2), e.s (c.f.a.toNat + 3)⟩
    (c.parts.op ∈ [Op.fmtset, .fmtget, .cpdset] → c.on u = false → exec i s = .next (c.goesOn s)) ∧
    (c.parts.op = .fmtset → c.on u = true →
      (old.locked || !imageOk c.g.fmt image → exec i s = .next (u.raise c
        { cause := causeFmtIllegal, info0 := 128 + 256 * n, info1 := (c.g.fmt.tagOf n).toNat })) ∧
      (old.locked = false → imageOk c.g.fmt image = true → c.g.fmtBusy n = false →
        exec i s = .next (set (fun t =>
          { t with entries := setNth t.entries n { image with w1 := gen image.w1 (word (t.entry n).gen) } })))) ∧
    (c.parts.op = .fmtget → c.on u = true →
      exec i s = .next (c.givesWarp s (sGroup c.f.d 2 (fun j => nth [old.w0, old.w1, old.w2, old.w3] j 0)))) ∧
    (c.parts.op = .cpdset → c.on u = true →
      let k := mBits c.x 3 0
      let table := (List.range 8).map (fun j => e.s (c.f.a.toNat + j))
      let names (t : Entry) : Bool := !t.locked && (t.w1.extractLsb 27 24).toNat == k
      tableOk table = true → (∀ j ∈ List.range 32, names (c.g.fmt.entry j) = true → c.g.fmtBusy j = false) →
      exec i s = .next (set (fun t =>
        { tables := setNth t.tables (k - 1) table,
          entries := t.entries.map (fun y => if names y then { y with w1 := gen y.w1 (word y.gen) } else y) })))

/-- R239, R243, completion. WPSET completes without its guard, and with a well-formed definition, of launch scope in trap mode
only, of a predicate that no other workgroup has enabled: the predicate takes it, disabled, counting from 0. WPCTL completes
without its guard; it enables, disables or clears a predicate of its own (disabling and clearing an unowned one too), and
gives its count or its state whosever it is. What issues in the same cycle still meets the predicates as they stood (R244). A
WPSET of a predicate that another workgroup has enabled, and a WPCTL that would change one that another owns, trap PROT, with
the group's lanes in TINFO0 (log entry 23). -/
def Rules.watchBankRule : Prop :=
  ∀ (s : State) (i : Instr) (c : Ctx), s.acts i = some c → c.parts.op ∈ [Op.wpset, .wpctl] →
    let e := c.sees s
    let u := c.counted s
    let n := mBits c.x 3 0
    let cur := nth ((u.part.core? c.ref.core).getD Core.reset).preds n Predicate.start
    let mine := decide (cur.owner = some c.ref.slot)
    let op := mBits c.x 6 4
    let d : Predicate := ⟨(List.range 8).map (fun j => e.s (c.f.a.toNat + j)), some c.ref.slot, false, 0, false⟩
    let put (d : Predicate) : State :=
      c.finish { u with part := u.part.onCore c.ref.core (fun k =>
        { k with preds := setNth k.preds n d, oldPreds := some (k.oldPreds.getD k.preds) }) } (fun _ => c.next)
    let give (v : Nat) : State := c.givesWarp s [(.s c.f.d.toNat, word v)]
    let prot : TrapInfo := { cause := causeProt, info0 := maskOf c.group }
    (c.on u = false → exec i s = .next (c.goesOn s)) ∧
    (c.on u = true → c.parts.op = .wpset → d.badForm = false → (d.launchScope = true → c.w.trapMode = true) →
      exec i s = .next (if cur.owner.isSome ∧ mine = false ∧ cur.enabled = true then u.raise c prot else put d)) ∧
    (c.on u = true → c.parts.op = .wpctl → (op ≤ 2 → cur.owner = none ∨ mine = true) → (op = 0 → mine = true) →
      exec i s = .next (match op with
        | 0 => put { cur with enabled := true }
        | 1 => put { cur with enabled := false }
        | 2 => put { cur with count := 0, fired := false }
        | 3 => give cur.count
        | _ => give ((if cur.enabled then 1 else 0) + (if cur.fired then 2 else 0) + (if mine then 4 else 0)))) ∧
    (c.on u = true → c.parts.op = .wpctl → op ≤ 2 → cur.owner.isSome = true → mine = false → exec i s = .next (u.raise c prot))

end Sys2Proof

open Sys2Proof Sys2Proof.Machine in
/-- Format context and watch bank: formatContextRule and watchBankRule, whose rules stand with them. -/
def Obligations.FormatsAndWatches : Prop :=
  Rules.formatContextRule ∧ Rules.watchBankRule

namespace Sys2Proof

open Machine

/-! ### Halted threads, R245 to R250 -/

/-- R245: the thread that a target word names: of another warp of the workgroup, its registers committed. -/
def Rules.haltedTarget (c : Ctx) (a : Word) : Option (Nat × Nat × Warp × Thread) :=
  let k := (a.extractLsb 8 5).toNat
  let l := (a.extractLsb 4 0).toNat
  if a.extractLsb 31 9 != 0 || k == c.ref.warp then none
  else (c.g.warps[k]?).bind (fun w => (w.lane? l).bind (fun t => if w.committed l then some (k, l, w, t) else none))

/-- R246: the value of an item of a thread of a warp. -/
def Rules.item (w : Warp) (t : Thread) (n : Nat) : Word :=
  let preds (ps : List Bool) : Word := word (((List.range 7).map (fun j => if nth ps j false then 2 ^ j else 0)).sum)
  if n ≤ 0x3F then nth t.v n 0
  else if n ≤ 0x7F then word (nth t.tags (n - 0x40) 0).toNat
  else if n ≤ 0xBF then nth w.s (n - 0x80) 0
  else nth [preds t.p, preds w.q, word t.pc, word (t.pc / 2 ^ 32), word (t.heldCode w.kPark), word w.tskid, word t.safePc,
    word (t.safePc / 2 ^ 32)] (n - 0xC0) 0

/-- R246: the warp after an item of a thread of it is written. -/
def Rules.itemSet (w : Warp) (l n : Nat) (v : Word) : Warp :=
  let on (f : Thread → Thread) : Warp := w.onLane l f
  let preds : List Bool := (List.range 7).map v.getLsbD
  if n ≤ 0x3F then on (fun t => { t with v := setNth t.v n v })
  else if n ≤ 0x7F then on (fun t => { t with tags := setNth t.tags (n - 0x40) (v.extractLsb 7 0) })
  else if n ≤ 0xBF then { w with s := setNth w.s (n - 0x80) v }
  else if n = 0xC0 then on (fun t => { t with p := preds })
  else if n = 0xC1 then { w with q := preds }
  else if n = 0xC2 then on (fun t => { t with pc := v.toNat + 2 ^ 32 * (t.pc / 2 ^ 32), retry := false })
  else on (fun t => { t with pc := t.pc % 2 ^ 32 + 2 ^ 32 * v.toNat, retry := false })

/-- R246: a register item lies in the workgroup's registers. -/
def Rules.itemOk (c : Ctx) (n : Nat) : Bool := decide (0x80 ≤ n) || decide (n % 64 < c.g.nregs)

/-- R245, R246, completion. HREAD completes without its guard, and for a halted or exited thread of another warp whose
registers have committed, with an item in range: it gives the item. HWRITE completes likewise for a halted thread, where a
value for a half of the PC is one a PC can have: the item takes the value. A target word with bits above 8 set, or of a warp that
the workgroup has not, traps BAD_TARGET with the word as TADDR and the group's lanes in TINFO0 (log entry 13). Commands of the
debug channel that came before are served first (R382, log entry 22). -/
def Rules.haltedRegistersRule : Prop :=
  ∀ (s : State) (i : Instr) (c : Ctx), s.acts i = some c → c.parts.op ∈ [Op.hread, .hwrite] →
    let e := c.sees s
    let u := c.counted s
    let n := mBits c.x 7 0
    let v := e.s c.f.b.toNat
    (c.on u = false → exec i s = .next (c.goesOn s)) ∧
    (c.on u = true → u.part.debugHolds c.ref = false → Rules.itemOk c n = true → ∀ q ∈ Rules.haltedTarget c (e.s c.f.a.toNat),
      (c.parts.op = .hread → (q.2.2.2.isHalted || q.2.2.2.isExited) = true →
        exec i s = .next (c.givesWarp s [(.s c.f.d.toNat, Rules.item q.2.2.1 q.2.2.2 n)])) ∧
      (c.parts.op = .hwrite → q.2.2.2.isHalted = true →
        (n = 0xC2 → v.extractLsb 1 0 = 0) → (n = 0xC3 → v.extractLsb 31 25 = 0) →
        exec i s = .next (c.finish { u with part := u.part.onWarp ⟨c.ref.core, c.ref.slot, q.1⟩ (fun w =>
          Rules.itemSet w q.2.1 n v) } (fun _ => c.next)))) ∧
    (c.on u = true → (c.g.target (e.s c.f.a.toNat)).isNone = true → exec i s = .next (u.raise c
      { cause := causeBadTarget, addr := (e.s c.f.a.toNat).toNat, info0 := maskOf c.group }))

/-- R247, R248, R250, completion. HSTEP completes without its guard, and when its step has been made and the results of the thread
stepped have committed: it gives whether the step completed. HRES, with no command of the debug channel before it (log entry 22),
ends the halts of the threads its word names: one lane or all of a warp, or of every warp. DUMPQ (DUMPQ_LONG) asks for a live dump
of a workgroup of a job that permits one, and gives its ticket, that of a dump under way, or 0. -/
def Rules.haltedControlRule : Prop :=
  ∀ (s : State) (i : Instr) (c : Ctx), s.acts i = some c → c.parts.op ∈ [Op.hstep, .hres, .dumpq] →
    let u := c.counted s
    let a := (c.sees s).s c.f.a.toNat
    let k := (a.extractLsb 8 5).toNat
    (c.on u = false → exec i s = .next (c.goesOn s)) ∧
    (c.on u = true → c.parts.op = .hstep → ∀ x ∈ c.w.answer, x.1 = c.pc → ∀ r ∈ x.2,
      (∀ q ∈ c.g.target a, ∀ w ∈ c.g.warps[q.1]?, w.committed q.2 = true) →
      exec i s = .next (c.finish (c.writeWarp { u with part := u.part.onWarp c.ref (fun w => { w with answer := none }) }
        [(.q c.f.d.toNat, word r)]) (fun _ => c.next))) ∧
    (c.on u = true → c.parts.op = .hres → u.part.debugHolds c.ref = false → a.extractLsb 31 11 = 0 → k < c.g.warps.length →
      let lanes := if a.extractLsb 10 9 = 0 then [(a.extractLsb 4 0).toNat] else List.range 32
      let ends (w : Warp) (j : Nat) : Warp := if a.getLsbD 10 || j == k then w.resumeLanes lanes (fun _ => true) else w
      let t := c.finish { u with part := u.part.onWg c.ref.core c.ref.slot (fun g =>
        { g with warps := g.warps.zipIdx.map (fun q => ends q.1 q.2) }) } (fun _ => c.next)
      exec i s = .next { t with part := t.part.settle c.ref.core c.ref.slot }) ∧
    (c.on u = true → c.parts.op = .dumpq →
      let new := u.part.cox.nextTicket
      let debug := ((u.part.job? c.g.job).map (·.debug)).getD false
      let asks := c.g.dump.isNone && debug
      let ticket := match c.g.dump with
        | some d => d.1
        | none => if debug then new else 0
      let p := if asks then (u.part.onCox (fun x => { x with nextTicket := new + 1 })).onWg c.ref.core c.ref.slot (fun g =>
          { g with dump := some (new, u.part.now) }) else u.part
      exec i s = .next (c.finish (if mBit c.x 0 then c.writeWarp { u with part := p } [(.s c.f.d.toNat, word ticket)]
        else { u with part := p }) (fun _ => c.next)))

end Sys2Proof

open Sys2Proof Sys2Proof.Machine in
/-- Halted threads and live dumps: haltedRegistersRule and haltedControlRule, whose rules stand with them. -/
def Obligations.HaltedThreads : Prop :=
  Rules.haltedRegistersRule ∧ Rules.haltedControlRule

namespace Sys2Proof

open Machine

/-! ### Traps, R230, R235, R236, R274 to R276 -/

end Sys2Proof

open Sys2Proof Sys2Proof.Machine in
/-- R236, completion. RTE, with no command of the debug channel before it (log entry 22), leaves trap mode: every thread of the
warp not exited takes its recorded state, those of TLANES at TEPC and the others at their recorded PCs, with watches once
suppressed. A thread recorded as parked that goes to TEPC waits on, and goes on at TEPC itself when its wait ends, by the model's
reading (log entry 17). The warp is parked again where writes that a K awaits are outstanding (R50); the halts of this trap's
broadcast end on every other warp, whose halt cause SIB_HALT goes with the last of them (log entry 8); the next trap of the queue
is delivered. (Outside trap mode RTE traps PRIV: DecodeTraps.) -/
def Obligations.TrapReturn : Prop :=
  ∀ (s : State) (i : Instr) (c : Ctx), s.acts i = some c → c.parts.op = .rte → (c.counted s).part.debugHolds c.ref = false →
    let u := c.finish (c.counted s) (fun _ => c.next)
    let mine (b : HaltBy) : Bool := decide (b = .broadcast c.ref.warp)
    let others (t : Thread) : Bool := t.haltedBy (fun b => match b with
      | .broadcast _ => true
      | _ => false)
    let back (w : Warp) (t : Thread) (l : Nat) : Thread :=
      let pc := ((t.saved.map (·.1)).getD t.pc)
      let st := ((t.saved.map (·.2)).getD (.live .ready))
      let named := w.tlanes.getLsbD l
      if t.isExited then t
      else { t with pc := if named then w.tepc else pc, st := if named then st.redirected else st, saved := none,
                    oneShot := true, retry := false, begun := false }
    let ret (w : Warp) (k : Nat) : Warp :=
      if k = c.ref.warp then
        { w with trapMode := false, threads := w.threads.zipIdx.map (fun q => back w q.1 q.2),
                 kPark := w.sprint.isNone && w.pend.any (fun e => e.covered) }
      else
        let ts := w.threads.map (fun t => t.unhalt mine)
        { w with threads := ts,
                 haltCause := if w.haltCause = causeSibHalt ∧ w.ownHalt = false ∧ ts.any others = false then 0 else w.haltCause }
    let all (g : Wg) : Wg :=
      let g : Wg := { g with warps := g.warps.zipIdx.map (fun q => ret q.1 q.2), broadcast := none }
      g.deliverNext c.tbase c.ref.warp
    exec i s = .next { u with part := (u.part.onWg c.ref.core c.ref.slot all).settle c.ref.core c.ref.slot }

namespace Sys2Proof

open Machine

/-! ### Events of warps, R13, R50 to R54, R157, R274 to R276, R300, R337 to R339 -/

/-- R54, R337: an outstanding write may commit: one of fixed latency at its cycle on the herd; a variable one, on the herd or
where another warp wrote it, with a value or nothing to await. -/
def Rules.mayCommit (w : Warp) (now : Nat) (e : Pend) : Bool :=
  match e.due with
  | some t => decide (t ≤ now) && w.sprint.isNone
  | none => (w.sprint.isNone || e.foreign) && (e.lanes.isEmpty || e.lanes.any PendLane.known)

/-- R157: a thread whose sleep has run out, with the state recorded for it. -/
def Rules.woken (now : Nat) (t : Thread) : Thread :=
  let ended (x : TState) : TState :=
    match x with
    | .live (.asleep n) => if n ≤ now then .live .ready else x
    | .halted (.asleep n) c => if n ≤ now then .halted .ready c else x
    | _ => x
  { t with st := ended t.st, saved := t.saved.map (fun q => (q.1, ended q.2)) }

/-- R339: the candidacy of a warp with its best reason. -/
def Rules.considered (p : Part) (r : WarpRef) : Part :=
  p.onWarp r (fun w => { w with candidate := (p.bestReason r).map (fun b => ((w.candidate.map (·.1)).getD p.now, b)) })

/-- R339: since when a warp is promoted that is to give up its slot: its quantum is over, the four slots are taken, and a
candidate of its best rank or a better one waits. -/
def Rules.overstays (p : Part) (r : WarpRef) : Option Nat :=
  (p.core? r.core).bind (fun k => ((p.warp? r).bind (·.sprint)).bind (fun q =>
    if k.quantum ≠ 0 ∧ q.1 + k.quantum ≤ p.now ∧ 4 ≤ (p.promoted r.core).length ∧
      (p.candidates r.core).any (fun x => decide (x.2.2 ≤ (p.bestReason r).getD 4)) = true then some q.1 else none))

/-- R337, R279: the outstanding writes of a promoted warp that retire now: the oldest of its own in program order, their values
known, two of the core in a cycle, and in a skid three past the signal. -/
def Rules.retires (k : Core) (w : Warp) : List Nat :=
  let left := match w.skid with
    | none => 2
    | some q => 3 - q.issued
  (((w.pend.filter (fun e => !e.foreign)).takeWhile (fun e => e.due.isSome || e.lanes.all PendLane.known)).map (·.id)).take
    (min (2 - k.retired) left)

/-- R279: a warp of which n instructions have retired; in its skid it stops after three. -/
def Rules.retiredOn (n : Nat) (w : Warp) : Warp :=
  match w.skid with
  | none => w
  | some q => if 3 ≤ q.issued + n then Rules.stopped w q.by_ (q.issued + n) else { w with skid := some { q with issued := q.issued + n } }

/-- R135, R300: the wait of a warp on empty lines has run out. -/
def Rules.waitedOut (w : Warp) : Bool :=
  w.onLines.isSome && decide (2 ^ 20 ≤ w.emptyTimer) && !w.anyHalted && w.answer.isNone

end Sys2Proof

open Sys2Proof Sys2Proof.Machine in
/-- R13, R52, R54, R157, R279, R300, R337, R339, completion of the nine events of a warp, each under its condition on the state
alone. RESULT_COMMIT (resultCommit) commits an outstanding write that may commit and that no format predicate is to see (Watches
states the others). GAP_ELAPSED (gapElapsed) ends an interval that is over. PASS_OVER_LIMIT (passOverLimit) gives the next turn to
a warp of which a ready thread has been passed over 1,024 times. SLEEP_EXPIRY (sleepExpiry) makes a thread whose sleep has run out
ready. EMPTY_TIMEOUT (emptyTimeout) traps at the instruction that has waited on empty lines for 2^20 cycles, naming its first
line; of several warps of a workgroup the lowest comes first. BARWAIT_EXPIRY (barwaitExpiry) considers the warps of the workgroup
for promotion again. PROMOTION (promotion) promotes a candidate that has no outstanding write and is not halted, when one of the
four slots is free beyond those that go to candidates before it. QUANTUM_EXPIRY (quantumExpiry) returns to the herd the warp that
has been promoted longest of those that are to give up their slots. SPRINTER_RETIRE (sprinterRetire) commits the results of a
promoted warp that retire now, no format predicate being to see them. (That candidates with outstanding writes of their own do not
count before another, and that instructions of the sprinter retire in the order of their issue whenever this event comes, is the
model's reading, log entry 38.) -/
def Obligations.WarpEvents : Prop :=
  ∀ (s : State) (r : WarpRef) (w : Warp) (g : Wg) (k : Core), s.part.warp? r = some w → s.part.wg? r.core r.slot = some g →
    s.part.core? r.core = some k →
    let now := s.part.now
    let put (f : Warp → Warp) : State := { s with part := s.part.onWarp r f }
    let since := (w.candidate.map (·.1)).getD now
    let again := (List.range g.warps.length).foldl (fun p j => Rules.considered p ⟨r.core, r.slot, j⟩) s.part
    (∀ e ∈ w.pend, Rules.mayCommit w now e = true → (∀ x ∈ w.pend, x.id = e.id → x.raised = []) →
      exec (.resultCommit r e.id) s = .next (put (fun w => w.commitEntry e.id))) ∧
    (w.gapEnd ≤ now → exec (.gapElapsed r) s = .next (put (fun w => { w with gapEnd := 0 }))) ∧
    ((∃ t ∈ w.threads, t.isReady = true ∧ 1024 ≤ t.passed) →
      exec (.passOverLimit r) s = .next { s with part := { s.part with sched := .issue r :: s.part.sched } }) ∧
    (∀ l, l < 32 → exec (.sleepExpiry r l) s = .next (put (fun w => w.onLane l (Rules.woken now)))) ∧
    (∀ j x, g.warps[j]? = some x → Rules.waitedOut x = true → (∀ y ∈ g.warps.take j, Rules.waitedOut y = false) →
      g.dead = none → g.swapping = none → ∀ q ∈ x.onLines,
      let rec_ : TrapRec := { imp := false, cause := causeEmptyTimeout, lanes := maskOf q.2.1, epc := q.1, addr := 128 * q.2.2,
                              info0 := 0, info1 := 0 }
      exec (.emptyTimeout r) s = .next { s with part := s.part.onWg r.core r.slot (fun g =>
        g.takeTrap (s.part.tbaseOf g) j rec_) }) ∧
    exec (.barwaitExpiry r) s = .next { s with part := again } ∧
    (∀ b ∈ s.part.bestReason r, w.pend = [] → w.sprint = none → w.anyHalted = false → w.finished = false →
      let p := Rules.considered s.part r
      let free (q : WarpRef) : Bool := ((p.warp? q).map (fun x => x.pend.isEmpty)).getD false
      let before := (p.candidates r.core).filter (fun q =>
        decide (q.1 ≠ r ∧ (q.2.2 < b ∨ (b = q.2.2 ∧ q.2.1 < since))) && free q.1)
      (p.promoted r.core).length + before.length < 4 →
      let up := p.onWarp r (fun w => { w with sprint := some (now, b), kPark := false })
      exec (.promotion r) s =
        .next { s with part := up.onCore r.core (fun k => { k with promo := modifyNth k.promo (b - 1) (· + 1) }) }) ∧
    (∀ n ∈ Rules.overstays s.part r, (∀ x ∈ s.part.promoted r.core, ∀ m ∈ Rules.overstays s.part x, n ≤ m) →
      let down := s.part.onWarp r (fun w =>
        { Rules.backOnHerd w with candidate := some (now, (s.part.bestReason r).getD 4) })
      exec (.quantumExpiry r) s =
        .next { s with part := down.onCore r.core (fun k => { k with demo := modifyNth k.demo 1 (· + 1) }) }) ∧
    (w.sprint.isSome = true →
      let ids := Rules.retires k w
      (∀ x ∈ w.pend, x.id ∈ ids → x.raised = []) →
      let done := s.part.onWarp r (fun w => ids.foldl Warp.commitEntry w)
      let done := done.onCore r.core (fun k => { k with retired := k.retired + ids.length })
      exec (.sprinterRetire r) s = .next { s with part := (done.onWarp r (Rules.retiredOn ids.length)).tellSkid r })

namespace Sys2Proof

open Machine

/-- R240, R241: how a match is counted and how a word compares, for the definitions that the words of R239 give. -/
def Rules.matchingRule : Prop :=
  ∀ (d : Predicate), d.hit = Rules.counts d ∧ (∀ a w, d.compare (Rules.kindOf d == 3) a w = Rules.compares d a w)

/-- R240, R241, R244, R375. The matches of code predicates at the PC of an instruction that comes to it, of the lanes that come to
it without one-shot suppression, are counted before it, by its registers after their outstanding writes; a stop is taken before it
for the whole group, and with none it goes on. A failure of steps 1 to 4 of R129 comes before any of it. -/
def Rules.codeWatchRule : Prop :=
  ∀ (s : State) (i : Instr) (c : Ctx), s.reaches i = some c →
    let comes (d : Predicate) : List Nat := c.fresh.filter (fun l => (Rules.defn d 6 31 0).testBit l && !c.suppressed l)
    let holds (d : Predicate) (l : Nat) : Bool := Rules.compares d 0 (c.w.newest l (Rules.defn d 0 22 17))
    let cond (d : Predicate) : Bool := Rules.defn d 0 23 23 = 0 ||
      (if Rules.defn d 0 12 12 = 1 then (comes d).all (holds d) else (comes d).any (holds d))
    let here (d : Predicate) : Bool := decide (Rules.kindOf d = 1 ∧ Rules.defn d 1 31 0 + 2 ^ 32 * Rules.defn d 2 24 0 = c.pc)
    let ms := (Rules.armed ((s.part.core? c.ref.core).getD Core.reset) c.ref.slot).filterMap (fun q =>
      if here q.2 && !(comes q.2).isEmpty && cond q.2 then some (⟨q.1, q.2, comes q.2, 0, 0⟩ : Match) else none)
    let p := Rules.evaluated s.part c.ref c.group c.pc ms
    (∀ t ∈ c.checkTrap s c.parts.globalBody, exec i s = .next ((c.passSafePoint s).raise c t)) ∧
    (c.checkTrap s c.parts.globalBody = none → Rules.current s.part c.ref.core ms →
      (∀ m ∈ Rules.stop ms, exec i s = .next { s with part := Rules.stops p c.tbase c.ref m c.group c.pc }) ∧
      (Rules.stop ms = none → s.acts i = some c ∧ c.counted s = c.passSafePoint { s with part := p }))

/-- R240, R241, R375. An instruction of R109 to R111 whose lanes raise flags that a format predicate names leaves them with its
results, and RESULT_COMMIT counts their match as these commit: a stop comes after, at the next instruction; the trap of a warp
that has halted meanwhile waits in its queue. -/
def Rules.formatWatchRule : Prop :=
  (∀ (s : State) (i : Instr) (c : Ctx), s.acts i = some c →
    let e := c.sees s
    let u := c.counted s
    (Rules.float c.x fp32 0 0 0 c.parts.op).isSome → (∀ l ∈ e.acting, Rules.floatViewOk c e l = true) →
    let fl (l : Nat) : Flags := orFlags ((Rules.floats c e l).map (·.2))
    let all := orFlags (e.acting.map fl)
    let raised := (e.acting.filter (fun l => !c.suppressed l)).map (fun l => (l, fl l))
    let preds := Rules.armed ((u.part.core? c.ref.core).getD Core.reset) c.ref.slot
    enabledTrap c.w.ften all = none → (∃ q ∈ preds, (Rules.flaggedBy c.pc raised q).isSome = true) →
    let t := c.write u (e.acting.map (fun l => laneWrites l (vGroup c.f.d c.x.wd (fun k =>
      (nth (packElems (Rules.entryA c e l) ((Rules.floats c e l).map (·.1))) k 0, e.tag l (c.f.a.toNat + k)))))) all
    let keep (w : Warp) : Warp := { w with pend := w.pend.map (fun x =>
      if x.id = c.w.seq ∧ x.foreign = false then { x with raised := raised, watch := preds } else x) }
    exec i s = .next (c.finish { t with part := t.part.onWarp c.ref keep } (fun _ => c.next))) ∧
  (∀ (s : State) (r : WarpRef) (w : Warp) (g : Wg), s.part.warp? r = some w → s.part.wg? r.core r.slot = some g →
    ∀ e ∈ w.pend, Rules.mayCommit w s.part.now e = true → e.raised ≠ [] → w.pend.filter (fun x => x.id == e.id) = [e] →
    let done := s.part.onWarp r (fun w => w.commitEntry e.id)
    let ms := e.watch.filterMap (Rules.flaggedBy e.pc e.raised)
    let p := Rules.evaluated done r e.group e.pc ms
    let next := ((w.lane? (e.group.headD 0)).map (·.pc)).getD 0
    Rules.current done r.core ms →
    (Rules.stop ms = none → exec (.resultCommit r e.id) s = .next { s with part := p }) ∧
    (∀ m ∈ Rules.stop ms,
      (Rules.actionOf m.by_ = 2 ∧ w.anyHalted = true → exec (.resultCommit r e.id) s =
        .next { s with part := p.onWarp r (fun w => w.enqueueTrap (Rules.stopRecord m e.group next)) }) ∧
      (Rules.actionOf m.by_ ≠ 2 ∨ w.anyHalted = false → exec (.resultCommit r e.id) s =
        .next { s with part := (Rules.stops p (s.part.tbaseOf g) r m e.group next).onWarp r (fun w => match w.skid with
          | none => w
          | some k => if w.nextPc = none then Rules.stopped w k.by_ k.issued else w) })))

/-- R150, R281, R337: the instruction at hand issues now: its warp waits for no place in the operand log, and a promoted warp has
room in its window and nothing before the instruction that has not retired. -/
def Rules.atOnce (c : Ctx) (s : State) : Prop := c.heldFirst s = none ∧ c.early = false

/-- R37, R251. In hazard-check mode an instruction traps HAZARD before any effect, with the register, its file, the broken rule
and the producer's PC: for the first register that it reads within the interval of a result of fixed latency; else the first that
it reads under an outstanding write of variable latency that no K has covered, of its own warp; else the first such that it
writes. With none, and in no other mode, nothing of it keeps the instruction. (Which rule and register comes first is the model's
choice, log entry 13.) -/
def Rules.hazardsRule : Prop :=
  ∀ (s : State) (i : Instr) (p : Parts) (c : Ctx), partsOf i = some p → s.ctx? p = some c → Rules.atOnce c s → c.decodeTrap = none →
    c.safeStop s = none →
    let acting := c.acting s.part.oracle
    let near (r : Nat × Target) : Option Recent := c.w.recent.find? (fun h => h.left != 0 && h.targets.contains r)
    let pending (r : Nat × Target) : Option Pend := c.w.pend.find? (fun e => e.due.isNone && !e.foreign && !e.covered &&
      e.lanes.any (fun x => x.lane == r.1 && x.targets.contains r.2))
    let named : Target → Nat
      | .v n => n
      | .s n => n + 64
      | .p n => n + 128
      | .q n => n + 192
    let trap (rule pc : Nat) (t : Target) : Out :=
      .next (s.raise c { cause := causeHazard, info0 := named t + 256 * rule, info1 := pc })
    let reads := c.readsOf acting
    let writes := c.writesOf acting
    (c.w.hchk = true → (∀ r ∈ reads.find? (fun r => (near r).isSome), ∀ h ∈ near r, exec i s = trap 1 h.pc r.2) ∧
      ((∀ r ∈ reads, near r = none) → ∀ r ∈ reads.find? (fun r => (pending r).isSome), ∀ e ∈ pending r, exec i s = trap 2 e.pc r.2) ∧
      ((∀ r ∈ reads, near r = none ∧ pending r = none) → ∀ r ∈ writes.find? (fun r => (pending r).isSome), ∀ e ∈ pending r,
        exec i s = trap 3 e.pc r.2)) ∧
    (c.w.hchk = false ∨ (∀ r ∈ reads, near r = none ∧ pending r = none) ∧ (∀ r ∈ writes, pending r = none) → c.before s = none)

end Sys2Proof

open Sys2Proof Sys2Proof.Machine in
/-- Watch predicates and hazard-check mode: matchingRule, codeWatchRule, formatWatchRule and hazardsRule, whose rules stand with
them (what data and value predicates do at an access: Loads, Stores, AtomicAccesses and ScratchpadAccesses). -/
def Obligations.Watches : Prop :=
  Rules.matchingRule ∧ Rules.codeWatchRule ∧ Rules.formatWatchRule ∧ Rules.hazardsRule

namespace Sys2Proof

open Machine

/-- R274: what a warp records of a trap as it delivers it. -/
def Rules.recorded (w : Warp) (t : TrapRec) : Warp :=
  { w with tcause := word (t.cause + (if t.imp then 2 ^ 31 else 0)), tlanes := word t.lanes, tepc := t.epc, taddr := t.addr,
           tinfo0 := t.info0, tinfo1 := t.info1, tskid := 0, trapMode := true }

/-- R274, R276: a thread as a delivery leaves it: PC and state recorded, ready at TBASE. Waits at BAR, CONV and CATCH and
sleeps are recorded as they are, every other wait as ready. -/
def Rules.entered (tbase : Nat) (t : Thread) : Thread :=
  let keeps : Bool := match t.st with
    | .live (.parked (.bar _ _)) => true
    | .live (.parked (.conv _)) => true
    | .live (.parked (.catchStep _)) => true
    | .live (.parked _) => false
    | _ => true
  if t.isExited then t
  else { t with saved := some (t.pc, if keeps then t.st else .live .ready), pc := tbase, st := .live .ready, retry := false,
                begun := false }

/-- R274, R276: a warp as a delivery leaves it. What it has issued and not retired on the sprinter is discarded; what it keeps of
issued commands and answers goes. -/
def Rules.enters (tbase : Nat) (w : Warp) (t : TrapRec) : Warp :=
  let w := Rules.discarded w
  { Rules.recorded w t with threads := w.threads.map (Rules.entered tbase), kPark := false, emptyTimer := 0, heldCmd := [],
                            answer := none, granted := [], skid := none }

end Sys2Proof

open Sys2Proof Sys2Proof.Machine in
/-- R274, R276, R279, R389, completion. TRAP_DELIVERY delivers the oldest queued trap of a warp in user mode, neither halted nor
exited nor in its skid nor waiting for an answer, with no result that a format predicate is to see: the warp records the trap,
every thread of it that has not exited is ready at TBASE with its PC and state recorded (enters), and the other warps get the
signal to halt (signalled). The instruction that waited issues again after RTE. The notice TRACE_FULL is followed by the next,
where entries have been lost since. -/
def Obligations.TrapDelivery : Prop :=
  ∀ (s : State) (r : WarpRef), ∀ g ∈ s.part.wg? r.core r.slot, ∀ w ∈ g.warps[r.warp]?, ∀ t ∈ w.tqueue.head?,
    w.trapMode = false → w.anyHalted = false → w.finished = false → w.answer = none → w.skid = none →
    (∀ e ∈ w.pend, e.raised = []) → g.dead = none →
    g.swapping = none → s.part.tbaseOf g ≠ 0 → t.cause ≠ causeMachineCheck → t.cause ≠ causeDeadline →
    let enter (w : Warp) : Warp := { Rules.enters (s.part.tbaseOf g) w t with tqueue := w.tqueue.tail }
    let all (g : Wg) : Wg :=
      let h : Wg := { g with
        warps := g.warps.zipIdx.map (fun q => if q.2 = r.warp then enter q.1 else Rules.signalled (.broadcast r.warp) q.1), broadcast := some r.warp,
        traceNotice := g.traceNotice && decide (t.cause ≠ causeTraceFull) }
      if t.cause = causeTraceFull then h.tellTrace else h
    exec (.trapDelivery r) s = .next { s with part := s.part.onWg r.core r.slot all }

namespace Sys2Proof

open Machine

/-- R52, R335: a core as the issue of an instruction of a warp leaves it: its pipe is taken, the warp has issued. -/
def Rules.pipeTaken (c : Ctx) (k : Core) : Core :=
  let by_ : Nat := if c.w.sprint.isSome then 2 else 1
  { k with pipes := if opUniform c.parts.op then (k.pipes.1, by_) else (by_, k.pipes.2), went := k.went ++ [(c.ref.slot, c.ref.warp)] }

/-- R13, R51, R52, R335: a warp after an issue: its other ready threads are passed over, none issues more in this cycle, on the
herd none for GAP more, and Y is pending. A group in the midst of its instruction passes nobody over again, and one that waited
has had its GAP and Y at its first issue, by the model's reading (log entry 38). -/
def Rules.charged (c : Ctx) (now : Nat) (w : Warp) : Warp :=
  let passed (q : Thread × Nat) : Thread :=
    { q.1 with passed := if c.group.contains q.2 then 0 else if q.1.isReady then q.1.passed + 1 else q.1.passed }
  { w with threads := if c.midst then w.threads else w.threads.zipIdx.map passed,
           lastIssue := now, holdWhy := none,
           gapEnd := now + 1 + (if w.sprint.isSome || c.again then 0 else c.f.gap.toNat),
           yPend := if c.again then w.yPend else c.f.y && w.sprint.isNone }

/-- R37, R50, R54: what an instruction of a warp that completes leaves: it has its place in the program order; with K the writes
outstanding are covered and the warp is parked on the herd while any is left; without, the waits of rule (a) that are left count
its issue and its GAP. Some threads stand at their next PCs. -/
def Rules.completed (c : Ctx) (lanes : List Nat) (next : Nat → Nat) (w : Warp) : Warp :=
  let go (q : Thread × Nat) : Thread :=
    if lanes.contains q.2 then
      { q.1 with pc := if q.1.isExited then q.1.pc else next q.2, oneShot := false, yielded := false, retry := false, begun := false }
    else q.1
  let aged := (w.recent.map (fun h => { h with left := h.left - (1 + c.f.gap.toNat) })).filter (fun h => decide (h.left ≠ 0))
  { w with seq := w.seq + 1, threads := w.threads.zipIdx.map go,
           pend := if c.f.k then w.pend.map (fun e => { e with covered := true }) else w.pend,
           kPark := w.sprint.isNone && (c.f.k || w.kPark) && !w.pend.isEmpty,
           recent := if c.f.k then [] else aged }

end Sys2Proof

open Sys2Proof Sys2Proof.Machine in
/-- R13, R52, R54, R274 to R276, R279: a precise trap of an issue outside a step, which has its pipe and its GAP: in user mode,
with a handler, the trap is delivered at once, and results already issued commit in their time. In a skid the warp stops at the
instruction, with the trap in its queue (log entry 8); but where the broadcast of a higher-numbered warp's trap of the same cycle
has begun the skid, that delivery is taken back and this trap is delivered first. In trap mode it is a double trap, and the
workgroup is disposed of; that the record kept is that of the trap raised is the model's reading (log entry 17). Lanes that have
completed the instruction stand at the next one (completed): all of them under a trap that resumes there, those that do not trap
under one of R281. -/
def Obligations.PreciseTraps : Prop :=
  ∀ (s : State) (p : Parts) (c : Ctx) (t : TrapInfo), s.ctx? p = some c → s.part.stepping c.ref = false →
    let rec_ : TrapRec :=
      { imp := false, cause := t.cause, lanes := t.lanes.getD (maskOf (c.acting s.part.oracle)),
        epc := if t.after then c.next else c.pc, addr := t.addr, info0 := word t.info0, info1 := word t.info1 }
    let passed (w : Warp) : Warp :=
      let w := if t.moved = [] then w else Rules.completed c t.moved (fun _ => c.next) w
      Rules.charged c s.part.now { w with fstat := w.fstat ||| t.flags }
    let stop (w : Warp) : Warp :=
      let w := Rules.backOnHerd w
      { w with threads := w.threads.map (fun x => x.halt .fatal), haltCause := t.cause, skid := none, tqueue := [] }
    let taken := s.part.onCore c.ref.core (Rules.pipeTaken c)
    let enter (h : Wg) : Wg :=
      { h with broadcast := some c.ref.warp, warps := h.warps.zipIdx.map (fun q =>
                 if q.2 = c.ref.warp then Rules.enters c.tbase q.1 rec_ else Rules.signalled (.broadcast c.ref.warp) q.1) }
    let issued (g : Wg) : Wg := g.onWarp c.ref.warp passed
    let leads (f : Wg → Wg) : State :=
      { s with part := { taken.onWg c.ref.core c.ref.slot (fun g => f (issued g)) with oracle := s.part.oracle + 1 } }
    (c.w.trapMode = false → c.w.skid = none → c.tbase ≠ 0 → rec_.kind = .precise → s.raise c t = leads enter) ∧
    (∀ k ∈ c.w.skid, c.w.trapMode = false → c.g.outrun c.ref.warp k = none →
      s.raise c t = leads (fun g => g.onWarp c.ref.warp (fun w => Rules.stopped (w.enqueueTrap rec_) k.by_ k.issued))) ∧
    (∀ k ∈ c.w.skid, c.w.trapMode = false → c.tbase ≠ 0 → rec_.kind = .precise → ∀ j ∈ c.g.outrun c.ref.warp k,
      s.raise c t = leads (fun g => enter (g.standBack j))) ∧
    (c.w.trapMode = true →
      s.raise c t = leads (fun g => { g with warps := g.warps.map stop, dead := some (g.dead.getD rec_), double := true }))

namespace Sys2Proof

open Machine

/-- R279: a warp in its skid after its turn: an instruction that issued or parked threads is counted, one of the sprinter when it
retires, and the warp stops after three, or when no thread of it could issue. -/
def Rules.ranOn (old w : Warp) : Warp :=
  let parks (w : Warp) : Nat := w.threads.countP (fun t => match t.st with
    | .live .ready => false
    | .live _ => true
    | _ => false)
  let unretired := w.sprint.isSome && w.pend.any (fun e => !e.foreign && e.id == old.seq)
  match w.skid with
  | none => w
  | some k =>
    let n := if (w.seq ≠ old.seq ∧ unretired = false) ∨ parks old < parks w then k.issued + 1 else k.issued
    if w.nextPc = none ∨ 3 ≤ n then Rules.stopped w k.by_ n else { w with skid := some { k with issued := n } }

end Sys2Proof

open Sys2Proof Sys2Proof.Machine in
/-- R274, R279: a warp in its skid, at its turn, stops with the instructions it has issued past the signal in TSKID, or issues its
next one, which has its full effect and is counted; it issues none with a trap queued, and none past three. It stops after 32
cycles. While it runs on, no other warp of its workgroup issues (R274). A warp of the workgroup that has waited too long on empty
lines traps first, and a warp that a lock has been granted to is promoted first (R414). The part's choice where the warp stops
sooner is a free value (log entry 8). -/
def Obligations.HaltBroadcast : Prop :=
  (∀ (s : State) (r : WarpRef) (rest : List Turn) (g : Wg) (w : Warp) (pc : Nat) (k : Skid), s.stepReady = none →
    s.debugNext = none → s.part.sched = .issue r :: rest → s.part.wg? r.core r.slot = some g → g.warps[r.warp]? = some w →
    g.dead = none → g.swapping = none → w.skid = some k → w.eligible s.part.now = true → w.nextPc = some pc →
    let u : State := { s with part := { s.part with sched := rest, focus := r } }
    let x := u.fetch g.job pc
    let stop := (u.part.onWarp r (fun w => Rules.stopped w k.by_ k.issued)).tellSkid r
    ((∃ y ∈ g.warps, Rules.waitedOut y = true) → step s = keepWays (exec (.emptyTimeout r) u)) ∧
    ((∀ y ∈ g.warps, Rules.waitedOut y = false) → u.part.holderDue r = true → step s = keepWays (exec (.promotion r) u)) ∧
    ((∀ y ∈ g.warps, Rules.waitedOut y = false) → u.part.holderDue r = false →
      step s = .next (State.keepWays { u with part := { stop with oracle := s.part.oracle + 1 } }) ∨
      (w.tqueue = [] ∧ u.part.pipeFree r.core x = false ∧ step s = .next u.keepWays) ∨
      (w.tqueue = [] ∧ u.part.pipeFree r.core x = true ∧ ∀ t, u.issueTurn r w x = .next t →
        step s = .next (State.keepWays { t with part := (t.part.onWarp r (Rules.ranOn w)).tellSkid r })))) ∧
  (∀ (w : Warp) (now : Nat) (k : Skid), w.skid = some k →
    let v := if w.sprint.isSome then w else w.commitDue now
    let aged := if k.age < 31 then { v with skid := some { k with age := k.age + 1 } } else Rules.stopped v k.by_ k.issued
    w.cycle now = if aged.onLines.isSome && !aged.anyHalted then { aged with emptyTimer := aged.emptyTimer + 1 } else aged) ∧
  (∀ (s : State) (r : WarpRef) (rest : List Turn) (g : Wg) (w y : Warp), s.stepReady = none → s.debugNext = none →
    s.part.sched = .issue r :: rest → s.part.wg? r.core r.slot = some g → g.warps[r.warp]? = some w → w.skid = none → y ∈ g.warps →
    y.skid ≠ none → w.trapDue = false → step s = .next (State.keepWays { s with part := { s.part with sched := rest, focus := r } }))

namespace Sys2Proof

open Machine

/-! ### Events of the memory system, R137, R143, R144, R259 to R267, R301 to R314 -/

/-- R145, R259, R260, R303 to R305, R310, R360, R362, R374, completion. COPY_BACK makes a packet, in its turn at the slice and
after the writes that the core had seen when it left, a write of the die that performs it, applied there and sent to the others;
the slice counts it, and the releases that answer for its round answer for its clock. That a release answers also for the rounds
before its own in which its warp stored, and for the clocks of what it answers for, is the model's reading (log entry 20). Where a
forward window refuses the write, the slice counts it as done and notes a violation, and the stores that it comes from queue an
imprecise XLATE. RELEASE_COMPLETE ends a release whose round is done, and the message that frees an UNLOCK's lock leaves.
REMOTE_WRITE_APPLY and CLOCK_NOTICE apply what arrived at a die once every write before it has been applied there; writes that
waited for the die to catch up leave (R260), and the last die to apply a copy-back answers its slice. -/
def Rules.writesOnTheirWayRule : Prop :=
  ∀ (s : State) (core : Nat),
    (∀ k ∈ s.part.core? core, ∀ n, ∀ q ∈ k.packets.find? (fun q => q.id == n), s.part.packetReady core q = true →
      let d := q.direct.getD (dieOf core)
      let key := roundKey core q.round (lineSlice q.line)
      let p := s.part.onCore core (fun k => { k with packets := k.packets.filter (fun x => x.id != n) })
      let p := if q.direct.isSome then p else p.onDie (dieOf core) (fun x => { x with applied := addCount key 1 x.applied })
      let no := p.sliceViolation (128 * q.line) core 2
      let no := if q.direct.isSome then no else no.countAcked (dieOf core) key
      let tell (p : Part) (o : Origin) : Part := p.queueTrap o.w
        { imp := true, cause := causeXlate, lanes := 0, epc := 0, addr := o.va, info0 := word o.lanes, info1 := word o.pc }
      let p := p.originate d q.line q.bytes (some (core, q.id)) (if q.direct.isSome then none else some key)
      let vc := (p.die d).vc
      let owes (x : Release) : Release := if q.round = x.round ∨
        q.round ∈ x.older then { x with need := joinClock x.need vc } else x
      let answer (k : Core) : Core :=
        let k := if d = dieOf core then k else k.see vc
        { k with releases := k.releases.map owes }
      (s.part.refused q.line = false → exec (.copyBack core n) s = .next { s with part := (p.onCore core answer).wakePhase }) ∧
      (s.part.refused q.line = true → exec (.copyBack core n) s = .next { s with part := q.origins.foldl tell no })) ∧
    (∀ k ∈ s.part.core? core, ∀ n, ∀ x ∈ k.releases.find? (fun x => x.id == n), s.part.roundDone core x = true →
      let tell (w : Warp) : Warp :=
        { w with release := w.release.map (fun r => if r.release = n then { r with done := true } else r) }
      let slots (k : Core) : List (Option Wg) := k.slots.map (Option.map (fun g => { g with warps := g.warps.map tell }))
      let p := s.part.onCore core (fun k =>
        { k with slots := slots k, releases := k.releases.filter (fun y => y.id != n) })
      let used (t : List (Nat × Nat)) : List (Nat × Nat) := x.sent.foldl (fun t q => eraseKey (roundKey core x.round q.1) t) t
      let p := p.onDie (dieOf core) (fun d => { d with applied := used d.applied, acked := used d.acked })
      let frees (u : WarpRef × LockRef) : Part :=
        let m : LockSend := ⟨u.1, u.2.loc, false, [], ((p.core? u.1.core).map (·.nextId)).getD 0, p.nextCommand, true⟩
        if isDevice u.2.loc = false then p.freeFar u.1 u.2
        else { p.onDie (homeDie u.2.loc) (fun y => { y with lockSends := y.lockSends ++ [m] }) with nextCommand := p.nextCommand + 1 }
      exec (.releaseComplete core n) s = .next { s with part := ((x.unlock.map frees).getD p) }) ∧
    (∀ d n, ∀ u ∈ (s.part.die d).inbox.find? (fun u => u.id == n), s.part.deliverable d u = true →
      let home := decide (homeDie (128 * u.line) = d)
      let p := (s.part.onDie d (fun y => y.receive home (s.part.inWindow u.line) u)).sendHeld
      let last := p.dies.all (fun x => x.inbox.all (fun v => v.id != u.id))
      let p := ((u.ack.filter (fun _ => last)).map (fun key => p.countAcked u.stamp.die key)).getD p
      (u.notice = false → exec (.remoteWriteApply d n) s = .next { s with part := p.wakePhase }) ∧
      (u.notice = true → exec (.clockNotice d n) s = .next { s with part := p }))

/-- R309: some write that die d has applied to a line is still on its way to the line's home. -/
def Rules.writesAhead (p : Part) (d line : Nat) : Bool :=
  (p.die (homeDie (128 * line))).inbox.any (fun u => u.line == line &&
    serialLe (nth u.stamp.vc u.stamp.die 0) (nth (p.die d).vc u.stamp.die 0))

/-- R302: the bytes of sector j of a line that a die serves, under those that the core has sent since it asked. -/
def Rules.sector (s : State) (sent : List (Nat × Byte)) (d line j : Nat) : List Byte :=
  (List.range 32).map (fun b => (lookupKey (32 * j + b) sent.reverse).getD ((s.dieByte d (128 * line + 32 * j + b)).getD 0))

/-- R267, R302, R308, R309, R312, R362, R406, completion. REPLICA_FILL gives a die that a core asks for a line, and that lacks a
good copy, the home's contents, stamps and mark of poison, under the later writes that the die has applied (log entry 20), once it
has applied the home's clock and what the die sent the home before has come there; the home records the sharer. REPLICA_DROP drops
a copy whose writes the home has too. L1_SECTOR_FILL brings a sector that the die serves, under what the core has sent since it
asked, to the L1 and the loads that await it; the first read of a forward window's consumer takes the line out of the slices. A
poisoned line brings nothing: the loads that await it are closed with POISON. -/
def Rules.fillsRule : Prop :=
  ∀ (s : State) (d line : Nat),
    let h := homeDie (128 * line)
    (d < 4 → d ≠ h → isDevice (128 * line) = true → ((s.part.copy? d line).map (·.stale)).getD true = true →
      vcLe (s.part.die h).vc (s.part.die d).vc = true → s.part.lacking d line = false →
      (∃ n ∈ s.part.wanted d line, s.part.crossClear d h n = true) →
      let known := ((s.part.copy? h line).map (·.sharers)).getD []
      let sharers := if known.contains d then known else known ++ [d]
      let data := (List.range 128).map (fun j => (j, s.homeByte (128 * line + j)))
      let home : Copy := { Copy.empty with data := data, stamps := ((s.part.copy? h line).map (·.stamps)).getD [], sharers := sharers }
      let p := (s.part.serve line).onDie h (fun x => x.onCopy line (fun c => { c with sharers := sharers }))
      let put (copy : Copy) : State := { s with part := p.onDie d (fun x =>
        { x.setPoison line (s.part.poisoned line) with copies := insertKey line copy x.copies }) }
      exec (.replicaFill d line) s = .next (put (s.filled d line sharers)) ∧
      (s.part.copy? d line = none → exec (.replicaFill d line) s = .next (put home))) ∧
    (d ≠ h → Rules.writesAhead s.part d line = false →
      exec (.replicaDrop d line) s =
        .next { s with part := s.part.onDie d (fun x => { x.setPoison line false with copies := eraseKey line x.copies }) }) ∧
    (∀ core j, ∀ k ∈ s.part.core? core, ∀ f ∈ k.fill? line j, dieOf core = d → s.fillReady core line j = true →
      let p := s.part.onCore core (fun k => { k with fills := k.fills.filter (fun f => !(f.line == line && f.sector == j)) })
      let brought := if s.part.consumes core line then [0, 1, 2, 3] else [j]
      let sent := (k.packets.filter (fun q => q.line == line && decide (f.id < q.id))).flatMap (·.bytes)
      let put (k : Core) : Core :=
        let k := k.touch line
        let full (y : L1Line) : L1Line := brought.foldl (fun y i => y.fill i (Rules.sector s sent d line i)) y
        { k with l1 := ((k.line? line).map (fun y => insertKey line (full y) k.l1)).getD k.l1 }
      let held := if h = d then p.serve line else p
      (4 ≤ j → exec (.l1SectorFill core line j) s = .next { s with part := p }) ∧
      (j < 4 → s.part.poisonedAt d line = true → exec (.l1SectorFill core line j) s = .next { s with part := p.poisonLoads core line }) ∧
      (j < 4 → s.part.poisonedAt d line = false → exec (.l1SectorFill core line j) s =
        .next { s with part := ((held.onCore core put).fillLine core line).consume core line }))

/-- R137, R143, R144, R262, R263, R266, R268, R313, R314, completion. ATOMIC_AT_HOME performs the lowest lane of a request that
may be performed, on a line without poison and, for a write, no forward window in normal service; the last lane of an acquire
drops the core's clean words. DISCARD_AT_SLICE, in its turn, makes the copy of the core's die what memory holds. FLUSH_COMPLETE
frees a walker whose writes have been applied, after writing its lines to memory when it flushes to memory. -/
def Rules.atomicsAndWalksRule : Prop :=
  ∀ (s : State) (core n : Nat), ∀ k ∈ s.part.core? core,
    (∀ a ∈ k.atoms.find? (fun a => a.id == n), ∀ l ∈ a.first, s.atomReady core a = true →
      s.part.poisonedAt (a.die core) a.line = false → (a.op ≠ 13 → s.part.refused a.line = false) →
      let t := { s with part := s.part.onCore core (fun k => k.dropLanes n [l]) }.performLane core a l
      let p := t.1.part.answer a l t.2
      let vc := (p.die (a.die core)).vc
      let last := a.lanes.length = 1 ∧ a.acquire.any (fun sc => decide (1 ≤ sc)) = true
      let see (k : Core) : Core := if last then ((k.forget a.line).see vc).acquire else (k.forget a.line).see vc
      exec (.atomicAtHome core n) s = .next { t.1 with part := (p.onCore core see).wakePhase }) ∧
    (∀ q ∈ k.discards.find? (fun q => q.1 == n), k.portClear core n (dieOf core) (lineSlice q.2.1) = true →
      let line := q.2.1
      let d := dieOf core
      let memory := if homeDie (128 * line) = d then [] else (List.range 128).map (fun j => (j, s.memByte (128 * line + j)))
      let reset (x : Die) : Die :=
        match lookupKey line x.copies with
        | none => x
        | some c => { x with copies := insertKey line { Copy.empty with data := memory, sharers := c.sharers } x.copies }
      let p := s.part.onCore core (fun k => { k with discards := k.discards.filter (fun q => q.1 != n) })
      exec (.discardAtSlice core n) s = .next { s with part := p.onDie d reset }) ∧
    (∀ w ∈ k.walkers.find? (fun w => w.id == n),
      (w.deep = false → ∀ r ∈ w.ranges, ∀ q ∈ k.packets, q.line = r.1 → w.last ≤ q.id) →
      (w.deep = true → ∀ r ∈ w.ranges, s.part.ownBefore core w.last (homeDie (128 * r.1)) r.1 = true ∧
        s.part.applied (homeDie (128 * r.1)) w.need = true) →
      let t := if w.deep then (w.ranges.map (·.1)).foldl State.writeBack s else s
      exec (.flushComplete core n) s = .next { t with part := t.part.onCore core (fun k =>
        { k with walkers := k.walkers.filter (fun x => x.id != n) }) })

/-- R211, R212: the barrier in 16 bytes after an update: its pending count, its expected count, its byte balance, its phase,
its error and the error to come; none where an arrival finds no count left. -/
def Rules.barrier (bs : List Byte) (kind : Nat) (value : Int) (error : Bool) : Option (Nat × Nat × Int × Bool × Bool × Bool) :=
  let n := leNat bs
  let pending := n % 2 ^ 16
  let count := n / 2 ^ 32 % 2 ^ 16
  let balance := toSigned 64 (n / 2 ^ 64)
  let phase := n.testBit 31
  let flip (pending : Nat) (balance : Int) (epend : Bool) : Nat × Nat × Int × Bool × Bool × Bool :=
    if pending = 0 ∧ balance = 0 then (count, count, 0, !phase, epend, false) else (pending, count, balance, phase, n.testBit 30, epend)
  match kind with
  | 0 => some (value.toNat, value.toNat, 0, false, false, false)
  | 2 => if pending = 0 then none else some (flip (pending - 1) (balance + value) (n.testBit 29))
  | _ => some (flip pending (balance + value) (n.testBit 29 || error))

/-- R210: the bytes of a barrier, the bits that have no meaning as they stood, and 0 at TBINIT. -/
def Rules.barrierBytes (b : Nat × Nat × Int × Bool × Bool × Bool) (old : Nat) : List Byte :=
  let bit (v : Bool) (i : Nat) : Nat := if v then 2 ^ i else 0
  leBytes 4 (b.1 + (old / 2 ^ 16 % 2 ^ 13) * 2 ^ 16 + bit b.2.2.2.2.2 29 + bit b.2.2.2.2.1 30 + bit b.2.2.2.1 31) ++
    leBytes 4 (b.2.1 + (old / 2 ^ 48 % 2 ^ 16) * 2 ^ 16) ++ leBytes 8 (wrapInt 64 b.2.2.1)

/-- R306, R307: the order in which an entry's requests are granted: by stamp, core and warp. -/
def Rules.firstOf (q : LockReq) (qs : List LockReq) : Bool :=
  qs.all (fun r => decide (q.stamp < r.stamp) || (q.stamp == r.stamp &&
    (decide (q.w.core < r.w.core) || (q.w.core == r.w.core && (decide (q.w.warp < r.w.warp) || r == q)))))

/-- R306, R307, R368: a lock granted to a request: the entry has its holder, the guarded lines are pushed into the holder's L1,
and the warp has its lock and is promoted where R414 asks it, or the peer has its answer. -/
def Rules.granted (s : State) (d n : Nat) (e : LockEntry) (q : LockReq) : State :=
  let held : LockEntry := { e with holder := some q.w, waiting := e.waiting.filter (fun r => r.w != q.w) }
  let t := { s with part := s.part.onDie d (fun x => { x with locks := setNth x.locks n held }) }
  let t := t.pushLines q.w.core q.ranges
  { t with part := ((t.part.answerPeer q.w true).onWarp q.w Warp.takeLock).promoteHolder q.w }

/-- R212, R306, R307, R373, R374, completion. TB_UPDATE performs an update that may be performed, in one step at the barrier's
home, under the flip rule; an arrival that finds no count left is refused; the core has seen what it wrote. One under a forward
window in normal service changes nothing: a violation is noted and the instruction queues XLATE. LOCK_REQUEST_ARRIVAL stamps and
queues a request that may arrive; a TRY is answered against the table as it stands; the message of an UNLOCK frees its lock.
LOCK_GRANT grants a free entry of the first 64 of its slice to the first of its requests, once the holder's stores to the guarded
lines have settled. That a warp is promoted at its grant is the model's reading of R414 (log entry 38). -/
def Rules.barriersAndLocksRule : Prop :=
  ∀ (s : State),
    (∀ n, ∀ u ∈ s.part.tbUpdates.find? (fun u => u.id == n), s.part.tbReady u = true →
      let p := { s.part with tbUpdates := s.part.tbUpdates.filter (fun v => v.id != n) }
      let refused := s.part.refused (lineOf u.addr)
      let note := p.sliceViolation u.addr (p.tbAgent u) 4
      let xlate : TrapRec := { imp := true, cause := causeXlate, lanes := 0, epc := 0, addr := u.va, info0 := 1, info1 := word u.pc }
      let told := if u.command = none then note.queueTrap u.w xlate else note
      let old := s.homeRead u.addr 16
      let b := Rules.barrier old u.kind u.value u.error
      (refused = true → exec (.tbUpdate n) s = .next { s with part := (told.tbAnswer u.kind u.w u.command true).wakePhase }) ∧
      (refused = false → b = none → exec (.tbUpdate n) s = .next { s with part := p.tbAnswer u.kind u.w u.command false }) ∧
      (refused = false → ∀ x ∈ b,
        let p := p.homeWrite u.addr (Rules.barrierBytes x (if u.kind = 0 then 0 else leNat old))
        let own (k : Core) : Core := (k.forget (lineOf u.addr)).see (p.die (homeDie u.addr)).vc
        let p := if u.command = none then p.onCore u.w.core own else p
        exec (.tbUpdate n) s = .next { s with part := (p.tbAnswer u.kind u.w u.command true).wakePhase })) ∧
    (∀ w, ∀ d ∈ (List.range 4).find? (fun d => (s.part.die d).lockSends.any (fun q => q.w == w)),
      ∀ q ∈ (s.part.die d).lockSends.find? (fun q => q.w == w),
      s.part.lockArrives d q = true →
      let p := s.part.onDie d (fun x => { x with lockSends := x.lockSends.eraseP (fun (y : LockSend) => y.w == w) })
      let locks := (s.part.die d).locks
      let req : LockReq := ⟨w, s.part.gtime, q.ranges⟩
      let known := locks.any (fun e => e.addr == q.addr)
      let full := decide (64 ≤ (locks.filter (fun e => sliceOf e.addr == sliceOf q.addr)).length)
      let fresh : LockEntry := ⟨q.addr, none, [req]⟩
      let joined := if known then locks.map (fun e => if e.addr = q.addr then { e with waiting := e.waiting ++ [req] } else e)
        else locks ++ [fresh]
      let queued : State := { s with part := p.onDie d (fun x => { x with locks := joined }) }
      let mine (e : LockEntry) : Bool := e.addr == q.addr && decide (e.holder = some w)
      let left := (locks.map (fun e => if mine e then { e with holder := none } else e)).filter (fun e =>
        e.holder.isSome || !e.waiting.isEmpty)
      let freed : State := { s with part := p.onDie d (fun x => { x with locks := left }) }
      exec (.lockRequestArrival w) s = .next (if q.frees then freed else if q.tryOnly = false then queued
        else if known ∨ full then { s with part := p.refuseTry w } else Rules.granted queued d locks.length fresh req)) ∧
    (∀ d n, ∀ e ∈ (s.part.die d).locks[n]?, e.holder = none →
      ((((s.part.die d).locks.take n).filter (fun x => sliceOf x.addr == sliceOf e.addr)).length < 64) →
      ∀ q ∈ e.waiting, Rules.firstOf q e.waiting = true →
      (∀ line ∈ q.ranges, ∀ k ∈ s.part.core? q.w.core, (∀ x ∈ k.packets, x.line ≠ line) ∧
        s.part.unapplied q.w.core (homeDie (128 * line)) line = false) →
      exec (.lockGrant d n) s = .next (Rules.granted s d n e q))

end Sys2Proof

open Sys2Proof Sys2Proof.Machine in
/-- Events of the memory system: writesOnTheirWayRule, fillsRule, atomicsAndWalksRule and barriersAndLocksRule, whose rules stand
with them. -/
def Obligations.MemoryEvents : Prop :=
  Rules.writesOnTheirWayRule ∧ Rules.fillsRule ∧ Rules.atomicsAndWalksRule ∧ Rules.barriersAndLocksRule

namespace Sys2Proof

open Machine

/-! ### Events of the engines, R174, R194 to R206, R215 to R220, R341, R345, R350, R356, R357 -/

/-- R341: the bytes that the engine of a core is served from one line of device memory. -/
def Rules.served (s : State) (core loc n : Nat) : List Byte :=
  (List.range n).map (fun i => (s.dieByte (dieOf core) (loc + i)).getD (s.homeByte (loc + i)))

/-- R350, R354 to R357: what becomes of a request whose line does not translate: abandoned with its cause where the leaf
denies it, or where the command has no list and a record would not be a re-point's; else one fault record, and the
segment waits for its answer, with cause XLATE for the while by the model's reading (log entry 25). -/
def Rules.unreached (s : State) (q : Command) (run : CopyRun) (r : Xlate) : State :=
  let abandoned (cause : Nat) : State := s.segment q run none 2 cause 0
  match r with
  | .denied cause _ => abandoned cause
  | .absent reason =>
    let posted := s.part.postFault (dieOf q.w.core) q.requester q.job run.va q.access reason false
    if q.listVa = 0 ∧ reason ≠ 3 then abandoned causeXlate
    else { s with part := posted.1 }.segment q run none (if posted.2 = 0 then 2 else 0) causeXlate posted.2
  | .ok _ => s

/-- The location that a translation answers. -/
def Rules.located : Xlate → Option Nat
  | .ok loc => some loc
  | _ => none

/-- R201, R202, R206, R308, R312, R350, R406, completion. COPY_LANDING lets a request of a copy that moves land: a run out of
bounds lands as zeros in a scratchpad and leaves memory alone; a run in device memory that may be performed moves its bytes; one
on a line that is poisoned where it is served, for a write at the home, is abandoned; so is a write that a forward window refuses,
with PROT and a violation; a run that is denied or does not translate is skipped. That requests are maximal runs is the model's
choice, and that an engine reads the good copy of its die, else the home, its reading (log entry 25). -/
def Rules.copyLandingsRule : Prop :=
  ∀ (s : State) (id i : Nat), ∀ q ∈ s.part.command? id, q.posted = true → s.part.moving q = true →
    (q.op = .cpy ∨ q.op = .cpyo ∨ q.op = .cpym ∨ q.op = .cpyc) →
    ∀ run ∈ q.todo[i]?, i < min 16 (30 - q.segments.length) - q.flying.length →
      let rest := { q with todo := q.todo.eraseIdx i }
      let out := decide (q.op = .cpyo)
      let fill (bs : List Byte) : State := { s with part := s.part.fillMembers rest run.sp bs }
      let near (loc : Nat) : Bool := !out && (s.dieByte (dieOf q.w.core) loc).isSome
      let serves (loc : Nat) : Nat := if near loc then dieOf q.w.core else homeDie loc
      let moved (loc : Nat) : State :=
        if out then
          let w := s.agentWrite q.agent false loc (s.part.winRead q.w.core q.w.slot run.sp run.len)
          w.landed { rest with clock := joinClock q.clock (w.homeClock loc) } run none
        else
          let t := fill (Rules.served s q.w.core loc run.len)
          let held := if serves loc = homeDie loc then t.part.serve (lineOf loc) else t.part
          { t with part := held.consume q.w.core (lineOf loc) }.landed rest run none
      let line (r : Xlate) : Option State :=
        match r with
        | .ok loc =>
          if !isDevice loc || !s.engineReady rest loc then none
          else if s.part.poisonedAt (serves loc) (lineOf loc) then some (s.segment rest run none 2 causePoison 0)
          else if out && s.part.refused (lineOf loc) then
            some (({ s with part := s.part.sliceViolation loc q.agent 2 } : State).segment rest run none 2 causeProt 0)
          else some (moved loc)
        | r => some (Rules.unreached s rest run r)
      (run.inBounds = false →
        exec (.copyLanding id i) s = .next ((if out then s else fill (List.replicate run.len 0)).landed rest run none)) ∧
      (run.inBounds = true →
        ∀ t ∈ line (s.translate q.job run.va (if out then .write else .read)), exec (.copyLanding id i) s = .next t)

/-- R204, R216, R341, R356, R357, completion. COPY_LANDING lets a SEND read its source: its message leaves with its bytes. From 16
on it replays, as one request, a segment of a copy that was answered (CPYR_REDUCTION likewise for a reduction). CPYR_REDUCTION
reduces the next element of a request into its word at the home slice, no element of the same word before it. COMMAND_DISPATCH
considers a command that was held at issue again. ENGINE_REQUEST_TIMEOUT abandons a request that has been without an answer for 10
ms. -/
def Rules.commandProgressRule : Prop :=
  ∀ (s : State) (id i : Nat),
    (∀ q ∈ s.part.command? id, q.posted = true → s.part.moving q = true → q.op = .send → q.todo ≠ [] →
      let bs := s.part.winRead q.w.core q.w.slot q.spBase q.bytes
      let m : Message := ⟨q.w.core, q.w.slot, q.dest.toNat / 2 ^ 16, q.dest.toNat % 2 ^ 8, q.dest.toNat / 2 ^ 8 % 2 ^ 6, bs,
        bs.length, 0⟩
      let p := s.part.onCommand id (fun x => { x with payload := bs, todo := [], status := 1 })
      exec (.copyLanding id i) s =
        .next { s with part := p.onDie (dieOf q.w.core) (fun d => { d with messages := d.messages ++ [(id, m)] }) }) ∧
    (∀ q ∈ s.part.command? id, q.posted = true → q.op = .cpyr → ∀ run ∈ q.todo[i]?, run.inBounds = true → q.before run = false →
      i < min 16 (30 - q.segments.length) - q.flying.length → ∀ loc ∈ Rules.located (s.translate q.job run.va .atomic), isDevice loc = true →
      s.part.poisoned (lineOf loc) = false → s.part.refused (lineOf loc) = false → s.engineReady q loc = true →
      let rop := if q.rop = 3 then 10 else q.rop
      (s.part.pathMask loc).testBit (atomClass rop q.esz) = true →
      let rest := q.todo.eraseIdx i
      let one := if run.len ≤ q.esz then run else { run with len := q.esz, extra := 0 }
      let more : CopyRun :=
        { run with off := run.off + q.esz, va := run.va + q.esz, sp := run.sp + q.esz, len := run.len - q.esz }
      let todo := if run.len ≤ q.esz then rest else rest.take i ++ [more] ++ rest.drop i
      let elements := chunks q.esz (one.len / q.esz) (s.part.winRead q.w.core q.w.slot run.sp one.len)
      let w := elements.zipIdx.foldl (fun s x => (s.agentAtomic q.agent q.entry rop (loc + q.esz * x.2) (bytesWords x.1)).1) s
      exec (.cpyrReduction id i) s =
        .next (w.landed { q with todo := todo, clock := joinClock q.clock (w.homeClock loc) } one none)) ∧
    (∀ q ∈ s.part.command? id, q.posted = true → ∀ g ∈ q.segments[i]?, g.state = 0 → g.due = true →
      let again := s.attempt q ⟨g.off, g.va, g.sp, g.len, true, g.extra⟩ (some i)
      (s.part.moving q = true → q.op ≠ .cpyr → q.op ≠ .send → exec (.copyLanding id (16 + i)) s = .next again) ∧
      (q.op = .cpyr → q.before ⟨g.off, g.va, g.sp, g.len, true, g.extra⟩ = false →
        exec (.cpyrReduction id (16 + i)) s = .next again)) ∧
    (∀ r : WarpRef, ∀ w ∈ s.part.warp? r,
      (∃ h ∈ w.heldCmd, ∃ t ∈ w.threads, t.isReady = true ∧ t.retry = true ∧ t.pc = h.1) →
      let p := s.part.onWarp r (fun x => { x with gapEnd := 0 })
      exec (.commandDispatch r) s = .next { s with part := { p with sched := .issue r :: p.sched } }) ∧
    (∀ r ∈ s.part.mgmt.remotes.find? (fun r => r.id == i && r.command == some id), r.issued + 40000000 ≤ s.part.now →
      ∀ q ∈ s.part.command? id, ∀ x ∈ q.flying.find? (fun x => x.remote == i),
      let p := s.part.onMgmt (fun m => { m with remotes := m.remotes.filter (fun r => r.id != i) })
      let rest := { q with flying := q.flying.filter (fun y => y.remote != i) }
      exec (.engineRequestTimeout id i) s = .next (({ s with part := p }).segment rest x.run x.seg 2 causeEngTimeout 0))

/-- R196, R345, R355: the number of a command completes on a timeline, with the clocks of its global writes and the lines of its
fix-up list. -/
def Rules.counted (t : Timeline) (q : Command) (err : Bool) : Timeline :=
  let done := t.complete q.number err
  { done with clock := joinClock done.clock (joinClock q.clock q.listClock), listClock := joinClock done.listClock q.listClock,
              listLines := (done.listLines ++ q.listLines).eraseDups }

/-- R201, R202, R206, R216, R345, R357, completion. COPY_COMPLETE completes a command of which nothing is left, no request of it
to the host or a peer is open, and whose barrier has been counted down: its number completes on its timeline, CT of the workgroup
for a copy and XT of the launch for a collective and a SEND, its ring entry has its last status, an MMA that waits for it goes on,
threads that wait on the timeline or the ring issue again, and a failed copy or collective queues one imprecise trap that names
its first abandoned segment. -/
def Rules.copyCompletionRule : Prop :=
  ∀ (s : State) (id : Nat), ∀ q ∈ s.part.command? id, q.settled = true → (∀ u ∈ s.part.tbUpdates, u.command ≠ some id) →
    (∀ r ∈ s.part.mgmt.remotes, r.command = some id → r.kind = 6) →
    let err := q.failed
    let hand (k : Core) : Core :=
      { k with arrayQueue := k.arrayQueue.map (fun t =>
          if t.waits = some id then { t with waits := none, failed := err } else t) }
    let p := (s.part.writeRing { q with status := if err then 4 else 3 }).onCore q.w.core hand
    let wake (g : Wg) : Wg :=
      { g with warps := g.warps.map (fun w => { w with threads := w.threads.map (fun t => t.wake (fun c => c == .timeline)) }) }
    let own (p : Part) : Part := p.onWg q.w.core q.w.slot (fun g => wake { g with ct := Rules.counted g.ct q err })
    let shared (p : Part) : Part :=
      let p := p.onLaunch q.launch (fun l => { l with xt := Rules.counted l.xt q err })
      let p := p.onWg q.w.core q.w.slot (fun g => { g with xtOpen := g.xtOpen.filter (fun n => n != q.number) })
      { p with cores := p.cores.map (fun k =>
          { k with slots := k.slots.map (Option.map (fun g => if g.launch = q.launch then wake g else g)) }) }
    let p := if q.collective then shared p else own p
    let bad := q.segments.find? (fun g => g.state == 2)
    let plain := if q.collective then causeCollFault else causeCpyFault
    let cause := (bad.map (fun g => if g.cause = causePathAtomic ∨ g.cause = causeEngTimeout then g.cause else plain)).getD plain
    let va := (bad.map (·.va)).getD (((q.todo.head?).map (·.va)).getD 0)
    let info := word (q.number / 2 ^ 32 % 2 ^ 30 + (if q.collective then 2 ^ 31 else 0))
    let p := if err ∧ q.op ≠ .send then p.queueTrap q.w (impTrap cause va (word q.number) info) else p
    exec (.copyComplete id) s = .next { s with part := (p.dropCommand id).wakeSlot q.w.core q.w.slot (fun c => c == .ring) }

end Sys2Proof

open Sys2Proof Sys2Proof.Machine in
/-- Events of copies: copyLandingsRule, commandProgressRule and copyCompletionRule, whose rules stand with them. -/
def Obligations.EngineEvents : Prop :=
  Rules.copyLandingsRule ∧ Rules.commandProgressRule ∧ Rules.copyCompletionRule

namespace Sys2Proof

open Machine

/-- R177: where stored row r of an operand begins. -/
def Rules.rowAt (q : Pair) (r : Nat) : Nat :=
  q.base + (if q.bandp = 0 then r * q.pitch else r % 16 * q.pitch + r / 16 * (256 * q.bandp))

/-- R80, R87, R89, R177, R178: element (i, j) of an operand in a window, decoded: of a row of bits, or of one group of blocks with
its scale and, for BX, its micro-exponent. -/
def Rules.element (p : Part) (win : Nat × Nat) (c : FmtCtx) (q : Pair) (f : Entry) (i j : Nat) : Val × Flags :=
  let e := if q.t then i else j
  let at_ := Rules.rowAt q (if q.t then j else i)
  let code (first bits : Nat) : Nat :=
    leNat (p.winRead win.1 win.2 (at_ + (first + e * bits / 8)) ((e * bits % 8 + bits + 7) / 8)) / 2 ^ (e * bits % 8) % 2 ^ bits
  let byte (n : Nat) : Nat := leNat (p.winRead win.1 win.2 (at_ + n) 1)
  if f.kind ≠ kindBlock then (decodeCode f (code 0 f.sbits), 0)
  else if f.scale = 2 then decodeBlockElem c f (byte (e / 32)) (byte (8 + e / 32) / 4 ^ (e % 32 / 8) % 4) (code 32 (f.fw + 2))
  else decodeBlockElem c f (byte (e / 32)) 0 (code 16 f.sbits)

/-- R84, R98: an exact value rounded once to FP32 under RNE, its flags beside those raised before. -/
def Rules.once32 (v : Val × Flags) : Word × Flags :=
  let r := roundFloat fp32 0 v.1
  (word r.1, v.2 ||| r.2)

/-- R184, R181: operands of an MMA, +0 beyond KV; a tile's elements are rounded into BF16 (entry 5) or E4M3 (entry 6). -/
def Rules.mmaA (x : TileCmd) (p : Part) (g : Wg) (i kk : Nat) : Val × Flags :=
  let src := x.m % 4
  let f := (builtinEntries[if src = 1 then 5 else 6]?).getD fp32
  let r := roundFloat f 0 (ofFp32 ((g.tile x.a).word i (kk + if src = 1 ∧ x.m / 4 % 2 = 1 then 64 else 0)))
  if x.kv ≤ kk then (.zero false, 0)
  else if src = 0 then Rules.element p (x.w.core, x.w.slot) x.fmt (pairOf x.pairA) x.entryA i kk
  else (decodeCode f r.1, r.2)
def Rules.mmaB (x : TileCmd) (p : Part) (kk j : Nat) : Val × Flags :=
  if x.kv ≤ kk then (.zero false, 0) else Rules.element p x.peer x.fmt (pairOf x.pairB) x.entryB kk j

/-- R98, R99, R184: element (i, j) of an MMA's destination, by groups of eight products in ascending K order. -/
def Rules.mmaAt (x : TileCmd) (p : Part) (g : Wg) (i j : Nat) : Word × Flags :=
  let n := x.entryB.sbits
  let k := if n ≤ 4 then 256 else if n ≤ 8 then 128 else if n ≤ 16 then 64 else 16
  let step (acc : Word × Flags) (h : Nat) : Word × Flags :=
    let s := dotVals [] ((List.range 8).map (fun t => ((Rules.mmaA x p g i (8 * h + t)).1, (Rules.mmaB x p (8 * h + t) j).1)))
    let sum := (ofFp32 acc.1).add 0 s.1
    let r := Rules.once32 (sum.1, s.2 ||| sum.2)
    (r.1, acc.2 ||| r.2)
  (List.range (k / 8)).foldl step ((g.tile x.d).word i j, 0)

/-- R190, R193: an FP32 word is a NaN; its value as an integer that orders the others, −0 and +0 alike. -/
def Rules.nan32 (w : Word) : Bool := decide (0x7F800000 < w.toNat % 2 ^ 31)
def Rules.key32 (w : Word) : Int := if w.msb then -(w.toNat % 2 ^ 31 : Nat) else (w.toNat % 2 ^ 31 : Nat)

/-- R190: the largest of some FP32 words, −0 below +0, NaNs ignored unless all are. -/
def Rules.isLargest (ws : List Word) (w : Word) : Prop :=
  (ws.all Rules.nan32 = true → w = 0x7FC00000) ∧
  (ws.all Rules.nan32 = false → w ∈ ws ∧ Rules.nan32 w = false ∧
    ∀ y ∈ ws, Rules.nan32 y = false → Rules.key32 y < Rules.key32 w ∨ Rules.key32 y = Rules.key32 w ∧ (w.msb = true → y.msb = true))

/-- R193: one candidate goes into a list of k slots, at the lowest slot whose entry ranks below it. -/
def Rules.listed (k : Nat) (list : List (Word × Word)) (v : Word × Word) : List (Word × Word) :=
  let below (y : Word × Word) : Bool := Rules.nan32 y.1 || decide (Rules.key32 y.1 < Rules.key32 v.1) ||
    (decide (Rules.key32 y.1 = Rules.key32 v.1) && v.2.ult y.2)
  if Rules.nan32 v.1 then list
  else match list.findIdx? below with
    | none => list
    | some n => (List.range k).map (fun s => if s < n then nth list s (0, 0) else if s = n then v else nth list (s - 1) (0, 0))

/-- R187, R192: an FP32 word loaded from an operand. -/
def Rules.loaded (x : TileCmd) (p : Part) (i j : Nat) : Word × Flags :=
  Rules.once32 (Rules.element p (x.w.core, x.w.slot) x.fmt (pairOf x.pairA) x.entryA i j)

/-- R186 to R191, R193: the word and flags of element (i, j) inside the edge of a tile that a command but TMOV writes. -/
def Rules.tileAt (x : TileCmd) (p : Part) (g : Wg) (i j : Nat) : Word × Flags :=
  let own := (x.w.core, x.w.slot)
  let q := pairOf x.pairA
  match x.op with
  | .mma => Rules.mmaAt x p g i j
  | .tld =>
    if x.entryA.sbits = 32 ∧ x.entryA.epw = 1 then
      (word (leNat (p.winRead own.1 own.2 (Rules.rowAt q (if q.t then j else i) + 4 * (if q.t then i else j)) 4)), 0)
    else Rules.loaded x p i j
  | .tscal =>
    let n := if x.m % 2 = 1 then j else i
    let by_ := word (leNat (p.winRead own.1 own.2 (x.base.toNat + 4 * n) 4))
    Rules.once32 ((ofFp32 ((g.tile x.a).word i j)).mul (ofFp32 by_))
  | _ => (0, 0)

/-- The places inside an edge. -/
def Rules.inEdge (x : TileCmd) : List (Nat × Nat) := (List.range x.rows).flatMap (fun i => (List.range x.cols).map (fun j => (i, j)))

/-- R184, R187, R191: MMA, TLD and TSCAL write each element inside the edge, with their tag; what lies outside stays, and is +0
after TLD. TZERO (R186) leaves zeros. Their flags are those of their elements and, for MMA, of the operands that it reads. -/
def Rules.tileElementsRule : Prop :=
  ∀ (x : TileCmd) (p : Part) (g : Wg), x.rows ≤ 64 → x.cols ≤ 128 → ((g.tile x.d).words.map (·.1)).Pairwise (· < ·) →
    let o := x.run p g
    let reads := (List.range (classK x.entryB)).flatMap (fun kk =>
      (List.range x.rows).map (fun i => (Rules.mmaA x p g i kk).2) ++ (List.range x.cols).map (fun j => (Rules.mmaB x p kk j).2))
    (x.op ∈ [Op.mma, .tld, .tscal] → o.values = [] ∧ o.bytes = [] ∧ ∀ t ∈ o.tile,
      t.tag = (if x.op = .tld then x.outTag.getD tagFp32 else tagFp32) ∧
      o.flags = orFlags ((Rules.inEdge x).map (fun q => (Rules.tileAt x p g q.1 q.2).2) ++ (if x.op = .mma then reads else [])) ∧
      ∀ i < 64, ∀ j < 128, t.word i j = if i < x.rows ∧ j < x.cols then (Rules.tileAt x p g i j).1
        else if x.op = .tld then 0 else (g.tile x.d).word i j) ∧
    (x.op ∈ [Op.mma, .tld, .tscal, .tzero, .topk] → o.tile.isSome = true) ∧
    (x.op = .tzero → o.flags = 0 ∧ o.values = [] ∧ o.bytes = [] ∧ ∀ t ∈ o.tile, t.tag = x.outTag.getD tagFp32 ∧
      ∀ i j, t.word i j = 0)

/-- R189, R190, R193: TMOV moves rows of tile words to and from the lanes that take part; TRED gives each lane the results of its
rows inside the edge, the largest, the largest magnitude, or the exact sum rounded once, with the old value under ACC; TOPK keeps
the list of each row inside the edge in its half, and what else the tile holds stays. -/
def Rules.tileRowsRule : Prop :=
  ∀ (x : TileCmd) (p : Part) (g : Wg), x.rows ≤ 64 → x.cols ≤ 128 → ((g.tile x.d).words.map (·.1)).Pairwise (· < ·) →
    (∀ v ∈ x.vregs, v.1 < 32) → (x.vregs.map (·.1)).Nodup →
    let o := x.run p g
    let old := g.tile x.d
    let row := x.m % 64
    let col (l : Nat) : Nat := 32 * (x.m / 64 % 4) + l
    (x.op = .tmov → x.m / 256 % 2 = 0 → o.tile = none ∧ o.flags = 0 ∧ o.bytes = [] ∧
      o.values = x.vregs.map (fun v => (v.1, (List.range v.2.length).map (fun i => (g.tile x.a).word (row + i) (col v.1))))) ∧
    (x.op = .tmov → x.m / 256 % 2 = 1 → o.values = [] ∧ o.flags = 0 ∧ o.bytes = [] ∧ ∃ t, o.tile = some t ∧ t.tag = x.srcTag ∧
      ∀ i < 64, ∀ j < 128, t.word i j =
        match x.vregs.find? (fun v => col v.1 == j && decide (row ≤ i) && decide (i < row + v.2.length)) with
        | some v => nth v.2 (i - row) 0
        | none => old.word i j) ∧
    (x.op = .tred → o.tile = none ∧ o.bytes = [] ∧ o.values.map (·.1) = x.vregs.map (·.1) ∧
      (x.m % 4 ≠ 1 → o.flags = 0) ∧
      ∀ (n : Nat) (v : Nat × List Word) (r : Nat × List Word), x.vregs[n]? = some v → o.values[n]? = some r →
        r.2.length = (if v.1 + 32 < x.rows then 2 else if v.1 < x.rows then 1 else 0) ∧
        ∀ k < r.2.length,
          let ws := (List.range x.cols).map (fun j => (g.tile x.a).word (v.1 + 32 * k) j)
          let acc := if x.m / 4 % 2 = 1 then [nth v.2 k 0] else []
          let res := nth r.2 k 0
          (x.m % 4 = 0 → x.cols ≠ 0 → Rules.isLargest (acc ++ ws) res) ∧
          (x.m % 4 = 2 → x.cols ≠ 0 → Rules.isLargest (acc ++ ws.map (fun w => w &&& 0x7FFFFFFF)) res) ∧
          (x.m % 4 = 1 → res = (Rules.once32 (sumVals ((ws ++ acc).map ofFp32))).1)) ∧
    (x.op = .topk →
      let k := x.m / 8 % 32 + 1
      let half := 64 * (x.m % 2)
      let src (i j : Nat) : Word × Flags := if x.m / 2 % 2 = 0 then ((g.tile x.a).word i j, 0) else Rules.loaded x p i j
      let first (i : Nat) : List (Word × Word) := (List.range k).map (fun s =>
        if x.m / 4 % 2 = 1 then (0xFF800000, 0xFFFFFFFF) else (old.word i (half + 2 * s), old.word i (half + 2 * s + 1)))
      let list (i : Nat) : List (Word × Word) :=
        (List.range x.cols).foldl (fun ls j => Rules.listed k ls ((src i j).1, x.base + word j)) (first i)
      o.values = [] ∧ o.bytes = [] ∧ o.flags = orFlags ((Rules.inEdge x).map (fun q => (src q.1 q.2).2)) ∧
      ∀ t ∈ o.tile, t.tag = tagRaw32 ∧ ∀ i < 64, ∀ j < 128, t.word i j =
        if i < x.rows ∧ half ≤ j ∧ j < half + 2 * k then
          let e := nth (list i) ((j - half) / 2) (0, 0)
          if j % 2 = 0 then e.1 else e.2
        else old.word i j)

/-- R87 to R89, R188: TST writes the stored rows inside the edge, rounding each element once: of a row of bits the codes of its
elements over the bits that stood there, a tile's own entry being copied; of a block entry the scale, the micro byte and the codes
of each block with a column inside the edge, whose other elements are +0, and the zero bytes of the group. -/
def Rules.tileStoreRule : Prop :=
  ∀ (x : TileCmd) (p : Part) (g : Wg), x.op = .tst → x.rows ≤ 64 → x.cols ≤ 128 →
    let o := x.run p g
    let q := pairOf x.pairD
    let f := x.entryA
    let rm := x.m / 2 ^ 10 % 8
    let mode := if rm = 0 then f.rnd else rm - 1
    let n := if q.t then x.cols else x.rows
    let len := if q.t then x.rows else x.cols
    let bits (r e : Nat) : Word := (g.tile x.a).word (if q.t then e else r) (if q.t then r else e)
    let value (r e : Nat) : Val := decodeCode (x.fmt.entry (tagIndex x.srcTag)) (bits r e).toNat
    let code (r e : Nat) : Nat × Flags :=
      if q.fmt = tagIndex x.srcTag then ((bits r e).toNat, 0) else roundInto f mode (value r e)
    o.tile = none ∧ o.values = [] ∧
    (f.kind ≠ kindBlock → 0 < f.sbits → o.bytes.map (·.1) = (List.range n).map (Rules.rowAt q) ∧
      o.flags = orFlags ((List.range n).flatMap (fun r => (List.range len).map (fun e => (code r e).2))) ∧
      ∀ (r : Nat) (b : Nat × List Byte), o.bytes[r]? = some b →
        let was := p.winRead x.w.core x.w.slot b.1 ((len * f.sbits + 7) / 8)
        was.length = (len * f.sbits + 7) / 8 →
        b.2.length = was.length ∧ leNat b.2 / 2 ^ (len * f.sbits) = leNat was / 2 ^ (len * f.sbits) ∧
        ∀ e < len, leNat b.2 / 2 ^ (e * f.sbits) % 2 ^ f.sbits = (code r e).1 % 2 ^ f.sbits) ∧
    (f.kind = kindBlock → q.t = false →
      let bx := decide (f.scale = 2)
      let width := if bx then f.fw + 2 else f.sbits
      let made (r b : Nat) : Block :=
        quantise x.fmt f mode ((List.range 32).map (fun e => if 32 * b + e < len then value r (32 * b + e) else .zero false))
      let block (r b : Nat) : List (Nat × List Byte) :=
        let at_ := Rules.rowAt q r
        let packed := ((made r b).codes.zipIdx.map (fun c => c.1 % 2 ^ width * 2 ^ (c.2 * width))).sum
        [(at_ + b, leBytes 1 (made r b).scale)] ++ (if bx then [(at_ + (8 + b), leBytes 1 (made r b).micro)] else []) ++
          [(at_ + ((if bx then 32 else 16) + 4 * b * width), leBytes (4 * width) packed)]
      let zero (r : Nat) : Nat × List Byte := (Rules.rowAt q r + (if bx then 16 else 8), List.replicate (if bx then 16 else 8) 0)
      o.bytes = (List.range n).flatMap (fun r => zero r :: (List.range ((len + 31) / 32)).flatMap (block r)) ∧
      o.flags = orFlags ((List.range n).flatMap (fun r => (List.range ((len + 31) / 32)).map (fun b => (made r b).flags))))

/-- R174, R175, R194, R203, R342, R394, completion. TILE_COMMAND_START starts the oldest command that is the first of its
workgroup and waits for no copy; an MMA starts narrow while the die's power alarm stands. TILE_COMMAND_COMPLETE gives the
running command its effect: the tile register, the scratchpad bytes, the values for its warp and the flags, and its number
completes on MT; after a copy that failed it has none, and the number carries the error. XT_NUMBER_REQUEST gives a collective
the launch's next number. -/
def Rules.tileProgressRule : Prop :=
  ∀ (s : State) (r : WarpRef),
    (∀ k ∈ s.part.core? r.core, k.running = none →
      ∀ x ∈ k.arrayQueue.find? (fun x => x.waits.isNone &&
        k.arrayQueue.all (fun y => y.w.slot != x.w.slot || decide (x.number ≤ y.number))),
      let narrow := if x.op = .mma then (s.part.die (dieOf r.core)).alarm else k.narrow
      exec (.tileCommandStart r.core) s = .next { s with part := s.part.onCore r.core (fun k =>
        { k with running := some x, arrayQueue := k.arrayQueue.filter (fun y => y.id != x.id), narrow := narrow }) }) ∧
    (∀ k ∈ s.part.core? r.core, ∀ x ∈ k.running, ∀ g ∈ s.part.wg? x.w.core x.w.slot,
      let o := x.run s.part g
      let p := (o.tile.map (fun t => s.part.onWg x.w.core x.w.slot (fun g => { g with tiles := setNth g.tiles x.d t }))).getD s.part
      let p := o.bytes.foldl (fun p b => p.winWrite x.w.core x.w.slot b.1 b.2) p
      let give (w : Warp) : Warp :=
        (x.pend.map (fun id => (o.values.foldl (fun w v => w.answerLane id v.1 v.2) w).commitEntry id)).getD w
      let p := ((p.onWarp x.w give).charge x.w.core x.w.slot x.passes).onWarp x.w (fun w => { w with fstat := w.fstat ||| o.flags })
      let cause := (p.warp? x.w).bind (fun w => enabledTrap w.ften o.flags)
      let info := word (x.number / 2 ^ 32 % 2 ^ 30 + 2 ^ 30)
      let p := (cause.map (fun c => p.queueTrap x.w (impTrap c 0 (word x.number) info))).getD p
      let p := if x.failed then s.part else p
      let alarm := (p.die (dieOf r.core)).alarm
      let p := p.onCore r.core (fun k => { k with running := none, narrow := if x.op = .mma then k.narrow && alarm else k.narrow })
      let p := p.onWg x.w.core x.w.slot (fun g => { g with mt := g.mt.complete x.number x.failed })
      exec (.tileCommandComplete r.core) s = .next { s with part := p.wakeSlot x.w.core x.w.slot (fun w => w == .timeline) }) ∧
    (∀ k ∈ s.part.core? r.core, ∀ q ∈ k.numbering.find? (fun q => q.w == r && q.number == 0), ∀ l ∈ s.part.launch? q.launch,
      let n := l.xt.issued + 1
      let p := s.part.onLaunch q.launch (fun l => { l with xt := { l.xt with issued := n } })
      let p := p.onWg r.core r.slot (fun g => { g with xtLast := n, xtOpen := g.xtOpen ++ [n] })
      let p := p.onCore r.core (fun k => { k with numbering := k.numbering.map (fun y => if y.id = q.id then { y with number := n } else y) })
      exec (.xtNumberRequest r) s = .next { s with part := p.onWarp r (fun w => { w with answer := some (q.pc, some 1) }) })

/-- R215, R216, R219, R220, R362, R373, completion. MESSAGE_ARRIVAL brings a message, after what its die sent there before, to the
first receive of its destination that it fits; without one it takes the lowest free entry of the hamper (which of them is the
model's choice, log entry 28), with its bytes in device memory unless a forward window refuses them; with no entry free, or when
its destination is not a workgroup of the sender's launch (or one that has completed, by the model's reading, log entry 32), the
message is dropped and an imprecise trap queued. CATCH_RELEASE first notes how many collectives the launch has issued; once they
have completed, every core of the launch acquires, the threads that wait at CATCH go on with the number of the superstep, and the
launch counts it: these two turns are the model's reading (log entry 28). -/
def Rules.arrivalsRule : Prop :=
  ∀ (s : State) (id : Nat),
    (∀ q ∈ s.part.command? id, ∀ e ∈ (s.part.die (dieOf q.w.core)).messages.find? (fun m => m.1 == id), s.part.sendWaits q = false →
      s.part.crossClear (dieOf q.w.core) (dieOf e.2.dstCore) id = true →
      let m := e.2
      let p := s.part.onDie (dieOf q.w.core) (fun d => { d with messages := d.messages.filter (fun m => m.1 != id) })
      let ends (p : Part) (drop : Bool) : State :=
        { s with part := p.onCommand id (fun q => { q with settled := true, dropped := drop }) }
      let here := (s.part.wg? m.dstCore m.dstSlot).filter (fun g => g.launch == q.launch && !g.complete)
      (here = none → exec (.messageArrival id) s =
        .next (ends (p.queueTrap q.w (impTrap causeMsgBad 0 (word q.number) (word (q.number / 2 ^ 32 % 2 ^ 30 + 2 ^ 31)))) true)) ∧
      (∀ g ∈ here, ∀ r ∈ g.receives.find? (fun r => Rules.takes r.mw m),
        let i := (g.receives.takeWhile (fun r => !Rules.takes r.mw m)).length
        let took := p.onWg m.dstCore m.dstSlot (fun g => { g with receives := g.receives.eraseIdx i })
        exec (.messageArrival id) s = .next (ends (took.deliverMessage m.dstCore m.dstSlot r m m.bytes) false)) ∧
      (∀ g ∈ here, (∀ r ∈ g.receives, Rules.takes r.mw m = false) → ∀ k ∈ s.part.core? m.dstCore,
        let free := (List.range 64).find? (fun i => k.hamper.all (fun m => m.entry != i))
        (∀ i ∈ free,
          let kept : Message := { m with bytes := [], len := m.bytes.length, entry := i }
          let at_ := p.hamperAt m.dstCore i
          let data := if p.refused (lineOf at_) then p.sliceViolation at_ (collAgent (dieOf m.srcCore)) 2 else p.homeWrite at_ m.bytes
          let put := data.onCore m.dstCore (fun k => { k with hamper := k.hamper ++ [kept] })
          exec (.messageArrival id) s = .next (ends put false)) ∧
        (free = none →
          let first : WarpRef := ⟨m.dstCore, m.dstSlot, g.lowestLive.getD 0⟩
          exec (.messageArrival id) s = .next (ends (p.queueTrap first (impTrap causeMsgOverflow 0 m.source 0)) true)))) ∧
    (∀ l ∈ s.part.launch? id,
      (l.caughtWait = none → s.part.launchCaught l = true → l.xt.completed < l.xt.issued →
        exec (.catchRelease id) s =
          .next { s with part := s.part.onLaunch id (fun y => { y with caughtWait := some l.xt.issued }) }) ∧
      ((l.caughtWait.isSome = true ∨ s.part.launchCaught l = true) → l.caughtWait.getD l.xt.issued ≤ l.xt.completed →
        let mine (g : Wg) : Bool := g.launch == l.id
        let go (k : Core) : Core :=
          if k.slots.any (fun g => (g.map mine).getD false) then
            { (k.see l.xt.clock).acquire with slots := k.slots.map (Option.map (fun g => if mine g then g.release l.superstep else g)) }
          else k
        let p := { s.part with cores := s.part.cores.map go }
        exec (.catchRelease id) s =
          .next { s with part := p.onLaunch l.id (fun l => { l with superstep := l.superstep + 1, caughtWait := none }) }))

end Sys2Proof

open Sys2Proof Sys2Proof.Machine in
/-- Events of tile commands, with what the commands compute, messages and supersteps: tileProgressRule, tileElementsRule,
tileRowsRule, tileStoreRule and arrivalsRule, whose rules stand with them. -/
def Obligations.TileAndMessageEvents : Prop :=
  Rules.tileProgressRule ∧ Rules.tileElementsRule ∧ Rules.tileRowsRule ∧ Rules.tileStoreRule ∧ Rules.arrivalsRule

namespace Sys2Proof

open Machine

/-! ### Events of launches, placement, drains, images and queues, R17 to R19, R222 to R229, R285 to R293, R318 to R334,
R446 to R448 -/

/-- R332, R333: a decision record of a launch: its queue, its id and job, the DEVICE flag where a warp pushed it. -/
def Rules.noted (l : Launch) (type flags core wg : Nat) (payload : List Byte) : Note :=
  { type := type, flags := flags + (if l.pusher.isSome then 8 else 0), queue := l.queue, core := core, launch := l.id,
    job := l.job, wg := wg, payload := payload }

/-- R446: the decision port remembers whether the last command was refused. -/
def Rules.port (p : Part) (err : Bool) : Part := p.onCox (fun x => { x with portErr := err })

/-- R323: a launch whose job is open, and its record as R222 wants it. -/
def Rules.jobOpen (p : Part) (job : Nat) : Bool := ((p.job? job).map (fun j => !j.closed)).getD false

/-- R224, R323, R332, R334, R446, completion. PENDING_LAUNCH_DRAIN brings the oldest record of a pending-launch queue to the
cox, and threads that wait for room go on; a record of a closed job is refused. DPORT_ADMIT admits a launch that awaits a
decision, the last in the order of admission, with its record in the stream; DPORT_DENY refuses it: cause LAUNCH_BAD for a bad
record, else LAUNCH_DENIED. DPORT_CANCEL cancels what an instance covers and answers the warps that asked; that its record names
queue and launch 0, and FLAGS.DEVICE, at every level but a launch's is the model's reading (log entry 29). A command that names
nothing to decide on is refused. -/
def Rules.launchDecisionsRule : Prop :=
  ∀ (s : State) (id job level core slot : Nat),
    (∀ g ∈ s.part.wg? core slot, ∀ e ∈ g.pending.head?, ∀ l ∈ s.part.launch? e.id,
      let p := s.part.onWg core slot (fun g => { g with pending := g.pending.tail })
      let p := p.onLaunch e.id (fun l => { l with atCox := true })
      let p := p.onWg core slot (fun g => { g with warps := g.warps.map (fun w =>
        { w with threads := w.threads.map (fun t => t.wake (fun c => c == .queue)) }) })
      let t : State := { s with part := p }
      exec (.pendingLaunchDrain core slot) s =
        .next (if Rules.jobOpen s.part l.job then t else t.deny { l with atCox := true } causeLaunchBad)) ∧
    (∀ l ∈ s.part.launch? id, l.atCox = true → l.admitted = false → l.noMore = false → l.counter.complete = false →
      let w (i : Nat) : List Byte := leBytes 4 (nth l.words i 0).toNat
      let good := recordOk l.words && (s.part.job? l.job).isSome
      let last (x : Cox) : Cox :=
        { x with portErr := false, admits := x.admits + 1,
                 launches := x.launches.map (fun y => if y.id = id then { y with admitted := true, turn := x.admits + 1 } else y) }
      let note := Rules.noted l 1 0 0xFFFF (2 ^ 32 - 1) (w 14 ++ w 15 ++ w 1 ++ w 4 ++ leBytes 4 l.parent)
      (good = true → exec (.dportAdmit id) s = .next { s with part := ((s.part.onCox last).count 0 l.queue).append note }) ∧
      (good = false → exec (.dportAdmit id) s = .next { s with part := Rules.port s.part true }) ∧
      (let t := s.deny l (if good then causeLaunchDenied else causeLaunchBad)
       exec (.dportDeny id) s = .next { t with part := t.part.endDrains })) ∧
    (s.part.launch? id = none →
      exec (.dportAdmit id) s = .next { s with part := Rules.port s.part true } ∧
      exec (.dportDeny id) s = .next { s with part := Rules.port s.part true }) ∧
    (let asked (a : WarpRef × Nat × Nat) : Bool :=
       a.2 == (level, id) && ((s.part.wg? a.1.core a.1.slot).map (fun g => g.job == job)).getD false
     let told (p : Part) : Part :=
       let p := (p.cox.asked.filter asked).foldl (fun p a =>
         p.onWarp a.1 (fun w => { w with answer := w.answer.map (fun x => (x.1, some 1)) })) p
       p.onCox (fun x => { x with asked := x.asked.filter (fun a => !asked a) })
     (s.part.counter? job level id = none →
       exec (.dportCancel job level id) s = .next { s with part := Rules.port s.part true }) ∧
     ((s.part.counter? job level id).isSome = true →
       let l := if level = 1 then s.part.launch? id else none
       let note : Note :=
         { type := 9, flags := if (l.map (·.pusher.isSome)).getD false then 8 else 0, queue := (l.map (·.queue)).getD 0,
           core := 0xFFFF, launch := (l.map (·.id)).getD 0, job := job,
           wg := 2 ^ 32 - 1, payload := leBytes 4 level ++ leBytes 4 id }
       let p := (told ((Rules.port s.part false).cancelLevel job level id)).endDrains
       exec (.dportCancel job level id) s = .next { s with part := (p.countPart 8).append note }))

/-- R277, R381: what a completed workgroup had on its core goes: the HALT commands it still owes are answered (as complete where
every thread has stopped, else as refused, log entry 22), its locks, its predicates and comparators, its hampered messages, and
the promotions of its warps are counted as ended. -/
def Rules.given (p : Part) (core slot : Nat) (g : Wg) : Part :=
  let n := (g.warps.filter (fun w => w.sprint.isSome)).length
  (((p.closeHalts core slot g).dropLocks core slot g).releaseOwned core slot).onCore core (fun k => { k with demo := modifyNth k.demo 0 (· + n) })

/-- R17, R18, R19, R222, R277, R331, R334, R392, completion. WORKGROUP_COMPLETE takes a workgroup off its core whose warps have
exited, or that was disposed of, once its engines are at rest; members of a cluster keep their places until all have completed
(log entry 29). DPORT_WGDONE counts it for its launch and writes its record; that of a fatal trap carries the cause, and the
trap's own record follows. The CMODE counter of a workgroup advances at once or with its launch's, freely, that of the last one
always so (log entry 14). DPORT_LEVELDONE completes an instance that is over: its counter, its record, whose FLAGS.ERROR is the
counter's by the model's choice (log entry 29), and what follows (afterLevel); of one that a reset has completed it writes the
record. LAUNCH_COMPLETE begins the release and flush of the L1s of the cores of a launch that is over, and once every core has
been answered the launch is to complete at the port. -/
def Rules.workgroupEndsRule : Prop :=
  ∀ (s : State) (core slot launch number job level id : Nat),
    (∀ g ∈ s.part.wg? core slot, g.complete = false → g.dump = none → s.part.atRest core slot g = true →
      (g.dead.isSome = true ∨ ∀ w ∈ g.warps, w.finished = true ∧ w.pend = []) →
      let p := (Rules.given s.part core slot g).onWg core slot (fun g => { g with complete := true })
      let gone (p : Part) (places : List (Nat × Nat)) : Part :=
        places.foldl (fun p m => p.onCore m.1 (fun k => { k with slots := setNth k.slots m.2 none })) p
      let allEnded := g.members.all (fun m => (p.wg? m.1 m.2).all (fun h => h.launch != g.launch || h.complete))
      let p := if g.cluster < 2 then gone p [(core, slot)] else if allEnded then gone p g.members else p
      let image := g.swapping.map (fun w => w.2.1)
      let p := p.onCox (fun x =>
        { x with left := x.left ++ [⟨g.launch, g.number, core, slot, g.dead, g.double⟩], saves := x.saves.filter (fun a => some a.1 != image) })
      exec (.workgroupComplete core slot) s = .next { s with part := p.endDrains }) ∧
    (∀ l ∈ s.part.launch? launch, ∀ x ∈ s.part.cox.left.find? (fun x => x.launch == launch && x.number == number),
      let p := (Rules.port s.part false).onCox (fun c =>
        { c with left := c.left.filter (fun y => y.launch != launch || y.number != number) })
      let note (type flags : Nat) (bs : List Byte) : Note := Rules.noted l type flags x.core (x.number % 2 ^ 32) bs
      let p := p.count 3 l.queue
      let fatal (r : TrapRec) : Part :=
        let p := ((p.append (note 4 2 (leBytes 4 r.cause))).countPart 9).append (note 10 (2 + x.double.toNat) r.bytes)
        p.wakeEvent (dieOf x.core) 5 x.core (word r.cause)
      let p := (x.fatal.map fatal).getD (p.append (note 4 0 []))
      let last := decide (l.total ≤ l.done + 1)
      let each := decide (recCmode l.words = 2)
      let counted (later : Bool) : State :=
        let p := { p with oracle := p.oracle + 1 }.onLaunch launch (fun l =>
          { l with done := l.done + 1, lastCore := x.core, lastWg := x.number % 2 ^ 32, owed := l.owed + (each && later).toNat })
        { s with part := p.setCounter l.job 1 l.id (fun c =>
          { c with error := c.error || x.fatal.isSome, count := if last then c.count else l.done + 1 }) }
      ∃ later : Bool, (last = true → later = true) ∧
        exec (.dportWgdone launch number) s = .next (if each = true ∧
          later = false then (counted later).addCva l else counted later)) ∧
    (let hit (x : LevelDone) : Bool := x.job == job && x.level == level && x.id == id
     (∀ x ∈ s.part.cox.levels.find? hit,
       let note (c : Counter) : Note :=
         { type := 5, flags := x.flags + (if c.error then 2 else 0), queue := x.queue, core := x.core, launch := x.launch, job := job,
           wg := x.wg, payload := leBytes 4 level ++ leBytes 4 id ++ leBytes 8 c.count ++ leBytes 4 c.flags }
       let p := (Rules.port s.part false).onCox (fun c => { c with levels := c.levels.eraseP hit })
       (∀ c ∈ x.counter, exec (.dportLeveldone job level id) s = .next { s with part := p.append (note c) }) ∧
       (x.counter = none → s.part.levelOver x = true →
         let full (l : Launch) (c : Counter) : Counter := if l.total ≤ l.done then { c with count := l.total } else c
         let p := if level = 1 then ((p.launch? id).map (fun l => p.setCounter job 1 id (full l))).getD p else p
         let p := p.setCounter job level id (fun c => { c with complete := true })
         let c := (p.counter? job level id).getD Counter.zero
         exec (.dportLeveldone job level id) s = .next (State.afterLevel { s with part := p.append (note c) } x)) ∧
       (x.counter = none → s.part.levelOver x = false →
         exec (.dportLeveldone job level id) s = .next { s with part := Rules.port s.part true })) ∧
     (s.part.cox.levels.find? hit = none →
       exec (.dportLeveldone job level id) s = .next { s with part := Rules.port s.part true })) ∧
    (∀ l ∈ s.part.launch? launch, l.counter.complete = false → l.total ≤ l.done → (∀ x ∈ s.part.cox.left, x.launch ≠ launch) →
      let rounds := l.boundary.getD (l.cores.map (fun c => (c, none)))
      let answered := rounds.all (fun r => r.2.any (fun n => s.part.answered r.1 n))
      (answered = false → exec (.launchComplete launch) s = .next { s with part := s.part.beginBoundary l rounds }) ∧
      (answered = true → exec (.launchComplete launch) s = .next { s with part := s.part.levelDue l.job 1 l.id (some l) }))

end Sys2Proof

open Sys2Proof Sys2Proof.Machine in
/-- Events of launches and workgroups: launchDecisionsRule and workgroupEndsRule, whose rules stand with them. -/
def Obligations.LaunchEvents : Prop :=
  Rules.launchDecisionsRule ∧ Rules.workgroupEndsRule

namespace Sys2Proof

open Machine

/-- R28, R29, R318: a workgroup fits a core as it is or, when the core is empty, under the new partition. That its windows are the
first that fit, and that scattered space does not count, is the model's choice (log entry 30). -/
def Rules.fitsOn (p : Part) (l : Launch) (x : Placing) : Option (Core × Nat × Nat) :=
  (p.core? x.core).bind (fun k =>
    if x.partition ≠ k.part ∧ (k.isEmpty && partitionOk x.partition) = false then none
    else
      let k := if x.partition = k.part then k else k.setPartition x.partition
      (k.room (needOf l.words)).map (fun r => (k.clearWindow l.job r.2 (recScratch l.words), r)))

/-- R21, R23, R318: workgroups take their places one after the other; none where one has no room. -/
def Rules.takesPlaces (l : Launch) : List Placing → Part → Option (Part × List (Nat × Nat × Nat))
  | [], p => some (p, [])
  | x :: xs, p =>
    (Rules.fitsOn p l x).bind (fun k =>
      let wg := l.startWg x.number k.2.2 p.now
      let p := p.onCore x.core (fun _ => { k.1 with slots := setNth k.1.slots k.2.1 (some wg) })
      (Rules.takesPlaces l xs p).map (fun r => (r.1, (x.number, x.core, k.2.1) :: r.2)))

end Sys2Proof

open Sys2Proof Sys2Proof.Machine in
/-- R17, R18, R21, R23, R28, R29, R285, R318, R328, R329, R447, completion. DPORT_PLACE places workgroups of an admitted launch on
cores that have room, in order where the class wants it, whole clusters and whole concurrent launches, their slots in the order of
their numbers; the cores acquire, the placement is counted and recorded; otherwise the command is refused whole. DPORT_DRAIN
drains workgroups that stand where it says: %drain, the deadline of their queue and the trap PREEMPT, one record per queue, whose
LAUNCH is the launch that causes it by the model's reading (log entry 29). A launch that comes to an open drain of one of lower
priority joins it, and what any drain covers already is neither drained nor counted again for a launch (R329). That windows are
the first that fit, and that a launch does not fit scattered space, is the model's choice (log entry 30). -/
def Obligations.Placements : Prop :=
  ∀ (s : State) (launch : Nat) (xs : List Placing) (vs : List Resident),
    (∀ l ∈ s.part.launch? launch,
      let refused : State := { s with part := Rules.port s.part true }
      (s.part.mayPlace l xs = false → exec (.dportPlace launch xs) s = .next refused) ∧
      (s.part.mayPlace l xs = true → Rules.takesPlaces l (byNumber xs) s.part = none →
        exec (.dportPlace launch xs) s = .next refused) ∧
      (s.part.mayPlace l xs = true → ∀ r ∈ Rules.takesPlaces l (byNumber xs) s.part,
        let size := recCluster l.words
        let mates (n : Nat) : List (Nat × Nat) :=
          (List.range size).filterMap (fun i => (r.2.find? (fun q => q.1 == n / size * size + i)).map (·.2))
        let cluster (p : Machine.Part) : Machine.Part := r.2.foldl (fun p q => p.onWg q.2.1 q.2.2 (fun g => { g with members := mates q.1 })) p
        let p := Rules.port r.1 false
        let p := if size < 2 then p else cluster p
        let cores := (r.2.map (fun q => q.2.1)).eraseDups
        let p := cores.foldl (fun p c => p.onCore c (fun k => (p.dies.foldl (fun k x => k.see x.vc) k).acquire)) p
        let p := p.onLaunch l.id (fun l =>
          { l with placed := l.placed ++ r.2.map (·.1), anchor := l.anchor.orElse (fun _ => (cores.head?).map dieOf),
                   cores := l.cores ++ cores.filter (fun c => !l.cores.contains c) })
        let p := r.2.foldl (fun p _ => p.count 2 l.queue) p
        exec (.dportPlace launch xs) s = .next { s with part := (p.recordPlaces l r.2).endDrains })) ∧
    (s.part.mayDrain launch vs = false → exec (.dportDrain launch vs) s = .next { s with part := Rules.port s.part true }) ∧
    (s.part.mayDrain launch vs = true →
      let name (v : Resident) : Option (Nat × Nat) := (s.part.wg? v.core v.slot).map (fun g => (g.launch, g.number))
      let join := s.drainToJoin launch
      let covered (v : Resident) : Bool := ((s.part.wg? v.core v.slot).map (·.drain)).getD false
      let names := vs.filterMap name
      let vs := vs.filter (fun v => launch == 0 || !covered v)
      let queue (v : Resident) : Nat := s.part.rootQueue v.core v.slot
      let us (q : Nat) : Nat := if s.qcb q 0x2C 4 = 0 then 200 else s.qcb q 0x2C 4
      let warn (v : Resident) (g : Wg) : Wg :=
        if g.drain then g
        else ({ g with drain := true, deadline := some (s.part.now + 4000 * us (queue v)) }).queueTrap (g.lowestLive.getD 0)
          (impTrap causePreempt 0 (word (us (queue v))) 0)
      let joins (d : Drain) : Drain :=
        { d with joined := d.joined ++ [launch], victims := d.victims ++ names.filter (fun n => !d.victims.contains n) }
      let p := (Rules.port s.part false).onCox (fun x =>
        { x with drains := (join.map (fun i => modifyNth x.drains i joins)).getD (x.drains ++ [⟨launch, [], names⟩]) })
      let p := vs.foldl (fun p v => p.onWg v.core v.slot (warn v)) p
      let told (p : Machine.Part) (q : Nat) : Machine.Part :=
        let mine := vs.filter (fun v => queue v == q)
        let job := ((mine.head?).bind (fun v => (s.part.wg? v.core v.slot).map (·.job))).getD 0
        (p.count 4 q).append
          { type := 6, flags := s.part.deviceFlag launch, queue := q, core := 0xFFFF, launch := launch, job := job, wg := 2 ^ 32 - 1,
            payload := leBytes 4 launch ++ leBytes 4 (us q) ++ leBytes 4 mine.length }
      exec (.dportDrain launch vs) s = .next { s with part := ((vs.map queue).eraseDups).foldl told p })


open Sys2Proof Sys2Proof.Machine in
/-- R227, R250, R285, R287 to R293, R326, R327, R334, R380, R391, R410, completion. SWAP_OUT of a workgroup whose work has
drained, and the launches of which have been decided on but for concurrent ones, first begins a release of the core's writes, then
writes its image, frees the core and records it, or discards it when it was cancelled. DPORT_RESUME puts an image back whose
condition holds on a core with room. LIVE_DUMP of a workgroup that has stopped writes an image where there is room, at a place of
the model's choice (log entry 15), and it goes on, past a barrier that waited for what the dump had stopped (R169); DUMP_TIMEOUT
gives the dump up after 2^20 cycles. FORCED_RESET at the deadline of a drained workgroup resets its job. What an image carries of
waits and halts (log entry 31), what a forced reset discards (log entry 30), and LAUNCH and FLAGS.ERROR of its record (log entry
29) are the model's reading. -/
def Obligations.Images : Prop :=
  ∀ (s : State) (core slot image : Nat),
    (∀ g ∈ s.part.wg? core slot, ∀ q ∈ g.swapping, g.dead = none → g.dump = none → (∀ w ∈ g.warps, w.pend = []) →
      s.part.atRest core slot g = true → s.part.unadmitted g = false → ∀ k ∈ s.part.core? core,
      (q.2.2 = none →
        let r := s.part.beginRound core
        exec (.swapOut core slot) s =
          .next { s with part := r.1.onWg core slot (fun g => { g with swapping := some (q.1, q.2.1, r.2) }) }) ∧
      (∀ r ∈ q.2.2, s.part.answered core r = true → ∀ l ∈ s.part.launch? g.launch,
        let clear (p : Machine.Part) : Machine.Part :=
          ((p.dropLocks core slot g).releaseOwned core slot).onCore core (fun k => { k with slots := setNth k.slots slot none })
        (g.cancel = true →
          let p := (clear (s.part.closeHalts core slot g)).onCox (fun x => { x with saves := x.saves.filter (fun a => a.1 != q.2.1) })
          let p := p.onLaunch l.id (fun l => { l with done := l.done + 1 })
          let p := p.setCounter l.job 1 l.id (fun c => { c with count := if l.done + 1 < l.total then l.done + 1 else c.count })
          exec (.swapOut core slot) s = .next { s with part := p.endDrains }) ∧
        (g.cancel = false →
          let preds := (k.preds.zipIdx.filter (fun d => d.1.owner == some slot)).map (·.2)
          let away : Swapped := ⟨g.launch, g.number, g.job, q.2.1, g.imageSize, core, q.1, q.1.met, g.drain, preds, [], g⟩
          let p := clear ((s.part.homeWrite q.2.1 (s.part.imageOf core slot g none)).disarm core slot q.2.1)
          let p := p.onCox (fun x => { x with swapped := x.swapped ++ [away] })
          let p := (p.count 5 l.queue).append (Rules.noted l 7 0 core (g.number % 2 ^ 32) (leBytes 8 q.2.1 ++ leBytes 8 g.imageSize))
          exec (.swapOut core slot) s = .next { s with part := p.endDrains }))) ∧
    (let u : State := { s with part := s.part.endDrains }
     let found := (u.part.cox.swapped.find? (fun x => x.image == image)).filter (fun x =>
       x.met && !u.part.cox.drains.any (fun d => d.victims.contains (x.launch, x.number)))
     (found = none → exec (.dportResume image core) s = .next { u with part := Rules.port u.part true }) ∧
     (∀ x ∈ found, ∀ l ∈ u.part.launch? x.launch, ∀ r ∈ u.part.resumeRoom x core,
       let t := State.putBack { u with part := Rules.port u.part false } x core r.2.1 r.2.2 r.1
       let note := Rules.noted l 8 0 core (x.number % 2 ^ 32) (leBytes 8 image ++ leBytes 4 x.core ++ leBytes 4 r.2.1)
       exec (.dportResume image core) s = .next { t with part := (t.part.count 6 l.queue).append note })) ∧
    (∀ g ∈ s.part.wg? core slot, ∀ d ∈ g.dump, ∀ l ∈ s.part.launch? g.launch,
      let goOn (g : Wg) : Wg :=
        { g with dump := none, warps := g.warps.map (fun w => { w with threads := w.threads.map (fun t =>
          { t.unhalt (fun b => b == .dump) with oneShot := t.oneShot }) }) }
      let told (p : Machine.Part) (outcome a : Nat) : Machine.Part :=
        (((p.onWg core slot goOn).settle core slot).countPart (9 + outcome)).append
          (Rules.noted l 12 0 core (g.number % 2 ^ 32) (leBytes 4 d.1 ++ leBytes 4 outcome ++ leBytes 8 a))
      let space := s.saveSpace (s.part.rootQueue core slot) g.imageSize
      let p := { s.part with oracle := s.part.oracle + 1 }
      (g.dumpStopped = true → space = none → exec (.liveDump core slot) s = .next { s with part := told p 2 0 }) ∧
      (g.dumpStopped = true → ∀ a ∈ space,
        exec (.liveDump core slot) s = .next { s with part := told (p.homeWrite a (s.part.imageOf core slot g (some d.1))) 1 a }) ∧
      (g.dumpStopped = false → d.2 + 2 ^ 20 ≤ s.part.now → exec (.dumpTimeout core slot) s = .next { s with part := told s.part 2 0 })) ∧
    (∀ g ∈ s.part.wg? core slot, g.overdue s.part.now = true →
      ∀ v ∈ (s.part.cores.zipIdx.flatMap (fun k => k.1.slots.zipIdx.filterMap (fun q => (q.1.filter (fun h =>
        h.job == g.job && h.overdue s.part.now)).map (fun h => (k.2, q.2, h))))).head?,
      let cause := ((s.part.cox.drains.find? (fun d => d.victims.contains (v.2.2.launch, v.2.2.number))).map (·.cause)).getD 0
      let t := s.abortCommands g.job
      let there := t.part.cores.zipIdx.flatMap (fun k => k.1.slots.zipIdx.filterMap (fun q =>
        (q.1.filter (fun h => h.job == g.job)).map (fun h => (k.2, q.2, h))))
      let away := t.part.cox.swapped.filter (fun x => x.job == g.job)
      let p := there.foldl (fun p q => p.discardWg q.1 q.2.1 q.2.2) t.part
      let freed (a : Nat × Nat) : Bool :=
        away.any (fun y => y.image == a.1) || there.any (fun q => (q.2.2.swapping.map (fun w => w.2.1 == a.1)).getD false)
      let p := p.onCox (fun x =>
        { x with swapped := x.swapped.filter (fun y => y.job != g.job), saves := x.saves.filter (fun a => !freed a),
                 asked := x.asked.filter (fun a => !there.any (fun q => a.1.core == q.1 && a.1.slot == q.2.1)) })
      let p := away.foldl (fun p x => p.dropAway x) p
      let queue := s.part.rootQueue v.1 v.2.1
      let note : Note :=
        { type := 11, flags := 2 + p.deviceFlag cause, queue := queue, core := 0xFFFF, launch := cause, job := g.job, wg := 2 ^ 32 - 1,
          payload := leBytes 4 cause ++ leBytes 4 (there.length + away.length) }
      let p := ((p.count 7 queue).append note).wakeEvent (dieOf v.1) 1 v.1 (word g.job)
      exec (.forcedReset core slot) s = .next { t with part := (p.failJob g.job).endDrains })

namespace Sys2Proof

open Machine

/-- R322, R446: an administration command that names nothing it may act on leaves a QERROR record with its reason. -/
def Rules.queueError (s : State) (queue reason : Nat) : State :=
  let note : Note :=
    { type := 13, flags := 0, queue := queue, core := 0xFFFF, launch := 0, job := 0, wg := 2 ^ 32 - 1,
      payload := leBytes 4 queue ++ leBytes 4 reason }
  { s with part := (s.part.countPart 12).append note }

/-- R319, R322: a queue opens, and its TAIL is read next, when its table entry and its control block pass their checks. -/
def Rules.opened (s : State) (n : Nat) : State :=
  match s.openCheck n with
  | .error r => Rules.queueError s n r
  | .ok qcb =>
    let t := s.openQueue n qcb
    { t with part := { t.part with sched := .event (.tailWrite n (t.homeNat (qcb + 0x18) 8)) :: t.part.sched } }

/-- R328: a drain for a close, of the resident workgroups that meet a condition. -/
def Rules.drainAll (s : State) (f : Wg → Bool) : State :=
  let vs := s.part.cores.zipIdx.flatMap (fun k => k.1.slots.zipIdx.filterMap (fun q =>
    (q.1.filter (fun g => f g && g.dead.isNone && !g.complete)).map (fun _ => (⟨k.2, q.2⟩ : Resident))))
  if vs = [] then s else { s with part := Rules.port s.part false }.drainWgs 0 vs

/-- R319: a TAIL that cannot be: behind HEAD, or more records ahead than the ring has. -/
def Rules.tailBad (s : State) (q : Queue) (tail : Nat) : Bool :=
  decide (tail < q.head) || decide (2 ^ (s.homeNat (q.qcb + 8) 4 % 32) < tail - q.head)

end Sys2Proof

open Sys2Proof Sys2Proof.Machine in
/-- R319, R320, R322, R328, R446, completion. QOPEN opens a queue whose table entry and control block pass their checks;
QCLOSE stops one, counts its unread records as refused and drains its work. JOPEN makes a job with its TBASE; JCLOSE closes
it and drains its work; JCANCEL cancels all of it. PPOLSET writes the promotion policy of every core of a mask, its reserved
bits 0. QTBASE_WRITE opens queue 0 at once while microcode runs, waits for it otherwise, and is ignored while another queue
is enabled. TAIL_WRITE consumes the records before TAIL, or stops the queue at a TAIL that cannot be.
The reasons of numbers out of range and of unknown queues and jobs are the model's reading (log entry 32). -/
def Obligations.Administration : Prop :=
  ∀ (s : State) (n a : Nat) (v : Word),
    (let bad := decide (n = 0) || decide (4096 ≤ n)
     (bad = true → exec (.qopen n) s = .next (Rules.queueError s n 4)) ∧
     (bad = false → exec (.qopen n) s = .next (Rules.opened s n))) ∧
    (exec (.qclose 0) s = .next (Rules.queueError s 0 5)) ∧
    (n ≠ 0 → s.part.queue? n = none → exec (.qclose n) s = .next (Rules.queueError s n 4)) ∧
    (∀ q ∈ s.part.queue? n, n ≠ 0 →
      let unread := if q.en then s.homeNat q.tail 8 - q.head else 0
      let stopped := s.part.onQueue n (fun q => { q with en := false })
      let stopped := { stopped with tailWords := stopped.tailWords.filter (fun (t : Nat × Nat) => t.2 != n) }
      let stopped := stopped.homeWrite (q.qcb + 0x0C) (leBytes 4 (2 * q.err.toNat))
      let p := (List.range (if unread ≤ 65536 then unread else 0)).foldl (fun p _ => p.count 1 n) stopped
      exec (.qclose n) s =
        .next (Rules.drainAll { s with part := p } (fun g => ((p.launch? g.launch).map (fun l => l.queue == n)).getD false))) ∧
    (let ok := decide (a % 4 = 0) && decide (a < 2 ^ 57) && (s.part.job? n).isNone
     (ok = false → exec (.jopen n a) s = .next (Rules.queueError s 0 4)) ∧
     (ok = true → exec (.jopen n a) s =
       .next { s with part := { s.part with jobs := s.part.jobs ++ [⟨n, a, false, false, Counter.zero, [], []⟩] } })) ∧
    (s.part.job? n = none →
      exec (.jclose n) s = .next (Rules.queueError s 0 4) ∧ exec (.jcancel n) s = .next (Rules.queueError s 0 4)) ∧
    ((s.part.job? n).isSome = true →
      let t := Rules.drainAll { s with part := s.part.onJob n (fun j => { j with closed := true }) } (fun g => g.job == n)
      let note : Note :=
        { type := 9, flags := 0, queue := 0, core := 0xFFFF, launch := 0, job := n, wg := 2 ^ 32 - 1,
          payload := leBytes 4 4 ++ leBytes 4 n }
      let p := (((Rules.port s.part false).cancelLevel n 4 n).endDrains.countPart 8).append note
      exec (.jclose n) s = .next { t with part := t.part.checkJob n none } ∧ exec (.jcancel n) s = .next { s with part := p }) ∧
    (let set (k : Core) (i : Nat) : Core := if n.testBit i then { k with ppol := v &&& 0x3FFFFFFE } else k
     exec (.ppolset n v) s = .next { s with part := { s.part with cores := s.part.cores.zipIdx.map (fun k => set k.1 k.2) } }) ∧
    (let busy := s.part.cox.queues.any (fun q => q.id != 0 && q.en)
     let t : State := { s with part := s.part.onCox (fun x => { x with qtbase := a % 2 ^ 64, qtPending := true }) }
     (busy = true → exec (.qtbaseWrite a) s = .next s) ∧
     (busy = false → exec (.qtbaseWrite a) s = .next (if s.part.cox.run then t.openAdmin else t))) ∧
    (∀ q ∈ s.part.queue? n, q.en = true →
      let t := if s.homeNat q.tail 8 = a % 2 ^ 64 then s else s.agentWrite hostAgent false q.tail (leBytes 8 a)
      let tail := t.homeNat q.tail 8
      ∀ q ∈ t.part.queue? n, q.en = true →
        (Rules.tailBad t q tail = true →
          exec (.tailWrite n a) s = .next (Rules.queueError { t with part := t.part.stopQueue n true } n 1)) ∧
        (Rules.tailBad t q tail = false → exec (.tailWrite n a) s = .next (t.readRecords n (tail - q.head))))

namespace Sys2Proof

open Machine

/-! ### Events of the debug channel, the management controller, power and errors, R312, R316, R352 to R354, R363, R368,
R373, R379 to R406, R433, R443 -/

/-- R245, R381: the debug command finds its workgroup: it belongs to the job, and the job permits debugging. -/
def Rules.debuggee (s : State) (job core slot : Nat) : Option Wg :=
  (s.part.wg? core slot).filter (fun g => g.job == job && ((s.part.job? job).map (·.debug)).getD false)

/-- R245: the thread that a debug command names, when it may. -/
def Rules.debugged (s : State) (job : Nat) (w : WarpRef) (lane : Nat) : Option (Wg × Warp × Thread) :=
  (Rules.debuggee s job w.core w.slot).bind (fun g => (g.warps[w.warp]?).bind (fun x =>
    (if lane < 32 then x.threads[lane]? else none).map (fun t => (g, x, t))))

/-- R245: numbers of items that the workgroup does not have. -/
def Rules.itemBad (g : Wg) (n top : Nat) : Bool := decide (top ≤ n) || (decide (n < 0x80) && decide (g.nregs ≤ n % 64))

/-- R381, R433: a refused command is answered by an event of type 7. -/
def Rules.debugNo (s : State) (w : WarpRef) (lanes : Nat) : State := { s with part := s.part.debugEvent w lanes 7 0 0 }

/-- R247, R382: a command waits for a step that runs on its core, as every STEP does for any; STEP, READ and WRITE (OP 4 to 6)
also until the register writes of the thread they name have committed (log entry 22). -/
def Rules.debugLate (s : State) (c : DebugCmd) : Bool :=
  let stepping := s.part.stepReq.any (fun q => q.w.core == c.w.core || c.op == 4)
  let named := (Rules.debugged s c.job c.w c.lane).filter (fun x => x.2.2.isHalted || (c.op == 5 && x.2.2.isExited))
  stepping || (decide (3 < c.op) && named.any (fun x => !x.2.1.committed c.lane))

/-- R245, R247, R249, R381, R383: what a command of OP 2 to 6 does when it is served, and its answer. RESUME ends halts of
requests and watches, and answers the HALTs that had not completed as refused (log entry 22). -/
def Rules.debugDone (s : State) (c : DebugCmd) : State :=
  let no := Rules.debugNo s c.w (if c.op ≤ 3 then 0 else 2 ^ c.lane)
  let group := Rules.debuggee s c.job c.w.core c.w.slot
  let halted := (Rules.debugged s c.job c.w c.lane).filter (fun x => x.2.2.isHalted)
  let stopped := (Rules.debugged s c.job c.w c.lane).filter (fun x => x.2.2.isHalted || x.2.2.isExited)
  let on (f : Wg → Wg) : Part := s.part.onWg c.w.core c.w.slot f
  if c.op = 2 then
    let ask (w : Warp) : Warp := { w with threads := w.threads.map (fun t => { t with reqDone := false }) }
    (group.map (fun _ => { s with part := (on (fun g =>
      { g with haltReq := true, haltsDue := g.haltsDue + 1, warps := g.warps.map ask })).tellHalt c.w [] 0 })).getD no
  else if c.op = 3 then
    (group.map (fun g =>
      let p := on (fun g => { g with haltReq := false, haltsDue := 0,
                                     warps := g.warps.map (fun w => w.resumeLanes (List.range 32) (fun h => h == .request || h == .watch)) })
      let p := (List.range g.haltsDue).foldl (fun p _ => p.debugRecord g.launch c.w 0 7 0 0) (p.settle c.w.core c.w.slot)
      { s with part := p.debugEvent c.w c.lanes 8 0 0 })).getD no
  else if c.op = 4 then
    (halted.map (fun _ => { s with part := { s.part with stepReq := some ⟨c.w, c.lane, none, false, false⟩ } })).getD no
  else if c.op = 5 then
    (stopped.map (fun x => if Rules.itemBad x.1 c.item 0xC8 then no
      else { s with part := s.part.debugEvent c.w (2 ^ c.lane) 6 0 (x.2.1.readItem c.lane c.item).toNat })).getD no
  else
    (halted.map (fun x => if Rules.itemBad x.1 c.item 0xC4 || badPc c.item (word c.value) then no
      else { s with part := (s.part.onWarp c.w (fun x => x.writeItem c.lane c.item (word c.value))).debugEvent c.w (2 ^ c.lane) 6 0 0 })).getD no

/-- R382: the commands of a core are served in their order of arrival, one that must wait and those behind it when it is their
turn. -/
def Rules.debugOrdered (s : State) (i : Instr) (c : DebugCmd) : Prop :=
  exec i s = .next (if (∃ d ∈ s.part.debugQueue, d.w.core = c.w.core) ∨ Rules.debugLate s c = true
    then { s with part := { s.part with debugQueue := s.part.debugQueue ++ [c] } } else Rules.debugDone s c)

/-- R379: report r is the oldest of its slice. -/
def Rules.oldest (s : State) (r : SliceReport) : Bool :=
  s.part.reports.all (fun q => q.slice != r.slice || decide (r.id ≤ q.id))

end Sys2Proof

open Sys2Proof Sys2Proof.Machine in
/-- R245, R247, R249, R379 to R383, R386, R433, completion. DBGEN permits or forbids the debugging of a job. HALT asks the threads
of a workgroup to stop at their next safe points; RESUME ends halts of requests and watches. STEP lets one halted thread execute
an instruction, READ answers with an item of a thread that has stopped or exited, WRITE changes one of a halted thread. Each
command is answered by an event in the ring, a refused one by an event of type 7, and those of a core are served in their order of
arrival; what a command waits for, the answers to HALTs that a RESUME ends and the target of the answers to DBGEN and RESUME are
the model's reading (log entry 22). SLICE_WATCH_REPORT counts a match of a slice comparator for its predicate and acts on it, its
trace record of the time of the match; a report that comes after its owner is discarded. That one of a predicate turned off is not
counted, and that the record names warp 0, are readings of the model (log entry 27). -/
def Obligations.DebugChannel : Prop :=
  ∀ (s : State) (job lane n v : Nat) (w : WarpRef) (on : Bool),
    let target := s.part.mgmt.debugTarget
    let lanes := if target.2 = 0 then 0 else 2 ^ target.2
    (s.part.job? job = none → exec (.dbgen job on) s = .next (Rules.debugNo s target.1 lanes)) ∧
    ((s.part.job? job).isSome = true →
      let p := s.part.onJob job (fun j => { j with debug := on })
      exec (.dbgen job on) s = .next { s with part := p.debugEvent target.1 lanes 8 0 0 }) ∧
    Rules.debugOrdered s (.halt job w.core w.slot) ⟨2, job, ⟨w.core, w.slot, 0⟩, 0, 0, 0, 0⟩ ∧
    Rules.debugOrdered s (.resume job w.core w.slot) ⟨3, job, ⟨w.core, w.slot, 0⟩, 0, 0, 0, lanes⟩ ∧
    Rules.debugOrdered s (.step job w lane) ⟨4, job, w, lane, 0, 0, 0⟩ ∧
    Rules.debugOrdered s (.read job w lane n) ⟨5, job, w, lane, n, 0, 0⟩ ∧
    Rules.debugOrdered s (.write job w lane n v) ⟨6, job, w, lane, n, v, 0⟩ ∧
    (∀ c rest, s.stepReady = none → s.part.debugQueue = c :: rest → Rules.debugLate s c = false →
      step s = .next (Rules.debugDone { s with part := { s.part with debugQueue := rest } } c).keepWays) ∧
    (∀ r ∈ s.part.reports.find? (fun r => r.id == n), Rules.oldest s r = true → ∀ g ∈ s.part.wg? r.core r.slot,
      ∀ k ∈ s.part.core? r.core,
      let p := { s.part with reports := s.part.reports.filter (fun q => q.id != n) }
      let d := nth k.preds r.pred Predicate.start
      let mine := d.owner == some r.slot && d.enabled && (g.launch, g.number) == r.owner && !g.complete
      (mine = false → exec (.sliceWatchReport n) s = .next { s with part := p }) ∧
      (mine = true →
        let q := p.onCore r.core (fun k => { k with preds := setNth k.preds r.pred d.hit.1 })
        let entry := traceEntry r.time r.addr g.launch 0 4 r.core (16 * r.pred) d.kind (word r.agent)
        let info := word (r.pred + 16 * d.kind + 2 ^ 16 * r.agent)
        let q := if !d.hit.2 then q else if d.action = 1 then q.trace r.core r.slot entry
          else q.onWg r.core r.slot (fun g => g.queueTrap (g.lowestLive.getD 0) (impTrap causeWatch r.addr info r.value))
        exec (.sliceWatchReport n) s = .next { s with part := q }))

namespace Sys2Proof

open Machine

/-- R402: how a mailbox command ends: its status, its reason, and the sequence number it was given. -/
def Rules.ended (t : State) (status reason : Nat) : State :=
  { t with part := t.part.onMgmt (fun m =>
    { m with mbstat := word (status + 256 * reason + 2 ^ 16 * (m.mbstat.toNat / 2 ^ 16 % 2 ^ 16)) }) }

/-- R402: the mailbox runs the command of a code. -/
def Rules.busy (s : State) (code : Nat) : Bool :=
  decide (s.part.mgmt.mbstat.toNat % 4 = 2) && decide ((nth s.part.mgmt.mbcmd 0 0).toNat % 2 ^ 16 = code)

/-- R402: a command answers: refused with a reason, without effect, or done with its effect. -/
def Rules.answers (s : State) (i : State → Out) (code reason : Nat) (done : State) : Prop :=
  Rules.busy s code = true → i s = .next (if reason = 0 then Rules.ended done 0 0 else Rules.ended s 1 reason)

/-- R316, R402, R404: bytes that a command names in device memory. -/
def Rules.bytesAt (s : State) (pa n : Nat) : Option (List Byte) :=
  if pa + n ≤ 4 * homeSpan then some ((List.range n).map (fun i => s.homeByte (pa + i))) else none

/-- R398: step 5 of bring-up is under way: the step reads 4 and none has failed. -/
def Rules.fifth (m : Mgmt) : Bool := decide (m.bringUp = 4) && !m.mcstat.getLsbD 31

/-- R398: in step 5, with a device id assigned, the step is complete when every port that the route table names is up; until then
those that are not train. -/
def Rules.trains (m : Mgmt) (now : Nat) : Mgmt :=
  let named (i : Nat) : Bool := m.routes.any (fun r => r.2 == i)
  if Rules.fifth m = false ∨ m.devid = 0 then m
  else if ∀ r ∈ m.routes, (nth m.ports r.2 Port.reset).up = true then m.setStep 5
  else { m with ports := m.ports.zipIdx.map (fun q =>
    if named q.2 && !q.1.up && q.1.training.isNone then { q.1 with training := some now } else q.1) }

/-- R312, R316, R352, R353, R363, R368, R398, R402 to R404, completion. A mailbox command that runs is done with its effect, or is
refused with a reason: 2 an operand, 3 the service bit, 4 no session, 5 the state. UCLOAD starts good microcode before jobs are
open; TCTX sets or clears the context of a job; KEYSET takes the key pair of a message, in a session, into an empty slot, and a
message without one is refused; KEYCLR writes the lines of a slot back, takes them out of the slices and empties the slot, so that
what they hold is lost to reads (R404; keys: log entry 34); FWDSET and EXPSET set or clear a window; ROUTE sets the ports to a
device and DEVID names the part, and in step 5 of bring-up the routed ports train, and all of them up complete it (log entry 35);
STREAM turns the detectors on or off; SERVICE waits until no job is open. INVAL runs until every access that may have used the
translation has finished, and INVALIDATE_COMPLETE ends it: MBSTAT reads done with its sequence number. UCLOAD before step 5 and
reason 2 for addresses past memory are the model's reading (log entry 33). -/
def Rules.mailboxSettingsRule : Prop :=
  ∀ (s : State),
    let m := s.part.mgmt
    let op (i : Nat) : Nat := (nth m.mbcmd i 0).toNat
    let wide (i : Nat) : Nat := op i + 2 ^ 32 * op (i + 1)
    let set (f : Mgmt → Mgmt) : State := { s with part := s.part.onMgmt f }
    (let img := (Rules.bytesAt s (wide 2) (op 4)).filter imageGood
     let early := decide (m.bringUp < 5) || m.mcstat.getLsbD 31 || !(s.part.quiesced || m.bringUp == 5)
     Rules.answers s (exec .ucload) 1 (if early then 5 else if img = none then 2 else 0) ((img.map s.startMicrocode).getD s)) ∧
    (let others := m.contexts.filter (fun t => t.job != op 2)
     let none_ := (List.range 8).all (fun i => op (3 + i) == 0)
     let good := decide (op 7 = op 2) && decide (wide 3 % 4096 = 0) && decide (wide 5 % 1024 = 0) && decide (op 8 ≤ 60000) &&
       decide (wide 9 = 0)
     Rules.answers s (exec .tctx) 2 (if none_ || good then 0 else 2)
       (set (fun m => { m with contexts := if none_ then others else others ++ [⟨op 7, wide 3, wide 5, op 8⟩] }))) ∧
    (Rules.busy s 3 = true → exec .inval s =
      .next (if m.invals = [] then set (fun m => { m with invals := [(op 2, wide 3, wide 5, field m.mbstat 31 16)] }) else s)) ∧
    (∀ x ∈ m.invals.head?, s.part.jobAccess x.1 = false →
      let covered (e : TlbEntry) : Bool :=
        decide (e.job = x.1 ∧ (x.2.2.1 = 0 ∨ (e.va < x.2.1 + x.2.2.1 ∧ x.2.1 < e.va + e.span)))
      let t := set (fun m => { m with invals := [], mbstat := word (2 ^ 16 * (x.2.2.2 % 2 ^ 16)) })
      exec .invalidateComplete s = .next { t with part := { t.part with tlb := s.part.tlb.filter (fun e => !covered e) } }) ∧
    (let slot := op 2
     let bad := decide (slot = 0) || decide (2047 < slot)
     let session := m.mcstat.getLsbD 29
     let message := Rules.bytesAt s (wide 3) (op 5)
     let key := message.bind (Config.keyPair m.spdm)
     Rules.answers s (exec .keyset) 4
       (if bad ∨ message = none then 2 else if !session then 4 else if (lookupKey slot m.keys).isSome then 5 else if key = none then 2 else 0)
       (set (fun m => { m with keys := key.toList.foldl (fun ks k => insertKey slot k ks) m.keys })) ∧
     Rules.answers s (exec .keyclr) 5 (if bad then 2 else 0)
       (let t := s.dropLines slot
        { t with part := t.part.onMgmt (fun m => { m with keys := eraseKey slot m.keys }) })) ∧
    (let window : Option FwdWindow := if wide 6 = 0 then none else some (⟨wide 4, wide 6, op 8⟩ : FwdWindow)
     let bad := decide (4 ≤ op 2) || decide (8 ≤ op 3) || decide (256 ≤ op 8)
     Rules.answers s (exec .fwdset) 6 (if !m.mcstat.getLsbD 28 then 3 else if bad then 2 else 0)
       { s with part := s.part.onDie (op 2) (fun d => { d with windows := setNth d.windows (op 3) window }) }) ∧
    (let good := decide (op 2 < 32) && decide (wide 3 % 2 ^ 16 = 0) && decide (wide 5 % 2 ^ 16 = 0) && decide (op 7 ≤ 4094) &&
       decide (op 8 < 8) && decide (op 9 < 2048)
     let window : Option ExportWin := if wide 5 = 0 then none else some ⟨wide 3, wide 3 + wide 5, op 7, op 8, op 9⟩
     Rules.answers s (exec .expset) 7 (if good then 0 else 2) (set (fun m => { m with exports := setNth m.exports (op 2) window }))) ∧
    (let ports := ((List.range 16).filter (fun i => (op 3).testBit i)).map (fun i => (op 2, i))
     let bad := decide (op 2 = 0) || decide (4094 < op 2) || decide (2 ^ 16 ≤ op 3)
     Rules.answers s (exec .route) 8 (if bad then 2 else 0)
       (set (fun m => Rules.trains { m with routes := m.routes.filter (fun r => r.1 != op 2) ++ ports } s.part.now))) ∧
    (let bad := decide (op 2 = 0) || decide (4094 < op 2)
     Rules.answers s (exec .devid) 9 (if bad then 2 else if Rules.fifth m then 0 else 5)
       (set (fun m => Rules.trains { m with devid := op 2 } s.part.now))) ∧
    Rules.answers s (exec .stream) 10 0 (set (fun m => { m with streams := decide (op 2 % 2 = 0) })) ∧
    Rules.answers s (exec .service) 14 (if 2 ≤ op 2 then 2 else if s.part.jobs.all (·.closed) then 0 else 5)
      (set (fun m => m.setBit 28 (decide (op 2 = 1))))

/-- R373: the violation log that a number names: a slice, a port, or the host link. -/
def Rules.log (_ : State) (n : Nat) : Option Gate :=
  if n < 128 then some (.slice (n / 32) (n % 32)) else if 0x100 ≤ n ∧ n ≤ 0x10F then some (.port (n % 16))
  else if n = 0x200 then some .host else none

/-- R397: memory and the part after a warm reset: what the slices have written back is in memory. -/
def Rules.warmed (s : State) : State :=
  let t := s.settleMemory
  { t with part := t.part.warm }

/-- R328, R373, R397, R402, R403, completion. VLOGRD answers with an entry of a violation log and marks it read; FWUPD stages an
image for the next cold reset; WRESET resets the part warm; DRAIN drains a queue's work or all; SPDM hands a message to the
controller and stores its answer, both of which are open. The reason 2 of DRAIN for an unknown queue is the model's reading (log
entry 32), as are that for addresses past memory (log entry 33) and what a warm reset keeps beyond R397's table (log entry 35). -/
def Rules.mailboxServicesRule : Prop :=
  ∀ (s : State),
    let m := s.part.mgmt
    let op (i : Nat) : Nat := (nth m.mbcmd i 0).toNat
    let wide (i : Nat) : Nat := op i + 2 ^ 32 * op (i + 1)
    (let log := (Rules.log s (op 2)).filter (fun _ => decide (op 3 < 16))
     let read (g : Gate) : State :=
       let x := s.part.vlog g
       let entry := (bytesWords ((lookupKey (op 3) x.entries).getD (List.replicate 32 0))).take 8
       let seen := if x.read.testBit (op 3) then x.read else x.read + 2 ^ op 3
       let p := s.part.setVlog g { x with read := seen }
       { s with part := p.onMgmt (fun m => { m with mbresp := entry ++ [word x.lost, word x.written] ++ m.mbresp.drop 10 }) }
     Rules.answers s (exec .vlogrd) 11 (if log = none then 2 else 0) ((log.map read).getD s)) ∧
    (let img := Rules.bytesAt s (wide 2) (op 4)
     Rules.answers s (exec .fwupd) 12 (if img = none then 2 else 0)
       { s with part := s.part.onMgmt (fun m => { m with staged := img }) }) ∧
    Rules.answers s (exec .wreset) 13 0 (Rules.warmed s) ∧
    (let every := decide (op 2 = 2 ^ 32 - 1)
     let mine (g : Wg) : Bool := every || ((s.part.launch? g.launch).map (fun l => l.queue == op 2)).getD false
     let known := every || (s.part.queue? (op 2)).isSome
     let vs := s.part.cores.zipIdx.flatMap (fun k => k.1.slots.zipIdx.filterMap (fun q =>
       (q.1.filter (fun g => mine g && g.dead.isNone && !g.complete)).map (fun _ => (⟨k.2, q.2⟩ : Resident))))
     let t : State := { s with part := s.part.onCox (fun x => { x with portErr := false }) }
     Rules.answers s (exec .drain) 15 (if known then 0 else 2) (if vs = [] then s else t.drainWgs 0 vs)) ∧
    (let request := Rules.bytesAt s (wide 2) (op 4)
     let full := (request.map (Config.spdmReply m.spdm)).getD []
     let reply := full.take (op 7)
     let opens := (request.map (Config.spdmOpen m.spdm)).getD false
     let p := (s.part.homeWrite (wide 5) reply).onMgmt (fun m =>
       { m.setBit 29 opens with spdm := m.spdm + 1, mbresp := setNth m.mbresp 0 (word reply.length) })
     Rules.answers s (exec .spdm) 16 (if request = none ∨ 4 * homeSpan < wide 5 + op 7 then 2 else 0) { s with part := p })

end Sys2Proof

open Sys2Proof Sys2Proof.Machine in
/-- Mailbox commands: mailboxSettingsRule and mailboxServicesRule, whose rules stand with them. -/
def Obligations.Mailbox : Prop :=
  Rules.mailboxSettingsRule ∧ Rules.mailboxServicesRule

namespace Sys2Proof

open Machine

/-- R354, R443: the answer at place i of the answer ring. -/
def Rules.answer (s : State) (cap i : Nat) : Nat × Nat :=
  let a := s.part.mgmt.fanbase + 16 * (i % cap)
  (leNat ((List.range 4).map (fun j => s.homeByte (a + j))), leNat ((List.range 4).map (fun j => s.homeByte (a + 4 + j))))

/-- R353, R354: the record of a line that something waits on goes, and everything that waits on it is tried again or given up. -/
def Rules.serviced (s : State) (id : Nat) (resolve : Bool) : State :=
  if s.part.mgmt.faults.any (fun r => r.id == id && !r.loose) then
    let p := s.part.onMgmt (fun m => { m with faults := m.faults.filter (fun r => r.id != id) })
    (State.answerLanes { s with part := p } id resolve).answerSegments id resolve
  else s

/-- R354: the answers from FANRD on, in order. -/
def Rules.takesAnswers (cap : Nat) : Nat → State → State
  | 0, s => s
  | n + 1, s =>
    let a := Rules.answer s cap s.part.mgmt.fanrd
    let t : State := { s with part := s.part.onMgmt (fun m => { m with fanrd := m.fanrd + 1 }) }
    Rules.takesAnswers cap n (if a.2 = 1 then Rules.serviced t a.1 true else if a.2 = 2 then Rules.serviced t a.1 false else t)

/-- R369, R398: the host reaches the part: with power, and with the host link trained in step 4 of bring-up, also where a later
step has failed. -/
def Rules.linkOpen (s : State) : Bool :=
  let m := s.part.mgmt
  m.powered && decide (4 ≤ m.bringUp) && !(m.mcstat.getLsbD 31 && decide (m.bringUp = 4))

end Sys2Proof

open Sys2Proof Sys2Proof.Machine in
/-- R283, R354, R372, R393, R400, R443, completion. FAULT_ANSWER takes the answers up to FANWR: outcome 1 tries again what waits
on the record, outcome 2 gives it up. FAULT_TIMEOUT gives a record up that is as old as its job's timeout. HOST_IRQ queues the
notice to the lowest live warp of the slot that its word names, or counts a dropped one. WRFREEZE freezes or frees a wake
recorder. REGISTER_WRITE needs power, a trained link and a word address, and past BAR 0 it is a violation of the link (log entry
36); the low word of a 64-bit register waits for the high one. SAMPLE_TIMER_EXPIRY latches the cycle's eligible warps and stall
reason for the next safe point. -/
def Obligations.ManagementEvents : Prop :=
  ∀ (s : State) (n : Nat) (v : Word),
    (let t : State := { s with part := s.part.onMgmt (fun m => { m with fanwr := n }) }
     let cap := ringCap s.part.mgmt.fansize (2 ^ 16)
     exec (.faultAnswer n) s = .next (Rules.takesAnswers cap (min cap (n - s.part.mgmt.fanrd)) t)) ∧
    (∀ r ∈ s.part.mgmt.faults.find? (fun r => r.id == n && !r.loose),
      let ms := ((s.part.context? r.job).map (·.timeout)).getD 0
      let ns := if ms = 0 then 100000000 else ms * 1000000
      exec (.faultTimeout n) s = .next (if r.posted + ns ≤ s.part.gtime then Rules.serviced s n false else s)) ∧
    (let core := n % 2 ^ 8
     let slot := n / 2 ^ 8 % 2 ^ 6
     (s.part.wg? core slot = none → exec (.hostIrq n) s =
       .next { s with part := s.part.onMgmt (fun m => { m with hirqDrop := min (2 ^ 32 - 1) (m.hirqDrop + 1) }) }) ∧
     (∀ g ∈ s.part.wg? core slot,
       let notice := impTrap causeHostIrq 0 (word (n / 2 ^ 32 % 2 ^ 32)) 0
       let p := s.part.queueTrap ⟨core, slot, g.lowestLive.getD 0⟩ notice
       exec (.hostIrq n) s = .next { s with part := p })) ∧
    (exec (.wrfreeze n v) s = .next { s with part := s.part.onDie n (fun d => { d with wrFreeze := v.getLsbD 0 }) }) ∧
    (let opened := Rules.linkOpen s
     let beyond := decide (2 ^ 28 ≤ n)
     (opened = true → n % 4 = 0 → beyond = true →
       exec (.registerWrite n v) s = .next { s with part := s.part.violation .host n hostAgent causeOob 2 }) ∧
     let shut := decide (n % 4 ≠ 0) || !opened
     (shut = true → exec (.registerWrite n v) s = .next s) ∧
     (shut = false → beyond = false → wideLow n = true →
       exec (.registerWrite n v) s = .next { s with part := s.part.onMgmt (fun m => { m with low := insertKey n v m.low }) }) ∧
     (shut = false → beyond = false → wideLow n = false → 4 ≤ n → wideLow (n - 4) = true →
       let low := ((lookupKey (n - 4) s.part.mgmt.low).getD 0).toNat
       exec (.registerWrite n v) s = .next (s.writeWide n (low + 2 ^ 32 * v.toNat))) ∧
     (shut = false → beyond = false → wideLow n = false → (n < 4 ∨ wideLow (n - 4) = false) →
       exec (.registerWrite n v) s = .next (s.writeNarrow n v))) ∧
    (∀ k ∈ s.part.core? n, ∀ m ∈ k.sample,
      let able := (k.residents.flatMap (fun q => q.2.warps.zipIdx.filter (fun w =>
        k.went.contains (q.1, w.2) || (q.2.dead.isNone && q.2.swapping.isNone && q.2.mayIssue w.1 s.part.now)))).length
      let why := (k.oldest.map (fun q => q.1.stallReason q.2 s.part.now)).getD 0
      let next := if s.part.now < m.next then m else { m with next := m.next + m.period, armed := some (min 63 able + 64 * why) }
      exec (.sampleTimerExpiry n) s = .next { s with part := s.part.onCore n (fun k => { k with sample := some next }) })

namespace Sys2Proof

open Machine

/-- R395, R396: an event of a die in its wake recorder. -/
def Rules.dieEvent (p : Part) (d code : Nat) (v : Nat) : Part := p.wakeEvent d code (0x100 + d) (word v)

end Sys2Proof

open Sys2Proof Sys2Proof.Machine in
/-- R389, R390, R394 to R398, R403, R405, R406, completion. POWER_ALARM raises a die's alarm once, counts it and tells it;
POWER_ALARM_CLEAR, 20 windows after the last alarm event, makes the arrays that run no MMA whole. THERMAL_LIMIT tells a
temperature of 100 °C or more, once a ms at most; THERMAL_SHUTDOWN takes power away, as a cold reset does first. COLD_RESET brings
the part up through step 4, with firmware of the fused digest, or stops at the step that fails (which of steps 2 to 4 does is a
free value, log entry 1). CLUSTER_POWER_GATE, TRACE_BUFFER_DRAIN, TRACE_DRAIN_TIMEOUT and CLUSTER_POWER_UP empty a trace buffer
within 4 µs, count what is lost, and start it empty. ECC_CORRECTED counts; UNCORRECTABLE_ERROR poisons a line in the slice of its
home or of a die that holds it, ends the workgroups that hold the row, or resets the part warm. How the events name their places,
the 20 windows counted from the alarm event, and what a reset leaves beyond R397's table are the model's reading (log entry 35).
-/
def Obligations.PowerAndErrors : Prop :=
  ∀ (s : State) (n v : Nat) (slots : List Nat),
    let d := s.part.die n
    (let above := s.part.onDie n (fun x => { x with alarmAt := s.part.now })
     exec (.powerAlarm n) s = .next (if d.alarm then { s with part := above } else
      let count := min (2 ^ 32 - 1) (d.palarm + 1)
      { s with part := Rules.dieEvent (above.onDie n (fun x => { x with alarm := true, palarm := count })) n 6 count })) ∧
    (let whole (k : Core) (c : Nat) : Core :=
       if dieOf c = n ∧ (k.running.map (·.op)) ≠ some .mma then { k with narrow := false } else k
     let p := s.part.onDie n (fun x => { x with alarm := false })
     d.alarmAt + 80000 ≤ s.part.now →
     exec (.powerAlarmClear n) s = .next { s with part := { p with cores := p.cores.zipIdx.map (fun q => whole q.1 q.2) } }) ∧
    (let due := d.thermal.all (fun t => decide (t + 4000000 ≤ s.part.now))
     exec (.thermalLimit n v) s = .next (if v < 100 ∨ due = false then s else
       { s with part := Rules.dieEvent (s.part.onDie n (fun x => { x with thermal := some s.part.now })) n 7 v })) ∧
    (exec (.thermalShutdown n) s = .next (if n < s.part.dies.length then s.unpowered else s)) ∧
    (let t := s.unpowered
     let firmware := s.part.mgmt.staged.orElse (fun _ => s.part.mgmt.firmware)
     let bit (i : Nat) : Bool := Config.freeBit (freeAt t.part.oracle i)
     let verified := sha384 (firmware.getD Config.shippedImage) == Config.fusedDigest
     let step : Nat := if !verified then 1 else if bit 2 then 2 else if bit 3 then 3 else 4
     let fails := !verified || bit 2 || bit 3 || bit 4
     let up (m : Mgmt) : Mgmt :=
       { m with firmware := firmware, staged := none, powered := true, hostAtomics := !fails && bit 0,
                mcstat := word (step + if fails then 2 ^ 31 else 0) }
     exec .coldReset s = .next { t with part := t.part.onMgmt up }) ∧
    (∀ x ∈ s.part.clusters[n]?,
      let set (f : Cluster → Cluster) (p : Machine.Part) : Machine.Part := { p with clusters := modifyNth p.clusters n f }
      let gate := if x.powered ∧ x.gate = none then some s.part.now else x.gate
      (exec (.clusterPowerGate n) s = .next { s with part := set (fun y => { y with gate := gate }) s.part }) ∧
      ((x.powered = false ∨ ∃ t ∈ x.gate, t + 16000 ≤ s.part.now) → exec (.traceBufferDrain n) s = .next s) ∧
      (x.powered = true → (∀ t ∈ x.gate, s.part.now < t + 16000) →
        let cap := ringCap x.trsize (2 ^ 24)
        let k := min 2 (min x.buffer.length (cap - (x.trwr - x.trrd)))
        let p := (List.range k).foldl (fun p i =>
          p.homeWrite (x.trbase + 32 * ((x.trwr + i) % cap)) (nth x.buffer i [])) s.part
        exec (.traceBufferDrain n) s =
          .next { s with part := set (fun y => { y with buffer := y.buffer.drop k, trwr := y.trwr + k }) p }) ∧
      (∀ t ∈ x.gate, t + 16000 ≤ s.part.now →
        let lost := x.buffer.length
        let off (y : Cluster) : Cluster :=
          { y with powered := false, gate := none, buffer := [], offered := [], trlost := min (2 ^ 32 - 1) (y.trlost + lost) }
        let p := set off s.part
        exec (.traceDrainTimeout n) s =
          .next { s with part := if lost = 0 then p else Rules.dieEvent p (dieOf (8 * n)) 3 lost }) ∧
      (let up (y : Cluster) : Cluster := if x.powered then y else { y with powered := true, gate := none, buffer := [], offered := [] }
       exec (.clusterPowerUp n) s = .next { s with part := set up s.part })) ∧
    (exec (.eccCorrected n) s =
      .next { s with part := s.part.onDie n (fun x => { x with ceCount := min (2 ^ 32 - 1) (x.ceCount + 1) }) }) ∧
    (let line := n % 2 ^ 40
     let die := if n < 2 ^ 40 then line / 0x120000000 else n / 2 ^ 40 - 1
     let there := decide (die < 4) && s.part.holds die line
     exec (.uncorrectableError 0 n slots) s =
      .next (if 4 * 0x120000000 ≤ line ∨ there = false ∨ (s.part.die die).poison.contains line then s else
        { s with part := s.part.onDie die (fun x => { x with poison := x.poison.filter (· != line) ++ [line] }) })) ∧
    (let core := n % 256
     let row := n / 256 * 37888
     let check (holds : Wg → Nat → Bool) : State :=
       let kill (g : Wg) (i : Nat) : Wg := if holds g i then g.dispose (impTrap causeMachineCheck 0 0 0) else g
       let p := s.part.onCore core (fun k => { k with slots := k.slots.zipIdx.map (fun q => q.1.map (fun g => kill g q.2)) })
       { s with part := p.wakeEvent (dieOf core) 2 core 1 }
     (exec (.uncorrectableError 1 n slots) s =
       .next (check (fun g _ => decide (g.base < row + 37888) && decide (row < g.base + g.scratch)))) ∧
     (exec (.uncorrectableError 2 n slots) s = .next (check (fun _ i => slots.contains i)))) ∧
    (3 ≤ v →
      exec (.uncorrectableError v n slots) s = .next (Rules.warmed { s with part := Rules.dieEvent s.part (n % 4) 2 2 }))

namespace Sys2Proof

open Machine

/-! ### Requests of the host and of peers, answers, and links, R363 to R374 -/

/-- R369, R373, R374: a refused request: the violation is logged at a gate, and the answer is an error response without data. -/
def Rules.refusedAt (s : State) (g : Gate) (addr who cause kind : Nat) : State :=
  { s with part := { s.part.violation g addr who cause kind with reply := [], replyError := true } }

/-- R361, R366: the lines of n bytes from a location on. -/
def Rules.lines (loc n : Nat) : List Nat := (List.range ((loc % 128 + n + 127) / 128)).map (fun i => loc / 128 + i)

/-- R312, R361, R373: the slice at which a request stops, and why: past device memory, or a write into a window. A location is a
physical address under a key slot (log entry 34). -/
def Rules.stopsAt (s : State) (loc n kind : Nat) : Option (Gate × Nat × Nat) :=
  if 4 * homeSpan < loc % 2 ^ 52 + n then some (.slice (min 3 (homeDie loc)) (sliceOf loc), loc, causeOob)
  else if kind = 1 then none
  else ((Rules.lines loc n).find? (fun l => s.part.refused l)).map (fun l => (.slice (homeDie (128 * l)) (sliceOf (128 * l)), loc, causeProt))

/-- A request that the slices serve, with its effect and the bytes of its answer, or refuse. -/
def Rules.servedBy (s : State) (loc n who kind : Nat) (t : State) (bs : List Byte) : State :=
  match Rules.stopsAt s loc n kind with
  | some x => Rules.refusedAt s x.1 x.2.1 who x.2.2 kind
  | none => { t with part := { t.part with reply := bs, replyError := false } }

/-- R406: a line that is poisoned at its home gives no data. -/
def Rules.clean (s : State) (loc n : Nat) : Bool := (Rules.lines loc n).all (fun l => !s.part.poisoned l)

/-- R370: operation numbers of R136 for FetchAdd, Swap and CAS, and the widths that PCIe has. -/
def Rules.atomicOp (op width : Nat) : Option Nat :=
  if op = 0 ∧ (width = 4 ∨ width = 8) then some 0 else if op = 1 ∧ (width = 4 ∨ width = 8) then some 6
  else if op = 2 ∧ (width = 4 ∨ width = 8 ∨ width = 16) then some 7 else none

/-- R369, R370, R373, R374, completion. The host writes, reads and performs atomics in the memory that BAR 2 opens, once the
package has power and the link is trained; a read answers with the bytes, an atomic with the bytes from before. A request of more
than 4,096 bytes to read or 512 to write, one out of bounds, an AtomicOp that PCIe does not have, and a write into a forward
window are refused, answered with an error and logged. The causes HOST_ERR and OOB by case, the empty answer of a poisoned line
and the order of the checks are the model's reading (log entry 36). -/
def Rules.hostRequestsRule : Prop :=
  ∀ (s : State) (pa n op operand : Nat) (bytes : List Byte),
    let who := hostAgent
    let opened := Rules.linkOpen s
    let outside (n : Nat) : Prop := pa < s.part.mgmt.barBase ∨ s.part.mgmt.barBase + s.part.mgmt.barSize < pa + n
    let large (n most kind : Nat) (i : Instr) : Prop := most < n →
      exec i s = .next (Rules.refusedAt s .host pa who causeHostErr kind)
    (opened = false → exec (.hostWrite pa bytes) s = .next s ∧ exec (.hostRead pa n) s = .next s ∧
      exec (.hostAtomic pa n op operand) s = .next s) ∧
    (opened = true → bytes ≠ [] →
      let n := bytes.length
      large n 512 2 (.hostWrite pa bytes) ∧
      (n ≤ 512 → outside n → exec (.hostWrite pa bytes) s = .next (Rules.refusedAt s .host pa who causeOob 2)) ∧
      (n ≤ 512 → ¬ outside n →
        exec (.hostWrite pa bytes) s = .next (Rules.servedBy s pa n who 2 (s.agentWrite who false pa bytes) []))) ∧
    (opened = true → n ≠ 0 →
      let data := (List.range n).map (fun i => s.homeByte (pa + i))
      large n 4096 1 (.hostRead pa n) ∧ large n 512 4 (.hostAtomic pa n op operand) ∧
      (n ≤ 4096 → outside n → exec (.hostRead pa n) s = .next (Rules.refusedAt s .host pa who causeOob 1)) ∧
      (n ≤ 4096 → ¬ outside n →
        exec (.hostRead pa n) s = .next (Rules.servedBy s pa n who 1 s (if Rules.clean s pa n then data else []))) ∧
      (n ≤ 512 → outside n → exec (.hostAtomic pa n op operand) s = .next (Rules.refusedAt s .host pa who causeOob 4)) ∧
      (n ≤ 512 → ¬ outside n →
        let known := Rules.atomicOp op n
        (known = none ∨ pa % n ≠ 0 →
          exec (.hostAtomic pa n op operand) s = .next (Rules.refusedAt s .host pa who causeHostErr 4)) ∧
        (pa % n = 0 → ∀ o ∈ known,
          let words := (List.range ((if o = 7 then 2 * n else n) / 4)).map (fun i => word (operand / 2 ^ (32 * i)))
          let entry : Entry := ⟨word kindInteger, 0, 0, 0⟩
          let r := if Rules.clean s pa n then s.agentAtomic who entry o pa words else (s, [])
          exec (.hostAtomic pa n op operand) s = .next (Rules.servedBy s pa n who 4 r.1 r.2))))

/-- R146, R364, R365: bytes that a request of a peer names: a read of op bytes, a write of its bytes, an atomic of its operand,
the 8 of a lock and the 16 of a barrier. -/
def Rules.peerBytes (kind op : Nat) (bytes : List Byte) : Nat :=
  if kind = 0 then op else if kind = 1 then bytes.length
  else if kind = 2 then (if op % 16 = 7 then bytes.length / 2 else bytes.length) else if kind = 5 then 16 else 8

/-- R365: the atomics that a part performs. -/
def Rules.performs (op n : Nat) : Bool :=
  decide (n = 4) || (decide (n = 8) && decide (op < 10)) || (decide (n = 16) && decide (op = 7))

/-- R368: the first window that takes the request of a peer. -/
def Rules.window (m : Mgmt) (peer pa n cls : Nat) : Option ExportWin :=
  (m.exports.filterMap id).find? (fun x => (x.peer == 0 || x.peer == peer) && decide (x.base ≤ pa) && decide (pa + n ≤ x.limit) &&
    x.perms.testBit cls)

/-- R365, R366, R368, R373, R374, completion. A request of a peer that arrives on a port that is up is served in an export window
that gives the peer the access, under the key slot of the window, if that key is present: reads, writes, atomics, lock requests,
unlocks and barrier updates take effect as those of this part. Otherwise it is refused, answered with an error and logged at the
port. What a malformed request is, the causes by case and the order of the windows are the model's reading (log entry 36).
RELEASE_FENCE is acknowledged. -/
def Rules.peerRequestsRule : Prop :=
  ∀ (s : State) (port peer pa kind op : Nat) (bytes : List Byte),
    let who := peerAgent peer
    let n := Rules.peerBytes kind op bytes
    let access := if kind = 0 then 1 else if kind = 1 then 2 else 4
    let go (t : State) : Prop := exec (.peerRequest port peer pa kind op bytes) s = .next t
    let refused (cause : Nat) : State := Rules.refusedAt s (.port port) pa who cause access
    let window := Rules.window s.part.mgmt peer pa n (access / 2)
    let up := (nth s.part.mgmt.ports port Port.reset).up
    (up = false → go s) ∧
    (up = true → peerMalformed pa kind op n = true → go (refused causeHostErr)) ∧
    (up = true → peerMalformed pa kind op n = false →
      let cannot := decide (kind = 2) && !Rules.performs (op % 16) n
      (cannot = true → go (refused causePathAtomic)) ∧
      (cannot = false → window = none → go (refused causeProt)) ∧
      (cannot = false → ∀ x ∈ window,
        let locked := decide (x.key ≠ 0) && (lookupKey x.key s.part.mgmt.keys).isNone
        let at_ := 2 ^ 52 * x.key + min pa (2 ^ 52 - 1)
        let data := (List.range n).map (fun i => s.homeByte (at_ + i))
        let tag : WarpRef := ⟨2 ^ 20 + peer, 0, leNat bytes⟩
        let entry : Entry := ⟨word (kindInteger + (if 16 ≤ op then 16 else 0)), 0, 0, 0⟩
        let atomic := if Rules.clean s at_ n then s.agentAtomic who entry (op % 16) at_ (bytesWords bytes) else (s, [])
        let barrier := s.peerBarrier at_ op bytes
        let message : LockSend := ⟨tag, at_ % 2 ^ 52, op == 1, [], 0, s.part.nextCommand, kind == 4⟩
        let sent := s.part.onDie (homeDie at_) (fun d => { d with lockSends := d.lockSends ++ [message] })
        let sent : State := { s with part := { sent with nextCommand := s.part.nextCommand + 1 } }
        (locked = true → go (refused causeKeyBad)) ∧
        (locked = false → kind = 0 → go (Rules.servedBy s at_ n who 1 s (if Rules.clean s at_ n then data else []))) ∧
        (locked = false → kind = 1 → go (Rules.servedBy s at_ n who 2 (s.agentWrite who false at_ bytes) [])) ∧
        (locked = false → kind = 2 → go (Rules.servedBy s at_ n who 4 atomic.1 atomic.2)) ∧
        (locked = false → (kind = 3 ∨ kind = 4) → go (Rules.servedBy s at_ n who 4 sent [])) ∧
        (locked = false → kind = 5 → go (Rules.servedBy s at_ n who 4 barrier.1 barrier.2)))) ∧
    (let ack (q : Port) : Port := if q.up then { q with acked := q.acked + 1 } else q
     exec (.releaseFence port) s = .next { s with part := s.part.onMgmt (fun m => { m with ports := modifyNth m.ports port ack }) })

end Sys2Proof

open Sys2Proof Sys2Proof.Machine in
/-- Requests of the host and of peers: hostRequestsRule and peerRequestsRule, whose rules stand with them. -/
def Obligations.InboundRequests : Prop :=
  Rules.hostRequestsRule ∧ Rules.peerRequestsRule

namespace Sys2Proof

open Machine

/-- R371: the flit of a request has arrived, so its port counts no failed replays any more. -/
def Rules.arrived (s : State) (r : Remote) : State :=
  let calm (i : Nat) : Part := s.part.onMgmt (fun m => { m with ports := modifyNth m.ports i (fun q => { q with fails := 0 }) })
  { s with part := (r.port.map calm).getD s.part }

/-- R371: what an answer with bytes does, by the kind of the request: 0 and 1 reads and atomics of lanes, 2 posted writes,
3 to 5 requests of engines, 6 the flushing read of a release, 7 lock requests, 8 barrier updates. -/
def Rules.answered (s : State) (r : Remote) (bytes : List Byte) : State :=
  let p := s.part.onMgmt (fun m => { m with remotes := m.remotes.filter (fun q => q.id != r.id) })
  let some_ := bytes.any (· != 0)
  if r.kind < 2 then { s with part := s.part.completeRemote r bytes }
  else if r.kind = 2 then { s with part := p }
  else if r.kind = 6 then
    let mark (x : Release) : Release := if some x.id = r.command then { x with flush := false } else x
    { s with part := p.onCore r.w.core (fun k => { k with releases := k.releases.map mark }) }
  else if r.kind = 7 then { s with part := p.lockAnswered r some_ }
  else if r.kind = 8 then { s with part := (p.tbAnswer r.op r.w r.command (r.op != 2 || some_)).wakePhase }
  else (r.command.map (fun c => s.completeFlying c r.id bytes)).getD { s with part := p }

/-- R366, R367, R371, R374: what a failure does: a lane's request ends with an imprecise trap of the cause, an engine's with an
abandoned segment; a release goes on, a lock request is withdrawn, a barrier update counts as answered. -/
def Rules.failed (s : State) (r : Remote) (cause info0 info1 engine : Nat) : State :=
  let p := s.part.onMgmt (fun m => { m with remotes := m.remotes.filter (fun q => q.id != r.id) })
  let trap (p : Part) : Part := p.queueTrap r.w (impTrap cause r.va (word info0) (word info1))
  if r.kind < 3 then { s with part := s.part.failRemote r cause info0 info1 }
  else if r.kind = 6 then
    let mark (x : Release) : Release := if some x.id = r.command then { x with flush := false } else x
    { s with part := (trap p).onCore r.w.core (fun k => { k with releases := k.releases.map mark }) }
  else if r.kind = 7 then { s with part := (trap p).onWarp r.w (fun w => if p.lockAwaited r then w.loseLock else w) }
  else if r.kind = 8 then { s with part := (if r.op < 3 then trap p else p).tbAnswer r.op r.w r.command true }
  else (r.command.map (fun c => s.failFlying c r.id engine)).getD { s with part := p }

/-- R270, R341, R367, R371, R374, completion. HOST_COMPLETION brings the answer of a request: its bytes at status 0, else a
failure with cause HOST_ERR and the status; a flushing read waits for the posted writes sent before it. HOST_COMPLETION_TIMEOUT
fails a request to the host after 10 ms, its status open. ERROR_RESPONSE fails a request to a peer with cause XLATE, the lanes
that it was made for (R35) and the low word of its PC. A request that the Vexlink engine has yet to take into its queue of 128
gets no answer. (A read of a barrier that has been answered and is kept for its TBWAIT is no request any more. The answers of each
kind of request, and what ends with a failed one, are readings of the model, log entry 37.) -/
def Rules.requestAnswersRule : Prop :=
  ∀ (s : State) (id status : Nat) (bytes : List Byte), ∀ r ∈ s.part.mgmt.remotes.find? (fun r => r.id == id),
    ((r.kind = 0 ∧ r.pend = none) → r.op = 0) →
    let earlier := s.part.mgmt.remotes.any (fun q => q.w.core == r.w.core && locTarget q.loc == 1 && decide (q.id < r.id) &&
      (q.kind == 2 || q.kind == 4))
    let t := Rules.arrived s r
    let waits := decide (r.kind = 6) && earlier || !s.part.vexTaken r
    (waits = true → exec (.hostCompletion id status bytes) s = .next s) ∧
    (waits = false →
      exec (.hostCompletion id status bytes) s =
        .next (if status = 0 then Rules.answered t r bytes else Rules.failed t r causeHostErr status 0 causeProt)) ∧
    (let due := locTarget r.loc == 1 && [0, 1, 3, 5, 6].contains r.kind && decide (r.issued + 40000000 ≤ s.part.now)
     let status := (Config.freeWord (freeAt s.part.oracle 0)).toNat
     let u : State := { s with part := { s.part with oracle := s.part.oracle + 1 } }
     exec (.hostCompletionTimeout id) s =
       .next (if due then Rules.failed u r causeHostErr status 0 causeEngTimeout else s)) ∧
    (let lanes := if r.kind ≤ 2 then maskOf (((s.part.requestMates r).map (fun (m : Remote) => m.lane)).eraseDups) else 2 ^ r.lane
     exec (.errorResponse id) s =
       .next (if s.part.vexTaken r then Rules.failed t r causeXlate lanes (r.pc % 2 ^ 32) causeProt else s))

/-- R363, R366, R367, R374, R392, R398, completion. FENCE_ACK counts for the release that waits for it. FLIT_CRC_ERROR replays a
flit, and starts training again after eight failed replays. LINK_TRAINED brings a port up with its class and what its far end is,
and step 5 of bring-up is complete with the last port that it waits for. LINK_DOWN of a port that has trained for 1 ms takes it
out of every route and fails its requests; one that never came up fails step 5 where the route table names it. HOST_LINK_ERROR is
told in the wake recorder. (Which requests end when a link goes down is the model's reading, log entry 37, and how step 5 ends log
entry 35.) -/
def Rules.linksRule : Prop :=
  ∀ (s : State) (i core id cls peer : Nat) (sw : Bool) (v : Word),
    let on (f : Port → Port) (p : Part) : Part := p.onMgmt (fun m => { m with ports := modifyNth m.ports i f })
    (∀ k ∈ s.part.core? core,
      let waits (x : Release) : Bool := x.id == id && x.fences.contains i
      let take (x : Release) : Release := if waits x then { x with fences := x.fences.filter (· != i) } else x
      let p := s.part.onCore core (fun k => { k with releases := k.releases.map take })
      exec (.fenceAck i core id) s = .next (if k.releases.any waits then
        { s with part := on (fun q => { q with fences := q.fences - 1, fails := 0 }) p } else s)) ∧
    (let replay (q : Port) : Port :=
       if q.up = false ∨ q.training.isSome = true then q
       else if 8 ≤ q.fails then { q with training := some s.part.now, fails := 0 }
       else { q with fails := q.fails + 1, retry := min 127 (q.retry + 1) }
     exec (.flitCrcError i) s = .next { s with part := on replay s.part }) ∧
    (let train (q : Port) : Port :=
       { q with up := true, cls := cls % 2 ^ 5, sw := sw, peer := if sw then 0 else peer % 2 ^ 12, retry := 0, fails := 0, training := none }
     exec (.linkTrained i cls sw peer) s = .next { s with part := (on train s.part).onMgmt (fun m => Rules.trains m s.part.now) }) ∧
    (let q := nth s.part.mgmt.ports i Port.reset
     let expired := q.training.any (fun t => decide (t + 4000000 ≤ s.part.now))
     (expired = false → exec (.linkDown i) s = .next s) ∧
     (q.up = false → expired = true →
       let failing (m : Mgmt) : Mgmt := { m with mcstat := m.mcstat ||| 0x80000000 }
       let fail (m : Mgmt) : Mgmt := if Rules.fifth m = true ∧ (∃ r ∈ m.routes, r.2 = i) then (failing m).setStep 5 else m
       let p := on (fun q => { q with training := none }) s.part
       let p := (p.onMgmt fail).onMgmt (fun m => { m with routes := m.routes.filter (fun r => r.2 != i) })
       exec (.linkDown i) s = .next { s with part := p }) ∧
     (q.up = true → expired = true →
       let p := on (fun q => { q with up := false, fences := 0 }) s.part
       let p := p.onMgmt (fun m => { m with routes := m.routes.filter (fun r => r.2 != i) })
       let drop (k : Core) : Core :=
         { k with releases := k.releases.map (fun (x : Release) => { x with fences := x.fences.filter (· != i) }),
                  portsDirty := k.portsDirty.filter (· != i) }
       let p := ({ p with cores := p.cores.map drop }).wakeEvent (i / 4) 4 (0x200 + i) (word i)
       let lost := p.mgmt.remotes.filter (fun r => r.port == some i && !(r.kind == 0 && r.pend.isNone && r.op != 0))
       let stands (s : State) (r : Remote) : Option Remote :=
         (s.part.remote? r.id).filter (fun r => !(r.kind == 0 && r.pend.isNone && r.op != 0))
       let fail (s : State) (r : Remote) : State :=
         ((stands s r).map (fun r => Rules.failed s r causeLinkDown i 0 causeEngTimeout)).getD s
       exec (.linkDown i) s = .next (lost.foldl fail { s with part := p }))) ∧
    (exec (.hostLinkError v) s = .next { s with part := s.part.wakeEvent 0 10 0x300 v })

end Sys2Proof

open Sys2Proof Sys2Proof.Machine in
/-- Answers and links: requestAnswersRule and linksRule, whose rules stand with them. -/
def Obligations.OutboundRequests : Prop :=
  Rules.requestAnswersRule ∧ Rules.linksRule

namespace Sys2Proof

open Machine

/-! ### The part as a whole, R5, R21, R22, R40 to R56, R230, R231, R317, R350, R397, R398 -/

end Sys2Proof

open Sys2Proof Sys2Proof.Machine in
/-- R5, R40 to R56: decoding and encoding agree. Every well-formed instruction, with every operand at every value its fields
admit, decodes from its own words, and from its own bytes with what follows them left over; and a word that decodes, with its
extension word where one is needed, is the encoding of the well-formed instruction it decodes to. -/
def Obligations.DecodeEncode : Prop :=
  (∀ i : Instr, wf i = true →
    decodeList (encode i) = .ok i ∧
      ∀ rest, decode ((encode i).flatMap (fun w => leBytes 4 w.toNat) ++ rest) = .ok (i, rest)) ∧
  (∀ (w x : Word) (i : Instr), decodeWords w x = .ok i →
    wf i = true ∧ encode i = if needsExt w then [w, x] else [w])


open Sys2Proof Sys2Proof.Machine in
/-- Every step answers a next state, and keeps the memory in its canonical form: addresses strictly rising, no byte listed
that an unlisted address reads as. -/
def Obligations.MemoryInvariant : Prop :=
  ∀ s : State, Memory.wf s.dram = true → StepsTo s (fun t => Memory.wf t.dram = true)


open Sys2Proof Sys2Proof.Machine in
/-- R28, R231, R317, R338, R397, R398, R402: the part right after reset. Memory is scrubbed to zero and in canonical form; no core
holds a workgroup, no microcode runs, no job, queue or launch exists, no key, window or route is set, MCSTAT is 0, PPOL has its
reset value, no register of the rings and counters is set. That device memory reads 0 where nothing has been written is the
model's choice before a scrub (log entry 39), and so are the zeros of registers for which the spec gives no reset value (log entry
3). -/
def Obligations.ResetState : Prop :=
  let s := State.reset
  Memory.wf s.dram = true ∧ (∀ a, s.dram.read a = 0) ∧ s.part.mgmt.mcstat = 0 ∧ s.part.mgmt.mbstat = 0 ∧ s.part.cox.run = false ∧
    s.part.cox.qtbase = 0 ∧ s.part.cox.dswr = 0 ∧ s.part.cox.dslost = 0 ∧ s.part.cox.queues = [] ∧ s.part.cox.launches = [] ∧
    s.part.cox.swapped = [] ∧ s.part.jobs = [] ∧ s.part.mgmt.keys = [] ∧ s.part.mgmt.routes = [] ∧ s.part.mgmt.contexts = [] ∧
    (∀ x ∈ s.part.mgmt.exports, x = none) ∧ s.part.cores.length = 256 ∧ s.part.dies.length = 4 ∧ s.part.clusters.length = 32 ∧
    (∀ k ∈ s.part.cores, (∀ g ∈ k.slots, g = none) ∧ k.l1 = [] ∧ k.ppol = 0x04E2109C ∧ (∀ n ∈ k.promo ++ k.demo, n = 0)) ∧
    (∀ d ∈ s.part.dies, d.copies = [] ∧ d.wrCount = 0 ∧ d.palarm = 0 ∧ ∀ w ∈ d.windows, w = none) ∧
    (∀ c ∈ s.part.clusters, c.trctl = 0 ∧ c.trlost = 0 ∧ c.buffer = [] ∧ c.offered = [])

namespace Sys2Proof

open Machine

/-- The issue of a warp that may issue: what comes before its turn is settled (a step under way, a command of the debug channel, a
warp of the workgroup that has waited too long on empty lines, the promotion of the holder of a lock), and the schedule names it.
-/
def Rules.issuing (s : State) (r : WarpRef) (rest : List Turn) (g : Wg) (w : Warp) (pc : Nat) : Prop :=
  s.stepReady = none ∧ s.debugNext = none ∧ s.part.sched = .issue r :: rest ∧ s.part.wg? r.core r.slot = some g ∧
    g.warps[r.warp]? = some w ∧
    g.dead = none ∧ g.swapping = none ∧ w.trapDue = false ∧ w.eligible s.part.now = true ∧ w.nextPc = some pc ∧
    (∀ x ∈ g.warps, x.skid = none ∧ Rules.waitedOut x = false) ∧
    { s.part with sched := rest, focus := r }.holderDue r = false

end Sys2Proof

open Sys2Proof Sys2Proof.Machine in
/-- R5, R40 to R42, R51, R55, R308, R335, R350: a step runs the instruction that the bytes at the PC decode to. With the
schedule's turn at a warp that may issue, none of its workgroup in its skid, the word at its PC, and the next one where an
extension is needed, fetched as four little-endian bytes of sound device memory that its job may execute, the pipe of the
instruction free, and no Y of the warp to honour, the step is exec of the instruction, with the turn off the schedule and the warp
at the focus; the herd warps with a pending Y that it goes before have given way, and lines leave the slices that have no room for
more (R308). A step at a turn that names an event is exec of the event. The schedule of turns is the model's own (log entry 2),
and so is which lines leave (log entry 43). -/
def Obligations.StepRunsDecoded : Prop :=
  (∀ (s : State) (r : WarpRef) (rest : List Turn) (g : Wg) (w : Warp) (pc loc loc2 : Nat) (i : Instr), Rules.issuing s r rest g w pc →
    s.translate g.job pc .fetch = .ok loc → isDevice loc = true → s.part.poisoned (lineOf loc) = false →
    let base := leWord (s.homeRead loc 4)
    (needsExt base = true →
      s.translate g.job (pc + 4) .fetch = .ok loc2 ∧ isDevice loc2 = true ∧ s.part.poisoned (lineOf loc2) = false) →
    let ext := if needsExt base then leWord (s.homeRead loc2 4) else 0
    decodeWords base ext = .ok i → s.part.pipeFree r.core (.instr i) = true →
    let u : State := { s with part := { s.part with sched := rest, focus := r } }
    let x : Fetched := .instr i
    u.yields r w x.uniform = false →
    step s = keepWays (Out.andThen (fun t => if w.sprint.isSome then t else u.gaveWay r x.uniform t) (exec i u))) ∧
  (∀ (s : State) (i : Instr) (rest : List Turn), s.stepReady = none → s.debugNext = none → s.part.sched = .event i :: rest →
    step s = keepWays (exec i { s with part := { s.part with sched := rest } }))

namespace Sys2Proof

open Machine

/-- R349, R350, R361, R404: the outcome of an access from the leaf of its address: not present with a reason, or, in this order,
denied by the permission, denied by the key, denied past device memory, and else the place in the page, in device memory under the
key slot of the leaf (log entry 34). -/
def Rules.outcome (s : State) (va : Nat) (acc : Access) : Except Nat (Nat × Nat) → Xlate
  | .error why => .absent why
  | .ok (leaf, span) =>
    let bits (hi lo : Nat) : Nat := leaf / 2 ^ lo % 2 ^ (hi + 1 - lo)
    let bit : Nat := match acc with
      | .read => 2
      | .write => 3
      | .atomic => 4
      | .fetch => 5
    if bits bit bit = 0 then .denied causeProt 0
    else if bits 63 53 ≠ 0 ∧ lookupKey (bits 63 53) s.part.mgmt.keys = none then .denied causeKeyBad (bits 63 53)
    else if bits 7 6 = 0 ∧ 4 * homeSpan < bits 51 8 * 256 + span then .denied causeProt 0
    else if bits 7 6 = 0 then .ok (2 ^ 52 * bits 63 53 + (bits 51 8 * 256 + va % span))
    else .ok (remoteLoc (bits 7 6) (bits 51 8 * 256 + va % span))

/-- R347, R351, R353: the leaf that a walk of the tables of a job gives an address, with the entries that a walk cache supplies
for the spans of the levels. -/
def Rules.tables (s : State) (held : Nat → Option Nat) (job va : Nat) : Except Nat (Nat × Nat) :=
  match s.part.mgmt.contexts.find? (fun t => t.job == job) with
  | none => .error 3
  | some t => if va < 2 ^ 57 then s.walk held va 0 tableLevels t.table else .error 1

/-- R351: what a walk cache may supply: for a span, an entry of levels 0 to 3 of the job over the address that is held. -/
def Rules.supplies (s : State) (job va : Nat) (held : Nat → Option Nat) : Prop :=
  ∀ n, ∀ pte ∈ held n, pte / 2 % 2 = 0 ∧ ∃ e ∈ s.part.tlb, e.job = job ∧ e.va ≤ va ∧ va < e.va + e.span ∧ e.span = n ∧ e.pte = pte

end Sys2Proof

open Sys2Proof Sys2Proof.Machine in
/-- R347 to R353: an access translates by a translation of the page that a TLB holds, or by a walk of the tables of its job, which
may take entries of levels 0 to 3 from the walk caches; a replay by the tables as they stand alone. The turn of a TLB and its walk
cache takes what a walk of an address reads: the leaf where it is present, and the entries above it. Which of what is held an
access uses is a free value, and when an entry is taken is the schedule's (log entry 43). -/
def Obligations.Translations : Prop :=
  ∀ (s : State) (job va : Nat) (acc : Access),
    s.retranslate job va acc = Rules.outcome s va acc (Rules.tables s (fun _ => none) job va) ∧
    ((∃ held, Rules.supplies s job va held ∧ s.translate job va acc = Rules.outcome s va acc (Rules.tables s held job va)) ∨
      ∃ e ∈ s.part.tlb, e.job = job ∧ e.va ≤ va ∧ va < e.va + e.span ∧ e.pte / 2 % 2 = 1 ∧
        s.translate job va acc = Rules.outcome s va acc (.ok (e.pte, e.span))) ∧
    (∀ t, s.holdLeaf job va = t → t.dram = s.dram ∧ t.part = { s.part with oracle := t.part.oracle, tlb := t.part.tlb } ∧
      ∃ held, Rules.supplies s job va held ∧ ∀ e, e ∈ t.part.tlb ↔ e ∈ s.part.tlb ∨
        ∃ pte span, e = ⟨job, va / span * span, span, pte⟩ ∧ (Rules.tables s held job va = .ok (pte, span) ∨
          (va < 2 ^ 57 ∧ ∃ x ∈ s.part.mgmt.contexts.find? (fun t => t.job == job),
            (span, pte) ∈ s.branches held va tableLevels x.table)))

namespace Sys2Proof

open Machine

/-- R22: "names": the first register and the number of registers of every field that holds v registers, and the tiles. -/
def Rules.fields22 (c : Ctx) : List (Bool × Nat × Nat) :=
  let s := c.parts.shape
  [(s.d, c.f.d, c.x.wd), (s.a, c.f.a, c.x.wa), (s.b, c.f.b, c.x.wb), (s.c, c.x.c, c.x.wc)].filterMap (fun u =>
    match u.1.file with
    | .v => some (true, u.2.1.toNat, u.1.count u.2.2)
    | .tile => some (false, u.2.1.toNat, 1)
    | _ => none)

/-- R22: a v register or a tile at or above the declared count traps PARTITION for the whole group, before any effect, with
the first register of the first field at fault (which of several fields is named is the model's choice, log entry 13); so does a v
register that an HREAD or HWRITE names as its item (R246), and SBCAST for a warp that the workgroup does not have (R166). An
instruction of a promoted warp traps no earlier than it retires: before that it is held (R150); that an instruction ahead of
retirement waits so is the model's reading (log entry 38). -/
def Rules.partitionTrapsRule : Prop :=
  ∀ (s : State) (i : Instr) (p : Parts) (c : Ctx), partsOf i = some p → s.ctx? p = some c →
    (c.heldFirst s = none → c.early = true → c.decodeTrap.isSome = true → exec i s = .next (c.held s 15)) ∧
    (Rules.atOnce c s →
    let outside (n : Bool × Nat × Nat) : Bool := decide ((if n.1 then c.g.nregs else c.g.ntiles) < n.2.1 + n.2.2)
    let trap (r : Nat) : Out := .next (s.raise c { cause := causePartition, lanes := some (maskOf c.group), info0 := r })
    (∀ n ∈ (Rules.fields22 c).find? outside, exec i s = trap n.2.1) ∧
    (let item := (c.x.m.extractLsb 7 0).toNat
     (∀ n ∈ Rules.fields22 c, outside n = false) → p.op = .hread ∨ p.op = .hwrite → item < 0x80 → c.g.nregs ≤ item % 64 →
      exec i s = trap (item % 64)) ∧
    ((∀ n ∈ Rules.fields22 c, outside n = false) → p.op = .sbcast → c.x.m.getLsbD 4 = false →
      c.g.warps.length ≤ (c.x.m.extractLsb 3 0).toNat → exec i s = trap (c.x.m.extractLsb 3 0).toNat))

/-! #### Traps of accesses and of formats, R33, R34, R93, R129 to R140 -/

/-- R280: the record of a format trap: the register of a v source or, for an index field, file 2; the format index, and the tag.
-/
def Rules.formatTrap (cause place index : Nat) (tag : Byte) : TrapInfo := { cause := cause, info0 := place + 256 * index, info1 := tag.toNat }

/-- R93: steps 1 and 4 for a format index that a field or a record gives. -/
def Rules.indexFails (e : Env) (i : Nat) (accepts : Entry → Bool) : Option TrapInfo :=
  let f := e.fmt.entry i
  if f.valid = false then some (Rules.formatTrap causeFmtIllegal 128 i (e.fmt.tagOf i))
  else if accepts f = false then some (Rules.formatTrap causeFmtMismatch 128 i (e.fmt.tagOf i)) else none

/-- R93: steps 1 to 3 for the tag of a v register. -/
def Rules.tagFails (e : Env) (l r : Nat) : Option TrapInfo :=
  let g := e.tag l r
  let f := e.fmt.entry (tagIndex g)
  let trap (cause : Nat) : Option TrapInfo := some (Rules.formatTrap cause (r % 64) (tagIndex g) g)
  if tagValid g = false ∨ f.valid = false then trap causeFmtIllegal else if tagGen g ≠ f.gen % 4 then trap causeFmtStale
  else if f.epw = 0 then trap causeFmtNotreg else none

/-- R93: step 4 for the tag of a v register. -/
def Rules.mismatch (e : Env) (l r : Nat) (bad : Bool) : Option TrapInfo :=
  if bad then some (Rules.formatTrap causeFmtMismatch (r % 64) (tagIndex (e.tag l r)) (e.tag l r)) else none

/-- R93, R102: the checks of a lane's sources, a's registers first, under the integer view (raw and integer kinds, width 01
exactly with EPW 15) or the float view (float kinds, equal tags). -/
def Rules.viewFails (e : Env) (c : Ctx) (float : Bool) (more : List Nat) (l : Nat) : Option TrapInfo :=
  let a := c.f.a.toNat
  let regs := groupRegs c.f.a c.x.wa ++ more
  let kind (r : Nat) : Nat := (e.fmt.entry (tagIndex (e.tag l r))).kind
  let wrong (r : Nat) : Bool := if float then kind r != kindFloat else kind r != kindInteger && kind r != kindRaw
  let pair := (e.fmt.entry (tagIndex (e.tag l a))).epw == 15
  (regs.findSome? (Rules.tagFails e l)).orElse (fun _ => (regs.findSome? (fun r => Rules.mismatch e l r (wrong r))).orElse (fun _ =>
    if float then regs.findSome? (fun r => Rules.mismatch e l r (e.tag l r != e.tag l a))
    else Rules.mismatch e l a (pair != (c.x.wa.toNat == 1))))

/-- R93, R102 to R104, R109 to R111: an integer or float instruction whose sources fail a check traps for the group with the first
failure, before any effect. That the lowest lane decides which failure is named is the model's choice (log entry 18). -/
def Rules.formatTrapsRule : Prop :=
  ∀ (s : State) (i : Instr) (c : Ctx), s.acts i = some c →
    let e := c.sees s
    (∀ q ∈ Rules.exact c.x fp32 0 0 0 c.parts.op,
      ∀ t ∈ e.acting.findSome? (Rules.viewFails e c false (Rules.further c q.1 q.2.1)), exec i s = .next ((c.counted s).raise c t)) ∧
    (∀ q ∈ Rules.float c.x fp32 0 0 0 c.parts.op,
      ∀ t ∈ e.acting.findSome? (Rules.viewFails e c true (Rules.further c q.1 q.2.1)), exec i s = .next ((c.counted s).raise c t))

/-- R31 to R33: the record at s(b), field by field, and the first check of it that fails under a permission bit of its word 1. -/
def Rules.recordFails (e : Env) (c : Ctx) (bit : Nat) : Option TrapInfo :=
  let b := c.f.b.toNat
  let w (k : Nat) : Nat := (e.s (b + k)).toNat
  let swz := w 3 / 2 ^ 21 % 16
  let odd := decide (w 3 / 2 ^ 25 ≠ 0 ∨ w 1 / 2 ^ 30 ≠ 0 ∨ 3 < swz ∨ 1 < w 1 / 2 ^ 28 % 4)
  let flat := decide (w 3 % 2 ^ 16 = 0 ∧ (e.fmt.entry (w 3 / 2 ^ 16 % 32)).kind ≠ kindBlock)
  let skew := decide (swz ≠ 0 ∧ (w 0 + 2 ^ 32 * (w 1 % 2 ^ 25)) % 2 ^ (9 + swz) ≠ 0)
  if odd || flat || skew then some { cause := causeBufBad, info0 := b }
  else if (e.s (b + 1)).getLsbD bit = false then some { cause := causeProt, info0 := maskOf c.group, info1 := 1 } else none

/-- R131 to R133, R136: the format tests of LD, ST, ATOM and RED, by the format index of the record. -/
def Rules.accessFormat (e : Env) (c : Ctx) (i : Nat) : Option TrapInfo :=
  let x := c.x
  let f := e.fmt.entry i
  let op := mBits x 7 4
  let wd := if c.parts.op = .red then none else some x.wd.toNat
  let widths (d k : Nat) : Bool := wd.all (· == d) && x.wc.toNat == k
  let cas := op == 7
  let sized := (f.epw == 1 && widths 0 (if cas then 1 else 0)) || (f.epw == 15 && widths 1 (if cas then 2 else 1)) ||
    (cas && f.epw == 1 && widths 2 3)
  let typed := if op = 6 ∨ op = 7 then f.epw == 1 || f.epw == 15
    else if 10 ≤ op then i == 3
    else (f.epw == 1 || f.epw == 15) && (f.kind == kindInteger || (decide (3 ≤ op ∧ op ≤ 5) && f.kind == kindRaw))
  let stored (g : Byte) : Bool := i == 0 || tagIndex g == i || (f.epw == 0 && tagIndex g == 0)
  match c.parts.op with
  | .ld =>
    if mBit x 7 then
      (if f.kind = kindBlock ∧ (e.s (c.f.b.toNat + 3)).toNat % 2 ^ 16 ≠ 0 then some { cause := causeBufBad, info0 := c.f.b.toNat }
        else Rules.indexFails e i (fun f => f.kind == kindFloat || f.kind == kindBlock))
    else if mBits x 6 5 ≠ 0 then none else Rules.indexFails e i (fun f => f.epw != 15 || x.wd != 0)
  | .st => e.acting.findSome? (fun l => (groupRegs x.c x.wc).findSome? (fun r => Rules.mismatch e l r (!stored (e.tag l r))))
  | _ => (Rules.indexFails e i (fun _ => typed && sized)).orElse (fun _ => if op < 10 then none else
      e.acting.findSome? (fun l => (Rules.tagFails e l x.c.toNat).orElse (fun _ => Rules.mismatch e l x.c.toNat (e.tag l x.c.toNat != tagFp32))))

/-- R34, R130: what a lane's access comes to: its address, whether it is in bounds, and the addresses of its granules. -/
structure Rules.Reach where
  lane : Nat
  address : Nat
  inside : Bool
  granules : List Nat

/-- R34, R130: the accesses of n bytes of some lanes at their indices under m. -/
def Rules.reach (e : Env) (c : Ctx) (m n : Nat) : List Rules.Reach :=
  let b := c.f.b.toNat
  let w (k : Nat) : Nat := (e.s (b + k)).toNat
  let extent := w 2
  let stride := w 3 % 2 ^ 16
  let swz := w 3 / 2 ^ 21 % 16
  let size := if stride = 0 then (extent + 255) / 256 * groupBytes (e.fmt.entry (w 3 / 2 ^ 16 % 32)) else extent * stride
  let swizzled (o : Nat) : Nat := if swz = 0 then o else o ^^^ (o / 2 ^ (6 + swz) % 8 * 16)
  let address (o : Nat) : Nat := w 0 + 2 ^ 32 * (w 1 % 2 ^ 25) + swizzled o
  e.acting.map (fun l =>
    let index := (e.v l c.f.a.toNat).toNat
    let o := index * stride + m
    ⟨l, address o, decide (index < extent ∧ o + n ≤ size),
      if n ≤ 16 then [address o] else (List.range ((n + 15) / 16)).map (fun k => address (o + 16 * k))⟩)

/-- R280: the trap of some lanes with the lowest of their addresses. -/
def Rules.laneFault (cause : Nat) (bad : List (Nat × Nat)) : Option TrapInfo :=
  ((bad.map (·.2)).min?).map (fun a => { cause := cause, addr := a, info0 := maskOf (bad.map (·.1)) })

/-- R129: misaligned lanes in bounds, then, under policy 0b00, lanes out of bounds. -/
def Rules.laneFails (e : Env) (c : Ctx) (align : Nat) (rs : List Rules.Reach) : Option TrapInfo :=
  let named (f : Rules.Reach → Bool) : List (Nat × Nat) := (rs.filter f).map (fun q => (q.lane, q.address))
  (Rules.laneFault causeMisalign (named (fun q => q.inside && q.address % align != 0))).orElse (fun _ =>
    if (e.s (c.f.b.toNat + 1)).toNat / 2 ^ 28 % 4 = 0 then Rules.laneFault causeOob (named (fun q => !q.inside)) else none)

/-- Bytes of a lane's access of LD, ST, ATOM or RED, and its offset. -/
def Rules.extentOf (e : Env) (c : Ctx) (i : Nat) : Nat × Nat :=
  let x := c.x
  let part (regs : Nat) : Nat := if mBits x 6 5 = 0 then 4 * regs else mBits x 6 5
  match c.parts.op with
  | .ld => (part (2 ^ x.wd.toNat), 4 * mBits x 4 0)
  | .st => (part (groupRegs x.c x.wc).length, 4 * mBits x 4 0)
  | _ => (if (e.fmt.entry i).epw = 15 then 8 else if mBits x 7 4 = 7 ∧ x.wc = 3 then 16 else 4, 4 * mBits x 3 0)

/-- R33, R34, R129 to R133, R136, R140, R241, R281: LD, ST, ATOM and RED with some participant trap, before any watch is evaluated
and with no effect, by the first check that fails: the record (BUF_BAD, PROT), the format, the alignment (MISALIGN), the bounds
(OOB). A lane in bounds with an address past 2^57 - 1 traps XLATE before the checks of the lanes; an ATOM or RED whose path does
not carry its operation traps PATH_ATOMIC, with nothing performed. (Decoding loads: the bounds alone, by their elements.) -/
def Rules.accessTrapsRule : Prop :=
  ∀ (s : State) (i : Instr) (c : Ctx), s.reaches i = some c → c.parts.op ∈ [Op.ld, .st, .atom, .red] →
    let e := c.env s
    let x := c.x
    let decoding := decide (c.parts.op = .ld) && mBit x 7
    let at_ := (e.s (c.f.b.toNat + 3)).toNat / 2 ^ 16 % 32
    let bit := if c.parts.op = .ld then 25 else if c.parts.op = .st then 26 else 27
    let size := Rules.extentOf e c at_
    let rs := Rules.reach e c size.2 size.1
    let checks := (Rules.recordFails e c bit).orElse (fun _ => Rules.accessFormat e c at_)
    let taken (t : TrapInfo) : Prop := exec i s = .next ((c.passSafePoint s).raise c t)
    let far := rs.filterMap (fun q => if q.inside then ((q.granules.filter (fun a => decide (2 ^ 57 ≤ a))).min?).map (fun a => (q.lane, a)) else none)
    e.acting ≠ [] →
      (∀ t ∈ checks, taken t) ∧
      (checks = none → decoding = false →
        (far = [] → ∀ t ∈ Rules.laneFails e c (min size.1 16) rs, taken t) ∧
        (∀ t ∈ Rules.laneFault causeXlate far, s.acts i = some c → exec i s = .next ((c.counted s).raise c t))) ∧
      (checks = none → decoding = true → (e.s (c.f.b.toNat + 1)).toNat / 2 ^ 28 % 4 = 0 →
        (∀ q ∈ ldLanes c.f x e (e.record c.f.b.toNat), q.at_.beyond = none) →
        let short (q : Rules.Reach) : Bool :=
          decide ((e.s (c.f.b.toNat + 2)).toNat < (e.v q.lane c.f.a.toNat).toNat + 2 ^ x.wd.toNat)
        ∀ t ∈ Rules.laneFault causeOob ((rs.filter short).map (fun q => (q.lane, q.address))), taken t) ∧
      (s.acts i = some c → checks = none → far = [] → Rules.laneFails e c (min size.1 16) rs = none →
        c.parts.op = .atom ∨ c.parts.op = .red →
        let op := mBits x 7 4
        let lanes := accessLanes e.fmt (e.record c.f.b.toNat) size.2 size.1 (fun l => (e.v l c.f.a.toNat).toNat) e.acting
        let plan := (c.counted s).plan c.g.job .atomic (Rules.pieces lanes)
        let cls := if op = 7 ∧ size.1 = 16 then 1 else if op = 0 ∨ op = 6 ∨ op = 7 then 0 else if 10 ≤ op then 3 else 2
        let cannot := plan.ok.filter (fun q => !((c.counted s).part.pathMask q.loc).testBit cls)
        ∀ l ∈ (cannot.map (fun q => q.piece.lane)).min?, ∀ q ∈ cannot.find? (fun q => q.piece.lane == l),
          exec i s = .next ((c.counted s).raise c { cause := causePathAtomic, addr := q.piece.va, info0 := l }))

/-- R134, R139: LDS, STS and ATOMS with some participant, their formats passed, trap with no effect by the first check that fails:
no such peer window (PROT), a misaligned lane, a lane past the window (OOB), and, of STS and ATOMS, one that meets the command
ring, the last 512 bytes (PROT). A format that fails traps first (R93, R106, R139), the lowest lane deciding (log entry 18). -/
def Rules.scratchTrapsRule : Prop :=
  ∀ (s : State) (i : Instr) (c : Ctx), s.acts i = some c → c.parts.op ∈ [Op.lds, .sts, .atoms] →
    let e := c.sees s
    let x := c.x
    let f := e.fmt.entry (mBits x 12 8)
    let op := mBits x 7 4
    let cas := op == 7
    let low := if cas then (groupRegs x.c x.wc).take (max 1 ((groupRegs x.c x.wc).length / 2)) else groupRegs x.c x.wc
    let c0 := x.c.toNat
    let entry (l r : Nat) : Entry := e.fmt.entry (tagIndex (e.tag l r))
    let reg (t : Entry) : Bool := t.epw == 1 || t.epw == 15
    let typed (t : Entry) : Bool := if op = 6 ∨ op = 7 then reg t else if 10 ≤ op then true
      else reg t && (t.kind == kindInteger || (decide (3 ≤ op ∧ op ≤ 5) && t.kind == kindRaw))
    let sized (t : Entry) : Bool :=
      (t.epw == 1 && x.wd == 0 && x.wc.toNat == cas.toNat) || (t.epw == 15 && x.wd == 1 && x.wc.toNat == 1 + cas.toNat) ||
        (cas && t.epw == 1 && x.wd == 2 && x.wc == 3)
    let type (l : Nat) : Option TrapInfo :=
      (low.findSome? (Rules.tagFails e l)).orElse (fun _ => (low.findSome? (fun r => Rules.mismatch e l r (!typed (entry l r)))).orElse
        (fun _ => Rules.mismatch e l c0 (!sized (entry l c0) || (decide (10 ≤ op) && tagIndex (e.tag l c0) != 3))))
    let format : Option TrapInfo :=
      if c.parts.op = .sts then none else if c.parts.op = .atoms then e.acting.findSome? type
      else if f.valid ∧ f.epw = 0 then some (Rules.formatTrap causeFmtNotreg 128 (mBits x 12 8) (e.fmt.tagOf (mBits x 12 8)))
      else Rules.indexFails e (mBits x 12 8) (fun f => mBits x 6 5 != 0 || f.epw != 15 || x.wd != 0)
    let part (regs : Nat) : Nat := if mBits x 6 5 = 0 then 4 * regs else mBits x 6 5
    let n := if c.parts.op = .atoms then 4 * 2 ^ x.wd.toNat
      else part (2 ^ (if c.parts.op = .lds then x.wd else x.wc).toNat)
    let off := 4 * (if c.parts.op = .atoms then mBits x 3 0 else mBits x 4 0)
    let ls := e.acting.map (fun l => (l, (e.v l c.f.a.toNat).toNat + off))
    let trap (t : TrapInfo) : Prop := exec i s = .next ((c.counted s).raise c t)
    let rank := (e.s c.f.b.toNat).toNat
    let none_ := uniformB x && (decide (c.g.cluster < 2) || decide (c.g.cluster ≤ rank))
    e.acting ≠ [] →
      (∀ t ∈ format, trap t) ∧
      (format = none → none_ = true → trap { cause := causeProt, info0 := maskOf e.acting }) ∧
      (format = none → none_ = false → ∀ win ∈ (if uniformB x then c.g.members[rank]? else some (c.ref.core, c.ref.slot)),
        let size := (((c.counted s).part.wg? win.1 win.2).map (·.scratch)).getD 0
        let fails := (Rules.laneFault causeMisalign (ls.filter (fun q => q.2 % min n 16 != 0))).orElse (fun _ =>
          (Rules.laneFault causeOob (ls.filter (fun q => decide (size < q.2 + n)))).orElse (fun _ =>
            if c.parts.op = .lds then none else Rules.laneFault causeProt (ls.filter (fun q => decide (size - 512 < q.2 + n)))))
        ∀ t ∈ fails, trap t)

end Sys2Proof

open Sys2Proof Sys2Proof.Machine in
/-- Where lane instructions trap by their formats and by their accesses: formatTrapsRule, accessTrapsRule and scratchTrapsRule,
whose rules stand with them. -/
def Obligations.AccessTraps : Prop :=
  Rules.formatTrapsRule ∧ Rules.accessTrapsRule ∧ Rules.scratchTrapsRule

namespace Sys2Proof

open Machine

/-- R231: the Read and Write columns of a control register: "T" trap mode, "U" both modes, "N" never; none unlisted. -/
def Rules.columns (n : Nat) : Option (Char × Char) :=
  let row (lo hi : Nat) (r w : Char) : Option (Char × Char) := if lo ≤ n ∧ n ≤ hi then some (r, w) else none
  [row 0 0 'T' 'N', row 1 3 'T' 'T', row 4 9 'T' 'N', row 10 13 'T' 'T', row 0x10 0x12 'U' 'U', row 0x100 0x1BF 'U' 'N',
    row 0x200 0x27F 'U' 'N', row 0x280 0x283 'U' 'T', row 0x284 0x284 'U' 'N', row 0x300 0x311 'U' 'T', row 0x320 0x342 'U' 'T',
    row 0x400 0x400 'U' 'N', row 0x402 0x403 'U' 'N', row 0x410 0x421 'U' 'N', row 0x430 0x436 'U' 'N'].findSome? id

/-- R55, R230, R231, R233: the checks of CSR_BAD and PRIV, in this order, for an instruction that passes PARTITION. A CSRR or CSRW
of a number that is not listed (either of a pair), and a set or clear of FSTAT, trap CSR_BAD with the number. In user mode RTE,
HREAD, HWRITE, HSTEP, HRES, a CSRR of a register whose Read column is T and a CSRW of one whose Write column is T trap PRIV, and a
CSRW of one that has no Write column in both modes. All for the whole group, at the instruction when it issues (R150), before any
effect. (That the checks come before a stop at a safe point is the model's choice, log entry 38.) -/
def Rules.privilegeTrapsRule : Prop :=
  ∀ (s : State) (i : Instr) (p : Parts) (c : Ctx), partsOf i = some p → s.ctx? p = some c → Rules.atOnce c s → c.declared = none →
    let n := (c.x.m.extractLsb 11 0).toNat
    let numbers := if p.op = .csrr ∧ c.x.wd = 1 then [n, n + 1] else [n]
    let isCsr := decide (p.op = .csrr) || decide (p.op = .csrw)
    let bad := isCsr && (numbers.any (fun n => (Rules.columns n).isNone) ||
      (decide (p.op = .csrw) && decide (n = 0x10) && decide ((c.x.m.extractLsb 13 12).toNat ≠ 0)))
    let words := p.words
    let priv : Out := .next (s.raise c { cause := causePriv, lanes := some (maskOf c.group), info0 := words.1, info1 := words.2 })
    let reads := p.op = .csrr ∧ numbers.any (fun n => (Rules.columns n).any (fun q => q.1 == 'T')) = true
    let writes (x : Char) : Prop := p.op = .csrw ∧ (Rules.columns n).any (fun q => q.2 == x) = true
    (bad = true → exec i s = .next (s.raise c { cause := causeCsrBad, lanes := some (maskOf c.group), info0 := n })) ∧
    (bad = false → c.w.trapMode = false →
      (p.op = .rte ∨ p.op = .hread ∨ p.op = .hwrite ∨ p.op = .hstep ∨ p.op = .hres ∨ reads ∨ writes 'T') → exec i s = priv) ∧
    (bad = false → writes 'N' → exec i s = priv)

/-- R56, R150, R281: ILLEGAL_WORD is held while its warp waits for a place in the operand log, for its mask or at a safe point,
and, on the sprinter, for what is before it to retire. That it is held so is the model's reading (log entry 38). -/
def Rules.illegalHeldRule : Prop :=
  ∀ (s : State) (w : Word) (c : Ctx), s.ctx? ⟨.nop, ⟨false, false, 0, 0, 0, 0, false⟩, .short⟩ = some c →
    (∀ why ∈ c.heldFirst s, exec (.illegalWord w) s = .next (c.held s why)) ∧
    (c.early = true → ∃ why, exec (.illegalWord w) s = .next (c.held s why))

end Sys2Proof

open Sys2Proof Sys2Proof.Machine in
/-- The checks after decoding, before a body: illegalHeldRule, partitionTrapsRule and privilegeTrapsRule, whose rules stand with
them. -/
def Obligations.DecodeTraps : Prop :=
  Rules.illegalHeldRule ∧ Rules.partitionTrapsRule ∧ Rules.privilegeTrapsRule

namespace Sys2Proof

open Machine

/-- The instructions whose whole effect is on registers of their own warp and on where its threads stand. -/
def Rules.registerOps : List Op :=
  [.nop, .iadd, .isub, .imul, .imad, .iminmax, .iabs, .and, .or, .xor, .andn, .shl, .shr, .shf, .popc, .clz, .brev, .bfx, .bfi, .mov,
    .movi, .sel, .iaddi, .iset, .fset, .plop, .fadd, .fmul, .ffma, .fminmax, .frcp, .frsq, .fsqrt, .fexp2, .flog2, .fsin, .fcos,
    .ftanh, .frnd, .fdot, .cvt, .tagset, .tagget, .qblk, .shfl, .vote, .matchLanes, .elect, .redux, .s2v, .bra, .brc, .call, .brx, .ret,
    .snop, .sadd, .ssub, .smul, .smad, .sminmax, .sand, .sor, .sxor, .sshl, .sshr, .sset, .ssel, .smov, .smovi, .saddi, .s2s, .v2s,
    .sbra, .sbrc, .bufmk, .bufset]

/-- R48 to R54, R125, frame: what a register instruction leaves unchanged when it acts, with no watch enabled on its core. Memory,
the caches and slices, the scratchpads, every other core, workgroup and warp, jobs, the cox and the management controller are as
before, up to the trace buffer and the sample that a marked safe point feeds. Where it does not trap, of the workgroup only the
warp changes; the registers, flags, masks and trap registers of the warp hold what they held, and the one outstanding write that
the issue adds is to registers of the fields the instruction writes, in lanes that act, but for p7 and q7, which take no value. -/
def Rules.registerFrameRule : Prop :=
  ∀ (s : State) (i : Instr) (c : Ctx), s.acts i = some c → Rules.registerOps.contains c.parts.op = true →
    s.part.stepping c.ref = false → c.g.dead = none → ∀ k ∈ s.part.core? c.ref.core, (∀ d ∈ k.oldPreds.getD k.preds, d.enabled = false) →
    ∀ t, exec i s = .next t →
      t.dram = s.dram ∧ t.part = { s.part with oracle := t.part.oracle, cores := t.part.cores, clusters := t.part.clusters } ∧
      (∀ a, t.homeByte a = s.homeByte a) ∧
      (∀ j, j ≠ c.ref.core → t.part.cores[j]? = s.part.cores[j]?) ∧
      ∀ k' ∈ t.part.core? c.ref.core,
        k' = { k with slots := k'.slots, pipes := k'.pipes, went := k'.went, sample := k'.sample } ∧
        (∀ j, j ≠ c.ref.slot → k'.slots[j]? = k.slots[j]?) ∧
        ∀ g' ∈ t.part.wg? c.ref.core c.ref.slot, ∀ w' ∈ t.part.warp? c.ref, g'.dead = none →
          w'.trapMode = c.w.trapMode → w'.skid = c.w.skid →
          g' = { c.g with warps := g'.warps } ∧
          (∀ j, j ≠ c.ref.warp → g'.warps[j]? = c.g.warps[j]?) ∧
          w'.threads.map (fun x => (x.v, x.tags, x.p)) = c.w.threads.map (fun x => (x.v, x.tags, x.p)) ∧
          (w'.s = c.w.s ∧ w'.q = c.w.q ∧ w'.fstat = c.w.fstat ∧ w'.ften = c.w.ften ∧ w'.hchk = c.w.hchk ∧ w'.tcause = c.w.tcause ∧
            w'.tlanes = c.w.tlanes ∧ w'.tepc = c.w.tepc ∧ w'.taddr = c.w.taddr ∧ w'.tinfo0 = c.w.tinfo0 ∧ w'.tinfo1 = c.w.tinfo1 ∧
            w'.tsave = c.w.tsave ∧ w'.tqueue = c.w.tqueue ∧ w'.lock = c.w.lock) ∧
          (∀ e ∈ w'.pend, (∀ e' ∈ c.w.pend, e'.id ≠ e.id) → ∀ l ∈ e.lanes, ∀ r ∈ l.targets,
            r = .p 7 ∨ r = .q 7 ∨ (l.lane, r) ∈ c.writesOf (c.acting s.part.oracle))

/-- R52, R54, R97, frame: RESULT_COMMIT of a result that may commit and that no format predicate is to see. A register of a thread
that has not exited gets the last of the values that the result holds for it, with its tag; every other register of every thread
and of the warp, and every other warp, keeps its value; FSTAT gains the flags of the result. -/
def Rules.commitFrameRule : Prop :=
  ∀ (s : State) (r : WarpRef), ∀ w ∈ s.part.warp? r, ∀ e ∈ w.pend, Rules.mayCommit w s.part.now e = true →
    e.raised = [] →
    (∀ e' ∈ w.pend, e'.id = e.id → e' = e) →
    ∃ t, exec (.resultCommit r e.id) s = .next t ∧ t.dram = s.dram ∧
      (∀ a, t.homeByte a = s.homeByte a) ∧
      (∀ r', r' ≠ r → t.part.warp? r' = s.part.warp? r') ∧
      ∀ w' ∈ t.part.warp? r,
        let given (lane : Nat) (x : Target) : Option (Word × Byte) :=
          (((e.lanes.filter (fun l => l.lane == lane && l.known)).flatMap PendLane.writes).filter (fun q => q.1 == x)).getLast?.map (·.2)
        w'.fstat = w.fstat ||| e.flags ∧ w'.ften = w.ften ∧ w'.tepc = w.tepc ∧ w'.trapMode = w.trapMode ∧
        (∀ n, n < w.s.length → w'.s[n]? = ((given 32 (.s n)).map (·.1)).or w.s[n]?) ∧
        (∀ n, n < 7 → n < w.q.length → w'.q[n]? = ((given 32 (.q n)).map (fun v => v.1 != 0)).or w.q[n]?) ∧
        ∀ l, ∀ t ∈ w.threads[l]?, l < 32 → ∃ t', w'.threads[l]? = some t' ∧ t'.pc = t.pc ∧ t'.st = t.st ∧
          (∀ n, n < 7 → n < t.p.length →
            t'.p[n]? = (if t.isExited then none else (given l (.p n)).map (fun v => v.1 != 0)).or t.p[n]?) ∧
          ∀ n, n < t.v.length → n < t.tags.length →
            t'.v[n]? = (if t.isExited then none else (given l (.v n)).map (·.1)).or t.v[n]? ∧
            t'.tags[n]? = (if t.isExited then none else (given l (.v n)).map (·.2)).or t.tags[n]?

end Sys2Proof

open Sys2Proof Sys2Proof.Machine in
/-- What a register instruction leaves unchanged when it issues and when its result commits: registerFrameRule and
commitFrameRule. -/
def Obligations.RegisterFrame : Prop :=
  Rules.registerFrameRule ∧ Rules.commitFrameRule


open Sys2Proof Sys2Proof.Machine in
/-- R40, R43, R56, R57, R131, R233 and the opcode maps: words written out from the spec decode to the instructions they stand
for. R109, R113: FADD of the FP16 elements 65,504 and 2^-14, and 1.0 and 2^-24, rounded to nearest and up; CVT of 1.0, -500.0,
0.01 and NaN from FP32 to E4M3. -/
def Obligations.SpecExamples : Prop :=
  let entry (w0 w1 : Word) : Entry := ⟨w0, w1, 0, 0⟩
  let fp16 := entry 0x80482962 0x8000000F
  let e4m3 := entry 0x82840D22 0x80000007
  let fp32 := entry 0x80305E22 0x8000007F
  let rm (n : Nat) : Ext := ⟨0, false, 7, 0, 0, 0, 0, BitVec.ofNat 14 (2 ^ 10 * n)⟩
  let fadd (n a b : Nat) : Option (Nat × Flags) := (Rules.float (rm n) fp16 a b 0 .fadd).map (·.2.2)
  let cvt (a : Nat) : Nat × Flags := rounded (rm 1) e4m3 (decodeCode fp32 a, 0)
  let base (op : Nat) (d a b : Nat) (l : Nat) : Word := word (2 ^ 20 * op + 2 ^ 14 * d + 2 ^ 8 * a + 4 * b + l)
  let f (d a b : BitVec 6) : Base := ⟨false, false, 0, d, a, b, false⟩
  let x (c : BitVec 6) (wd wa wb wc : BitVec 2) (m : BitVec 14) : Ext := ⟨c, false, 7, wd, wa, wb, wc, m⟩
  decodeWords 0 0 = .ok (.nop (f 0 0 0)) ∧
  decodeWords 0xFFFFFFFF 0 = .ok (.illegalWord 0xFFFFFFFF) ∧
  decodeWords (base 0x01 5 6 7 0) 0 = .ok (.iadd (f 5 6 7)) ∧
  decodeWords 0x04020111 0x01D20B04 = .ok (.ld (f 8 1 4) (x 0 1 0 2 0 0x0B04)) ∧
  decodeWords 0x85A14001 0x01C00010 = .ok (.csrr (f 5 0 0) (x 0 0 0 0 0 0x10)) ∧
  decodeWords (base 0x15 1 2 3 1) 0x11C000F0 = .ok (.plop (f 1 2 3) (x 4 0 0 0 0 0xF0)) ∧
  decodeWords (base 0x30 5 6 0 0) 0 = .ok (.tagget (f 5 6 0)) ∧
  decodeWords (base 0x60 0 0 4 0) 0 = .ok (.bra (f 0 0 4)) ∧
  decodeWords (base 0x60 0 0 0 1) 0xFFFFFFFC = .ok (.braLong (f 0 0 0) 0xFFFFFFFC) ∧
  decodeWords (base 0x66 0 0 0 0) 0 = .ok (.yield (f 0 0 0)) ∧
  decodeWords (word (2 ^ 31) + base 0x29 3 0 0 1) 0x01C00003 = .ok (.tzero (f 3 0 0) (x 0 0 0 0 0 3)) ∧
  decodeWords (word (2 ^ 31) + base 0x42 4 2 0 1) 0x05D00000 = .ok (.mprobe (f 4 2 0) (x 1 1 0 0 0 0)) ∧
  fadd 1 0x7BFF 0x0400 = some (0x7BFF, flagNX) ∧ fadd 1 0x3C00 0x0001 = some (0x3C00, flagNX) ∧
  fadd 4 0x7BFF 0x0400 = some (0x7C00, flagOF ||| flagNX) ∧ fadd 4 0x3C00 0x0001 = some (0x3C01, flagNX) ∧
  cvt 0x3F800000 = (0x38, 0) ∧ cvt 0xC3FA0000 = (0xFE, flagOF ||| flagST ||| flagNX) ∧
  cvt 0x3C23D70A = (0x05, flagNX ||| flagUF) ∧ cvt 0x7FC00000 = (0x7F, 0)

namespace Sys2Proof

open Machine

/-- Bytes of device memory that the issue of a store names: location and length of each piece of the lanes in bounds whose
line translates, as the store computes them. No other access stores at its issue. -/
def Rules.stored (s : State) (c : Ctx) : List (Nat × Nat) :=
  if c.parts.op = .st then
    let e := c.sees s
    let r := e.record c.f.b.toNat
    let n := accessBytes (mBits c.x 6 5) (groupRegs c.x.c c.x.wc).length
    let lanes := accessLanes e.fmt r (byteOff c.x 4 0) n (fun l => (e.v l c.f.a.toNat).toNat) e.acting
    ((c.counted s).plan c.g.job .write (Rules.pieces lanes)).ok.map (fun q => (q.loc, q.piece.len))
  else []

/-- Scratchpad bytes that the issue of STS or ATOMS names: core, first byte and length in its rows. -/
def Rules.storedRows (s : State) (c : Ctx) : List (Nat × Nat × Nat) :=
  let e := c.sees s
  let n := if c.parts.op = .sts then accessBytes (mBits c.x 6 5) (groupRegs c.x.c c.x.wc).length else 4 * (groupRegs c.f.d c.x.wd).length
  let off := byteOff c.x (if c.parts.op = .sts then 4 else 3) 0
  match c.window (uniformB c.x) (e.s c.f.b.toNat).toNat with
  | none => []
  | some win =>
    if c.parts.op = .sts ∨ c.parts.op = .atoms then
      (spadLanes e c.f.a.toNat off).map (fun l => (win.1, ((s.part.wg? win.1 win.2).map (·.base)).getD 0 + l.at_, n))
    else []

end Sys2Proof

open Sys2Proof Sys2Proof.Machine in
/-- R131 to R138, R312, frame: what the issue of LD, ST, ATOM, RED, LDS, STS or ATOMS leaves unchanged, with no watch enabled on
its core. Every byte of device memory at its home, but on a line of a forward window that the core reads for the first time as its
consumer, and in the L1 of the core, where it still holds it, but those that ST stores to;
every byte of every scratchpad but those that STS or ATOMS stores to; the L1 of every other core; every register, flag and mask of
every other warp; and, where it does not trap, every register, predicate, flag and mask of its own warp, whose destinations get
their values when the result commits. -/
def Obligations.AccessFrame : Prop :=
  ∀ (s : State) (i : Instr) (c : Ctx), s.acts i = some c → c.parts.op ∈ [Op.ld, .st, .atom, .red, .lds, .sts, .atoms] →
    s.part.stepping c.ref = false → c.g.dead = none → ∀ k ∈ s.part.core? c.ref.core, (∀ d ∈ k.oldPreds.getD k.preds, d.enabled = false) →
    ∀ t, exec i s = .next t →
      let kept (x : Warp) := (x.threads.map (fun x => (x.v, x.tags, x.p)), x.s, x.q, x.fstat, x.ften, x.hchk, x.tsave)
      t.dram = s.dram ∧
      (∀ a, (∀ q ∈ Rules.stored s c, a < q.1 ∨ q.1 + q.2 ≤ a) →
        (s.part.consumes c.ref.core (lineOf a) = false → t.homeByte a = s.homeByte a) ∧
        ∀ k' ∈ t.part.core? c.ref.core, k'.l1Byte a = none ∨ k'.l1Byte a = k.l1Byte a) ∧
      (∀ j, ∀ x ∈ s.part.core? j, ∀ y ∈ t.part.core? j, (j ≠ c.ref.core → y.l1 = x.l1) ∧
        ∀ a, (∀ q ∈ Rules.storedRows s c, j ≠ q.1 ∨ a < q.2.1 ∨ q.2.1 + q.2.2 ≤ a) → y.spadByte a = x.spadByte a) ∧
      (∀ r', r' ≠ c.ref → (t.part.warp? r').map kept = (s.part.warp? r').map kept) ∧
      ∀ g' ∈ t.part.wg? c.ref.core c.ref.slot, ∀ w' ∈ t.part.warp? c.ref, g'.dead = none →
          w'.trapMode = c.w.trapMode → w'.skid = c.w.skid →
        kept w' = kept c.w ∧ w'.tepc = c.w.tepc ∧ w'.tqueue = c.w.tqueue ∧ w'.lock = c.w.lock ∧
        ∀ e ∈ w'.pend, (∀ e' ∈ c.w.pend, e'.id ≠ e.id) → ∀ l ∈ e.lanes, ∀ r ∈ l.targets,
          (l.lane, r) ∈ c.writesOf (c.acting s.part.oracle)
end

