-- ==== Sys2Proof/Laws/Exec.lean ====
section
/-! SUPPORT. What exec does with an instruction that acts: every instruction of a program is one issue of the act of
its opcode. -/

namespace Sys2Proof.Machine

/-- The act of an instruction. -/
def actOf (p : Parts) : Ctx → State → Act :=
  match p.op with
  | .nop => laneAct (bodyNop p.base p.ext)
  | .iadd => laneAct (bodyIadd p.base p.ext)
  | .isub => laneAct (bodyIsub p.base p.ext)
  | .imul => laneAct (bodyImul p.base p.ext)
  | .imad => laneAct (bodyImad p.base p.ext)
  | .iminmax => laneAct (bodyIminmax p.base p.ext)
  | .iabs => laneAct (bodyIabs p.base p.ext)
  | .and => laneAct (bodyAnd p.base p.ext)
  | .or => laneAct (bodyOr p.base p.ext)
  | .xor => laneAct (bodyXor p.base p.ext)
  | .andn => laneAct (bodyAndn p.base p.ext)
  | .shl => laneAct (bodyShl p.base p.ext)
  | .shr => laneAct (bodyShr p.base p.ext)
  | .shf => laneAct (bodyShf p.base p.ext)
  | .popc => laneAct (bodyPopc p.base p.ext)
  | .clz => laneAct (bodyClz p.base p.ext)
  | .brev => laneAct (bodyBrev p.base p.ext)
  | .bfx => laneAct (bodyBfx p.base p.ext)
  | .bfi => laneAct (bodyBfi p.base p.ext)
  | .iset => laneAct (bodyIset p.base p.ext)
  | .sel => laneAct (bodySel p.base p.ext)
  | .plop => laneAct (bodyPlop p.base p.ext)
  | .mov => laneAct (bodyMov p.base p.ext)
  | .movi => laneAct (bodyMovi p.base p.imm)
  | .iaddi => laneAct (bodyIaddi p.base p.imm)
  | .fadd => laneAct (bodyFadd p.base p.ext)
  | .fmul => laneAct (bodyFmul p.base p.ext)
  | .ffma => laneAct (bodyFfma p.base p.ext)
  | .fminmax => laneAct (bodyFminmax p.base p.ext)
  | .fset => laneAct (bodyFset p.base p.ext)
  | .frcp => laneAct (bodyFrcp p.base p.ext)
  | .frsq => laneAct (bodyFrsq p.base p.ext)
  | .fsqrt => laneAct (bodyFsqrt p.base p.ext)
  | .fexp2 => laneAct (bodyFexp2 p.base p.ext)
  | .flog2 => laneAct (bodyFlog2 p.base p.ext)
  | .fsin => laneAct (bodyFsin p.base p.ext)
  | .fcos => laneAct (bodyFcos p.base p.ext)
  | .ftanh => laneAct (bodyFtanh p.base p.ext)
  | .cvt => laneAct (bodyCvt p.base p.ext)
  | .frnd => laneAct (bodyFrnd p.base p.ext)
  | .tagset => laneAct (bodyTagset p.base p.ext)
  | .tagget => laneAct (bodyTagget p.base p.ext)
  | .qblk => laneAct (bodyQblk p.base p.ext)
  | .fdot => laneAct (bodyFdot p.base p.ext)
  | .shfl => laneAct (bodyShfl p.base p.ext)
  | .vote => laneAct (bodyVote p.base p.ext)
  | .matchLanes => laneAct (bodyMatchLanes p.base p.ext)
  | .redux => laneAct (bodyRedux p.base p.ext)
  | .elect => laneAct (bodyElect p.base p.ext)
  | .s2v => bodyS2v p.base p.ext
  | .conv => bodyConv p.base p.ext
  | .ld => bodyLd p.base p.ext
  | .st => bodySt p.base p.ext
  | .lds => bodyLds p.base p.ext
  | .sts => bodySts p.base p.ext
  | .atom => bodyAtom p.base p.ext
  | .atoms => bodyAtoms p.base p.ext
  | .red => bodyRed p.base p.ext
  | .stmc => bodyStmc p.base p.ext
  | .pref => bodyPref p.base p.ext
  | .discard => bodyDiscard p.base p.ext
  | .flush => bodyFlush p.base p.ext
  | .fence => bodyFence p.base p.ext
  | .lock => bodyLock p.base p.ext
  | .unlock => bodyUnlock p.base p.ext
  | .bra => if p.isImm then bodyBraLong p.base p.imm else bodyBra p.base p.ext
  | .brc => if p.isImm then bodyBrcLong p.base p.imm else bodyBrc p.base p.ext
  | .brx => bodyBrx p.base p.ext
  | .call => bodyCall p.base p.imm
  | .ret => bodyRet p.base p.ext
  | .exit => bodyExit p.base p.ext
  | .yield => bodyYield p.base p.ext
  | .nsleep => bodyNsleep p.base p.ext
  | .bkpt => bodyBkpt p.base p.ext
  | .trapl => bodyTrapl p.base p.ext
  | .snop => bodySnop p.base p.ext
  | .sadd => bodySadd p.base p.ext
  | .ssub => bodySsub p.base p.ext
  | .smul => bodySmul p.base p.ext
  | .smad => bodySmad p.base p.ext
  | .sminmax => bodySminmax p.base p.ext
  | .sand => bodySand p.base p.ext
  | .sor => bodySor p.base p.ext
  | .sxor => bodySxor p.base p.ext
  | .sshl => bodySshl p.base p.ext
  | .sshr => bodySshr p.base p.ext
  | .sset => bodySset p.base p.ext
  | .ssel => bodySsel p.base p.ext
  | .smov => bodySmov p.base p.ext
  | .smovi => bodySmovi p.base p.imm
  | .saddi => bodySaddi p.base p.imm
  | .s2s => bodyS2s p.base p.ext
  | .v2s => bodyV2s p.base p.ext
  | .sbcast => bodySbcast p.base p.ext
  | .sbra => if p.isImm then bodySbraLong p.base p.imm else bodySbra p.base p.ext
  | .sbrc => if p.isImm then bodySbrcLong p.base p.imm else bodySbrc p.base p.ext
  | .bar => bodyBar p.base p.ext
  | .bufmk => bodyBufmk p.base p.ext
  | .bufset => bodyBufset p.base p.ext
  | .layout => bodyLayout p.base p.ext
  | .mma => tileAct planMma
  | .tzero => tileAct planTzero
  | .tld => tileAct planTld
  | .tst => tileAct planTst
  | .tred => tileAct planTred
  | .tscal => tileAct planTscal
  | .topk => tileAct planTopk
  | .tmov => tileAct planTmov
  | .cpy => actCopy
  | .cpyo => actCopy
  | .cpym => actCpym
  | .cpyc => actCopy
  | .cpyr => actCpyr
  | .tlwait => bodyTlwait p.base p.ext
  | .tlget => bodyTlget p.base p.ext
  | .femark => bodyFemark p.base p.ext
  | .fefill => bodyFefill p.base p.ext
  | .tbinit => bodyTbinit p.base p.ext
  | .tbexp => bodyTbexp p.base p.ext
  | .tbarv => bodyTbarv p.base p.ext
  | .tbwait => bodyTbwait p.base p.ext
  | .catchOp => bodyCatch p.base p.ext
  | .send => bodySend p.base p.ext
  | .recvp => bodyRecvp p.base p.ext
  | .mprobe => bodyMprobe p.base p.ext
  | .lrec => bodyLrec p.base p.ext
  | .launch => bodyLaunch p.base p.ext
  | .cwait => bodyCwait p.base p.ext
  | .cget => bodyCget p.base p.ext
  | .cancel => bodyCancel p.base p.ext
  | .trap => bodyTrap p.base p.ext
  | .rte => bodyRte p.base p.ext
  | .csrr => bodyCsrr p.base p.ext
  | .csrw => bodyCsrw p.base p.ext
  | .fmtset => bodyFmtset p.base p.ext
  | .fmtget => bodyFmtget p.base p.ext
  | .cpdset => bodyCpdset p.base p.ext
  | .wpset => bodyWpset p.base p.ext
  | .wpctl => bodyWpctl p.base p.ext
  | .hread => bodyHread p.base p.ext
  | .hwrite => bodyHwrite p.base p.ext
  | .hstep => bodyHstep p.base p.ext
  | .hres => bodyHres p.base p.ext
  | .dumpq => bodyDumpq p.base p.ext

/-- Every instruction with parts is one issue of its act. -/
theorem exec_issue {i : Instr} {p : Parts} (h : partsOf i = some p) (s : State) : exec i s = issue p s (actOf p) := by
  cases i <;> first | (cases h; rfl) | cases h

end Sys2Proof.Machine
end

