-- ==== Sys2Proof/Laws/State.lean ====
section
/-! SUPPORT. What each change of the state leaves in each field, so that no proof unfolds a record update. -/

namespace Sys2Proof.Machine

/-! ### Changes of a part -/

@[simp] theorem Part.onCore_now (p : Part) (i : Nat) (h : Core → Core) : (p.onCore i h).now = p.now := rfl
@[simp] theorem Part.onCore_focus (p : Part) (i : Nat) (h : Core → Core) : (p.onCore i h).focus = p.focus := rfl
@[simp] theorem Part.onCore_oracle (p : Part) (i : Nat) (h : Core → Core) : (p.onCore i h).oracle = p.oracle := rfl
@[simp] theorem Part.onCore_sched (p : Part) (i : Nat) (h : Core → Core) : (p.onCore i h).sched = p.sched := rfl
@[simp] theorem Part.onCore_stepReq (p : Part) (i : Nat) (h : Core → Core) : (p.onCore i h).stepReq = p.stepReq := rfl
@[simp] theorem Part.onCore_debugQueue (p : Part) (i : Nat) (h : Core → Core) : (p.onCore i h).debugQueue = p.debugQueue := rfl
@[simp] theorem Part.onCore_cores (p : Part) (i : Nat) (h : Core → Core) : (p.onCore i h).cores = modifyNth p.cores i h := rfl
@[simp] theorem Part.onCore_dies (p : Part) (i : Nat) (h : Core → Core) : (p.onCore i h).dies = p.dies := rfl
@[simp] theorem Part.onCore_clusters (p : Part) (i : Nat) (h : Core → Core) : (p.onCore i h).clusters = p.clusters := rfl
@[simp] theorem Part.onCore_tbUpdates (p : Part) (i : Nat) (h : Core → Core) : (p.onCore i h).tbUpdates = p.tbUpdates := rfl
@[simp] theorem Part.onCore_reports (p : Part) (i : Nat) (h : Core → Core) : (p.onCore i h).reports = p.reports := rfl
@[simp] theorem Part.onCore_comparators (p : Part) (i : Nat) (h : Core → Core) : (p.onCore i h).comparators = p.comparators := rfl
@[simp] theorem Part.onCore_tailWords (p : Part) (i : Nat) (h : Core → Core) : (p.onCore i h).tailWords = p.tailWords := rfl
@[simp] theorem Part.onCore_tlb (p : Part) (i : Nat) (h : Core → Core) : (p.onCore i h).tlb = p.tlb := rfl
@[simp] theorem Part.onCore_jobs (p : Part) (i : Nat) (h : Core → Core) : (p.onCore i h).jobs = p.jobs := rfl
@[simp] theorem Part.onCore_cox (p : Part) (i : Nat) (h : Core → Core) : (p.onCore i h).cox = p.cox := rfl
@[simp] theorem Part.onCore_mgmt (p : Part) (i : Nat) (h : Core → Core) : (p.onCore i h).mgmt = p.mgmt := rfl
@[simp] theorem Part.onCore_reply (p : Part) (i : Nat) (h : Core → Core) : (p.onCore i h).reply = p.reply := rfl
@[simp] theorem Part.onCore_replyError (p : Part) (i : Nat) (h : Core → Core) : (p.onCore i h).replyError = p.replyError := rfl
@[simp] theorem Part.onCore_answers (p : Part) (i : Nat) (h : Core → Core) : (p.onCore i h).answers = p.answers := rfl
@[simp] theorem Part.onCore_msix (p : Part) (i : Nat) (h : Core → Core) : (p.onCore i h).msix = p.msix := rfl
@[simp] theorem Part.onCore_sealed (p : Part) (i : Nat) (h : Core → Core) : (p.onCore i h).sealed = p.sealed := rfl
@[simp] theorem Part.onCore_heldWrites (p : Part) (i : Nat) (h : Core → Core) : (p.onCore i h).heldWrites = p.heldWrites := rfl
@[simp] theorem Part.onCore_nextCommand (p : Part) (i : Nat) (h : Core → Core) : (p.onCore i h).nextCommand = p.nextCommand := rfl
@[simp] theorem Part.onWg_now (p : Part) (i j : Nat) (h : Wg → Wg) : (p.onWg i j h).now = p.now := rfl
@[simp] theorem Part.onWg_focus (p : Part) (i j : Nat) (h : Wg → Wg) : (p.onWg i j h).focus = p.focus := rfl
@[simp] theorem Part.onWg_oracle (p : Part) (i j : Nat) (h : Wg → Wg) : (p.onWg i j h).oracle = p.oracle := rfl
@[simp] theorem Part.onWg_sched (p : Part) (i j : Nat) (h : Wg → Wg) : (p.onWg i j h).sched = p.sched := rfl
@[simp] theorem Part.onWg_stepReq (p : Part) (i j : Nat) (h : Wg → Wg) : (p.onWg i j h).stepReq = p.stepReq := rfl
@[simp] theorem Part.onWg_debugQueue (p : Part) (i j : Nat) (h : Wg → Wg) : (p.onWg i j h).debugQueue = p.debugQueue := rfl
@[simp] theorem Part.onWg_cores (p : Part) (i j : Nat) (h : Wg → Wg) : (p.onWg i j h).cores = modifyNth p.cores i (fun k => k.onWg j h) := rfl
@[simp] theorem Part.onWg_dies (p : Part) (i j : Nat) (h : Wg → Wg) : (p.onWg i j h).dies = p.dies := rfl
@[simp] theorem Part.onWg_clusters (p : Part) (i j : Nat) (h : Wg → Wg) : (p.onWg i j h).clusters = p.clusters := rfl
@[simp] theorem Part.onWg_tbUpdates (p : Part) (i j : Nat) (h : Wg → Wg) : (p.onWg i j h).tbUpdates = p.tbUpdates := rfl
@[simp] theorem Part.onWg_reports (p : Part) (i j : Nat) (h : Wg → Wg) : (p.onWg i j h).reports = p.reports := rfl
@[simp] theorem Part.onWg_comparators (p : Part) (i j : Nat) (h : Wg → Wg) : (p.onWg i j h).comparators = p.comparators := rfl
@[simp] theorem Part.onWg_tailWords (p : Part) (i j : Nat) (h : Wg → Wg) : (p.onWg i j h).tailWords = p.tailWords := rfl
@[simp] theorem Part.onWg_tlb (p : Part) (i j : Nat) (h : Wg → Wg) : (p.onWg i j h).tlb = p.tlb := rfl
@[simp] theorem Part.onWg_jobs (p : Part) (i j : Nat) (h : Wg → Wg) : (p.onWg i j h).jobs = p.jobs := rfl
@[simp] theorem Part.onWg_cox (p : Part) (i j : Nat) (h : Wg → Wg) : (p.onWg i j h).cox = p.cox := rfl
@[simp] theorem Part.onWg_mgmt (p : Part) (i j : Nat) (h : Wg → Wg) : (p.onWg i j h).mgmt = p.mgmt := rfl
@[simp] theorem Part.onWg_reply (p : Part) (i j : Nat) (h : Wg → Wg) : (p.onWg i j h).reply = p.reply := rfl
@[simp] theorem Part.onWg_replyError (p : Part) (i j : Nat) (h : Wg → Wg) : (p.onWg i j h).replyError = p.replyError := rfl
@[simp] theorem Part.onWg_answers (p : Part) (i j : Nat) (h : Wg → Wg) : (p.onWg i j h).answers = p.answers := rfl
@[simp] theorem Part.onWg_msix (p : Part) (i j : Nat) (h : Wg → Wg) : (p.onWg i j h).msix = p.msix := rfl
@[simp] theorem Part.onWg_sealed (p : Part) (i j : Nat) (h : Wg → Wg) : (p.onWg i j h).sealed = p.sealed := rfl
@[simp] theorem Part.onWg_heldWrites (p : Part) (i j : Nat) (h : Wg → Wg) : (p.onWg i j h).heldWrites = p.heldWrites := rfl
@[simp] theorem Part.onWg_nextCommand (p : Part) (i j : Nat) (h : Wg → Wg) : (p.onWg i j h).nextCommand = p.nextCommand := rfl
@[simp] theorem Part.onWarp_now (p : Part) (w : WarpRef) (h : Warp → Warp) : (p.onWarp w h).now = p.now := rfl
@[simp] theorem Part.onWarp_focus (p : Part) (w : WarpRef) (h : Warp → Warp) : (p.onWarp w h).focus = p.focus := rfl
@[simp] theorem Part.onWarp_oracle (p : Part) (w : WarpRef) (h : Warp → Warp) : (p.onWarp w h).oracle = p.oracle := rfl
@[simp] theorem Part.onWarp_sched (p : Part) (w : WarpRef) (h : Warp → Warp) : (p.onWarp w h).sched = p.sched := rfl
@[simp] theorem Part.onWarp_stepReq (p : Part) (w : WarpRef) (h : Warp → Warp) : (p.onWarp w h).stepReq = p.stepReq := rfl
@[simp] theorem Part.onWarp_debugQueue (p : Part) (w : WarpRef) (h : Warp → Warp) : (p.onWarp w h).debugQueue = p.debugQueue := rfl
@[simp] theorem Part.onWarp_cores (p : Part) (w : WarpRef) (h : Warp → Warp) : (p.onWarp w h).cores = modifyNth p.cores w.core (fun k => k.onWg w.slot (fun g => g.onWarp w.warp h)) := rfl
@[simp] theorem Part.onWarp_dies (p : Part) (w : WarpRef) (h : Warp → Warp) : (p.onWarp w h).dies = p.dies := rfl
@[simp] theorem Part.onWarp_clusters (p : Part) (w : WarpRef) (h : Warp → Warp) : (p.onWarp w h).clusters = p.clusters := rfl
@[simp] theorem Part.onWarp_tbUpdates (p : Part) (w : WarpRef) (h : Warp → Warp) : (p.onWarp w h).tbUpdates = p.tbUpdates := rfl
@[simp] theorem Part.onWarp_reports (p : Part) (w : WarpRef) (h : Warp → Warp) : (p.onWarp w h).reports = p.reports := rfl
@[simp] theorem Part.onWarp_comparators (p : Part) (w : WarpRef) (h : Warp → Warp) : (p.onWarp w h).comparators = p.comparators := rfl
@[simp] theorem Part.onWarp_tailWords (p : Part) (w : WarpRef) (h : Warp → Warp) : (p.onWarp w h).tailWords = p.tailWords := rfl
@[simp] theorem Part.onWarp_tlb (p : Part) (w : WarpRef) (h : Warp → Warp) : (p.onWarp w h).tlb = p.tlb := rfl
@[simp] theorem Part.onWarp_jobs (p : Part) (w : WarpRef) (h : Warp → Warp) : (p.onWarp w h).jobs = p.jobs := rfl
@[simp] theorem Part.onWarp_cox (p : Part) (w : WarpRef) (h : Warp → Warp) : (p.onWarp w h).cox = p.cox := rfl
@[simp] theorem Part.onWarp_mgmt (p : Part) (w : WarpRef) (h : Warp → Warp) : (p.onWarp w h).mgmt = p.mgmt := rfl
@[simp] theorem Part.onWarp_reply (p : Part) (w : WarpRef) (h : Warp → Warp) : (p.onWarp w h).reply = p.reply := rfl
@[simp] theorem Part.onWarp_replyError (p : Part) (w : WarpRef) (h : Warp → Warp) : (p.onWarp w h).replyError = p.replyError := rfl
@[simp] theorem Part.onWarp_answers (p : Part) (w : WarpRef) (h : Warp → Warp) : (p.onWarp w h).answers = p.answers := rfl
@[simp] theorem Part.onWarp_msix (p : Part) (w : WarpRef) (h : Warp → Warp) : (p.onWarp w h).msix = p.msix := rfl
@[simp] theorem Part.onWarp_sealed (p : Part) (w : WarpRef) (h : Warp → Warp) : (p.onWarp w h).sealed = p.sealed := rfl
@[simp] theorem Part.onWarp_heldWrites (p : Part) (w : WarpRef) (h : Warp → Warp) : (p.onWarp w h).heldWrites = p.heldWrites := rfl
@[simp] theorem Part.onWarp_nextCommand (p : Part) (w : WarpRef) (h : Warp → Warp) : (p.onWarp w h).nextCommand = p.nextCommand := rfl
@[simp] theorem Part.onDie_now (p : Part) (i : Nat) (h : Die → Die) : (p.onDie i h).now = p.now := rfl
@[simp] theorem Part.onDie_focus (p : Part) (i : Nat) (h : Die → Die) : (p.onDie i h).focus = p.focus := rfl
@[simp] theorem Part.onDie_oracle (p : Part) (i : Nat) (h : Die → Die) : (p.onDie i h).oracle = p.oracle := rfl
@[simp] theorem Part.onDie_sched (p : Part) (i : Nat) (h : Die → Die) : (p.onDie i h).sched = p.sched := rfl
@[simp] theorem Part.onDie_stepReq (p : Part) (i : Nat) (h : Die → Die) : (p.onDie i h).stepReq = p.stepReq := rfl
@[simp] theorem Part.onDie_debugQueue (p : Part) (i : Nat) (h : Die → Die) : (p.onDie i h).debugQueue = p.debugQueue := rfl
@[simp] theorem Part.onDie_cores (p : Part) (i : Nat) (h : Die → Die) : (p.onDie i h).cores = p.cores := rfl
@[simp] theorem Part.onDie_dies (p : Part) (i : Nat) (h : Die → Die) : (p.onDie i h).dies = modifyNth p.dies i h := rfl
@[simp] theorem Part.onDie_clusters (p : Part) (i : Nat) (h : Die → Die) : (p.onDie i h).clusters = p.clusters := rfl
@[simp] theorem Part.onDie_tbUpdates (p : Part) (i : Nat) (h : Die → Die) : (p.onDie i h).tbUpdates = p.tbUpdates := rfl
@[simp] theorem Part.onDie_reports (p : Part) (i : Nat) (h : Die → Die) : (p.onDie i h).reports = p.reports := rfl
@[simp] theorem Part.onDie_comparators (p : Part) (i : Nat) (h : Die → Die) : (p.onDie i h).comparators = p.comparators := rfl
@[simp] theorem Part.onDie_tailWords (p : Part) (i : Nat) (h : Die → Die) : (p.onDie i h).tailWords = p.tailWords := rfl
@[simp] theorem Part.onDie_tlb (p : Part) (i : Nat) (h : Die → Die) : (p.onDie i h).tlb = p.tlb := rfl
@[simp] theorem Part.onDie_jobs (p : Part) (i : Nat) (h : Die → Die) : (p.onDie i h).jobs = p.jobs := rfl
@[simp] theorem Part.onDie_cox (p : Part) (i : Nat) (h : Die → Die) : (p.onDie i h).cox = p.cox := rfl
@[simp] theorem Part.onDie_mgmt (p : Part) (i : Nat) (h : Die → Die) : (p.onDie i h).mgmt = p.mgmt := rfl
@[simp] theorem Part.onDie_reply (p : Part) (i : Nat) (h : Die → Die) : (p.onDie i h).reply = p.reply := rfl
@[simp] theorem Part.onDie_replyError (p : Part) (i : Nat) (h : Die → Die) : (p.onDie i h).replyError = p.replyError := rfl
@[simp] theorem Part.onDie_answers (p : Part) (i : Nat) (h : Die → Die) : (p.onDie i h).answers = p.answers := rfl
@[simp] theorem Part.onDie_msix (p : Part) (i : Nat) (h : Die → Die) : (p.onDie i h).msix = p.msix := rfl
@[simp] theorem Part.onDie_sealed (p : Part) (i : Nat) (h : Die → Die) : (p.onDie i h).sealed = p.sealed := rfl
@[simp] theorem Part.onDie_heldWrites (p : Part) (i : Nat) (h : Die → Die) : (p.onDie i h).heldWrites = p.heldWrites := rfl
@[simp] theorem Part.onDie_nextCommand (p : Part) (i : Nat) (h : Die → Die) : (p.onDie i h).nextCommand = p.nextCommand := rfl
@[simp] theorem Part.onCox_now (p : Part) (h : Cox → Cox) : (p.onCox h).now = p.now := rfl
@[simp] theorem Part.onCox_focus (p : Part) (h : Cox → Cox) : (p.onCox h).focus = p.focus := rfl
@[simp] theorem Part.onCox_oracle (p : Part) (h : Cox → Cox) : (p.onCox h).oracle = p.oracle := rfl
@[simp] theorem Part.onCox_sched (p : Part) (h : Cox → Cox) : (p.onCox h).sched = p.sched := rfl
@[simp] theorem Part.onCox_stepReq (p : Part) (h : Cox → Cox) : (p.onCox h).stepReq = p.stepReq := rfl
@[simp] theorem Part.onCox_debugQueue (p : Part) (h : Cox → Cox) : (p.onCox h).debugQueue = p.debugQueue := rfl
@[simp] theorem Part.onCox_cores (p : Part) (h : Cox → Cox) : (p.onCox h).cores = p.cores := rfl
@[simp] theorem Part.onCox_dies (p : Part) (h : Cox → Cox) : (p.onCox h).dies = p.dies := rfl
@[simp] theorem Part.onCox_clusters (p : Part) (h : Cox → Cox) : (p.onCox h).clusters = p.clusters := rfl
@[simp] theorem Part.onCox_tbUpdates (p : Part) (h : Cox → Cox) : (p.onCox h).tbUpdates = p.tbUpdates := rfl
@[simp] theorem Part.onCox_reports (p : Part) (h : Cox → Cox) : (p.onCox h).reports = p.reports := rfl
@[simp] theorem Part.onCox_comparators (p : Part) (h : Cox → Cox) : (p.onCox h).comparators = p.comparators := rfl
@[simp] theorem Part.onCox_tailWords (p : Part) (h : Cox → Cox) : (p.onCox h).tailWords = p.tailWords := rfl
@[simp] theorem Part.onCox_tlb (p : Part) (h : Cox → Cox) : (p.onCox h).tlb = p.tlb := rfl
@[simp] theorem Part.onCox_jobs (p : Part) (h : Cox → Cox) : (p.onCox h).jobs = p.jobs := rfl
@[simp] theorem Part.onCox_cox (p : Part) (h : Cox → Cox) : (p.onCox h).cox = h p.cox := rfl
@[simp] theorem Part.onCox_mgmt (p : Part) (h : Cox → Cox) : (p.onCox h).mgmt = p.mgmt := rfl
@[simp] theorem Part.onCox_reply (p : Part) (h : Cox → Cox) : (p.onCox h).reply = p.reply := rfl
@[simp] theorem Part.onCox_replyError (p : Part) (h : Cox → Cox) : (p.onCox h).replyError = p.replyError := rfl
@[simp] theorem Part.onCox_answers (p : Part) (h : Cox → Cox) : (p.onCox h).answers = p.answers := rfl
@[simp] theorem Part.onCox_msix (p : Part) (h : Cox → Cox) : (p.onCox h).msix = p.msix := rfl
@[simp] theorem Part.onCox_sealed (p : Part) (h : Cox → Cox) : (p.onCox h).sealed = p.sealed := rfl
@[simp] theorem Part.onCox_heldWrites (p : Part) (h : Cox → Cox) : (p.onCox h).heldWrites = p.heldWrites := rfl
@[simp] theorem Part.onCox_nextCommand (p : Part) (h : Cox → Cox) : (p.onCox h).nextCommand = p.nextCommand := rfl
@[simp] theorem Part.onMgmt_now (p : Part) (h : Mgmt → Mgmt) : (p.onMgmt h).now = p.now := rfl
@[simp] theorem Part.onMgmt_focus (p : Part) (h : Mgmt → Mgmt) : (p.onMgmt h).focus = p.focus := rfl
@[simp] theorem Part.onMgmt_oracle (p : Part) (h : Mgmt → Mgmt) : (p.onMgmt h).oracle = p.oracle := rfl
@[simp] theorem Part.onMgmt_sched (p : Part) (h : Mgmt → Mgmt) : (p.onMgmt h).sched = p.sched := rfl
@[simp] theorem Part.onMgmt_stepReq (p : Part) (h : Mgmt → Mgmt) : (p.onMgmt h).stepReq = p.stepReq := rfl
@[simp] theorem Part.onMgmt_debugQueue (p : Part) (h : Mgmt → Mgmt) : (p.onMgmt h).debugQueue = p.debugQueue := rfl
@[simp] theorem Part.onMgmt_cores (p : Part) (h : Mgmt → Mgmt) : (p.onMgmt h).cores = p.cores := rfl
@[simp] theorem Part.onMgmt_dies (p : Part) (h : Mgmt → Mgmt) : (p.onMgmt h).dies = p.dies := rfl
@[simp] theorem Part.onMgmt_clusters (p : Part) (h : Mgmt → Mgmt) : (p.onMgmt h).clusters = p.clusters := rfl
@[simp] theorem Part.onMgmt_tbUpdates (p : Part) (h : Mgmt → Mgmt) : (p.onMgmt h).tbUpdates = p.tbUpdates := rfl
@[simp] theorem Part.onMgmt_reports (p : Part) (h : Mgmt → Mgmt) : (p.onMgmt h).reports = p.reports := rfl
@[simp] theorem Part.onMgmt_comparators (p : Part) (h : Mgmt → Mgmt) : (p.onMgmt h).comparators = p.comparators := rfl
@[simp] theorem Part.onMgmt_tailWords (p : Part) (h : Mgmt → Mgmt) : (p.onMgmt h).tailWords = p.tailWords := rfl
@[simp] theorem Part.onMgmt_tlb (p : Part) (h : Mgmt → Mgmt) : (p.onMgmt h).tlb = p.tlb := rfl
@[simp] theorem Part.onMgmt_jobs (p : Part) (h : Mgmt → Mgmt) : (p.onMgmt h).jobs = p.jobs := rfl
@[simp] theorem Part.onMgmt_cox (p : Part) (h : Mgmt → Mgmt) : (p.onMgmt h).cox = p.cox := rfl
@[simp] theorem Part.onMgmt_mgmt (p : Part) (h : Mgmt → Mgmt) : (p.onMgmt h).mgmt = h p.mgmt := rfl
@[simp] theorem Part.onMgmt_reply (p : Part) (h : Mgmt → Mgmt) : (p.onMgmt h).reply = p.reply := rfl
@[simp] theorem Part.onMgmt_replyError (p : Part) (h : Mgmt → Mgmt) : (p.onMgmt h).replyError = p.replyError := rfl
@[simp] theorem Part.onMgmt_answers (p : Part) (h : Mgmt → Mgmt) : (p.onMgmt h).answers = p.answers := rfl
@[simp] theorem Part.onMgmt_msix (p : Part) (h : Mgmt → Mgmt) : (p.onMgmt h).msix = p.msix := rfl
@[simp] theorem Part.onMgmt_sealed (p : Part) (h : Mgmt → Mgmt) : (p.onMgmt h).sealed = p.sealed := rfl
@[simp] theorem Part.onMgmt_heldWrites (p : Part) (h : Mgmt → Mgmt) : (p.onMgmt h).heldWrites = p.heldWrites := rfl
@[simp] theorem Part.onMgmt_nextCommand (p : Part) (h : Mgmt → Mgmt) : (p.onMgmt h).nextCommand = p.nextCommand := rfl
@[simp] theorem Part.onJob_now (p : Part) (i : Nat) (h : Job → Job) : (p.onJob i h).now = p.now := rfl
@[simp] theorem Part.onJob_focus (p : Part) (i : Nat) (h : Job → Job) : (p.onJob i h).focus = p.focus := rfl
@[simp] theorem Part.onJob_oracle (p : Part) (i : Nat) (h : Job → Job) : (p.onJob i h).oracle = p.oracle := rfl
@[simp] theorem Part.onJob_sched (p : Part) (i : Nat) (h : Job → Job) : (p.onJob i h).sched = p.sched := rfl
@[simp] theorem Part.onJob_stepReq (p : Part) (i : Nat) (h : Job → Job) : (p.onJob i h).stepReq = p.stepReq := rfl
@[simp] theorem Part.onJob_debugQueue (p : Part) (i : Nat) (h : Job → Job) : (p.onJob i h).debugQueue = p.debugQueue := rfl
@[simp] theorem Part.onJob_cores (p : Part) (i : Nat) (h : Job → Job) : (p.onJob i h).cores = p.cores := rfl
@[simp] theorem Part.onJob_dies (p : Part) (i : Nat) (h : Job → Job) : (p.onJob i h).dies = p.dies := rfl
@[simp] theorem Part.onJob_clusters (p : Part) (i : Nat) (h : Job → Job) : (p.onJob i h).clusters = p.clusters := rfl
@[simp] theorem Part.onJob_tbUpdates (p : Part) (i : Nat) (h : Job → Job) : (p.onJob i h).tbUpdates = p.tbUpdates := rfl
@[simp] theorem Part.onJob_reports (p : Part) (i : Nat) (h : Job → Job) : (p.onJob i h).reports = p.reports := rfl
@[simp] theorem Part.onJob_comparators (p : Part) (i : Nat) (h : Job → Job) : (p.onJob i h).comparators = p.comparators := rfl
@[simp] theorem Part.onJob_tailWords (p : Part) (i : Nat) (h : Job → Job) : (p.onJob i h).tailWords = p.tailWords := rfl
@[simp] theorem Part.onJob_tlb (p : Part) (i : Nat) (h : Job → Job) : (p.onJob i h).tlb = p.tlb := rfl
@[simp] theorem Part.onJob_jobs (p : Part) (i : Nat) (h : Job → Job) : (p.onJob i h).jobs = p.jobs.map (fun j => if j.id = i then h j else j) := rfl
@[simp] theorem Part.onJob_cox (p : Part) (i : Nat) (h : Job → Job) : (p.onJob i h).cox = p.cox := rfl
@[simp] theorem Part.onJob_mgmt (p : Part) (i : Nat) (h : Job → Job) : (p.onJob i h).mgmt = p.mgmt := rfl
@[simp] theorem Part.onJob_reply (p : Part) (i : Nat) (h : Job → Job) : (p.onJob i h).reply = p.reply := rfl
@[simp] theorem Part.onJob_replyError (p : Part) (i : Nat) (h : Job → Job) : (p.onJob i h).replyError = p.replyError := rfl
@[simp] theorem Part.onJob_answers (p : Part) (i : Nat) (h : Job → Job) : (p.onJob i h).answers = p.answers := rfl
@[simp] theorem Part.onJob_msix (p : Part) (i : Nat) (h : Job → Job) : (p.onJob i h).msix = p.msix := rfl
@[simp] theorem Part.onJob_sealed (p : Part) (i : Nat) (h : Job → Job) : (p.onJob i h).sealed = p.sealed := rfl
@[simp] theorem Part.onJob_heldWrites (p : Part) (i : Nat) (h : Job → Job) : (p.onJob i h).heldWrites = p.heldWrites := rfl
@[simp] theorem Part.onJob_nextCommand (p : Part) (i : Nat) (h : Job → Job) : (p.onJob i h).nextCommand = p.nextCommand := rfl
@[simp] theorem Part.onLaunch_now (p : Part) (i : Nat) (h : Launch → Launch) : (p.onLaunch i h).now = p.now := rfl
@[simp] theorem Part.onLaunch_focus (p : Part) (i : Nat) (h : Launch → Launch) : (p.onLaunch i h).focus = p.focus := rfl
@[simp] theorem Part.onLaunch_oracle (p : Part) (i : Nat) (h : Launch → Launch) : (p.onLaunch i h).oracle = p.oracle := rfl
@[simp] theorem Part.onLaunch_sched (p : Part) (i : Nat) (h : Launch → Launch) : (p.onLaunch i h).sched = p.sched := rfl
@[simp] theorem Part.onLaunch_stepReq (p : Part) (i : Nat) (h : Launch → Launch) : (p.onLaunch i h).stepReq = p.stepReq := rfl
@[simp] theorem Part.onLaunch_debugQueue (p : Part) (i : Nat) (h : Launch → Launch) : (p.onLaunch i h).debugQueue = p.debugQueue := rfl
@[simp] theorem Part.onLaunch_cores (p : Part) (i : Nat) (h : Launch → Launch) : (p.onLaunch i h).cores = p.cores := rfl
@[simp] theorem Part.onLaunch_dies (p : Part) (i : Nat) (h : Launch → Launch) : (p.onLaunch i h).dies = p.dies := rfl
@[simp] theorem Part.onLaunch_clusters (p : Part) (i : Nat) (h : Launch → Launch) : (p.onLaunch i h).clusters = p.clusters := rfl
@[simp] theorem Part.onLaunch_tbUpdates (p : Part) (i : Nat) (h : Launch → Launch) : (p.onLaunch i h).tbUpdates = p.tbUpdates := rfl
@[simp] theorem Part.onLaunch_reports (p : Part) (i : Nat) (h : Launch → Launch) : (p.onLaunch i h).reports = p.reports := rfl
@[simp] theorem Part.onLaunch_comparators (p : Part) (i : Nat) (h : Launch → Launch) : (p.onLaunch i h).comparators = p.comparators := rfl
@[simp] theorem Part.onLaunch_tailWords (p : Part) (i : Nat) (h : Launch → Launch) : (p.onLaunch i h).tailWords = p.tailWords := rfl
@[simp] theorem Part.onLaunch_tlb (p : Part) (i : Nat) (h : Launch → Launch) : (p.onLaunch i h).tlb = p.tlb := rfl
@[simp] theorem Part.onLaunch_jobs (p : Part) (i : Nat) (h : Launch → Launch) : (p.onLaunch i h).jobs = p.jobs := rfl
@[simp] theorem Part.onLaunch_cox (p : Part) (i : Nat) (h : Launch → Launch) : (p.onLaunch i h).cox = { p.cox with launches := p.cox.launches.map (fun l => if l.id = i then h l else l) } := rfl
@[simp] theorem Part.onLaunch_mgmt (p : Part) (i : Nat) (h : Launch → Launch) : (p.onLaunch i h).mgmt = p.mgmt := rfl
@[simp] theorem Part.onLaunch_reply (p : Part) (i : Nat) (h : Launch → Launch) : (p.onLaunch i h).reply = p.reply := rfl
@[simp] theorem Part.onLaunch_replyError (p : Part) (i : Nat) (h : Launch → Launch) : (p.onLaunch i h).replyError = p.replyError := rfl
@[simp] theorem Part.onLaunch_answers (p : Part) (i : Nat) (h : Launch → Launch) : (p.onLaunch i h).answers = p.answers := rfl
@[simp] theorem Part.onLaunch_msix (p : Part) (i : Nat) (h : Launch → Launch) : (p.onLaunch i h).msix = p.msix := rfl
@[simp] theorem Part.onLaunch_sealed (p : Part) (i : Nat) (h : Launch → Launch) : (p.onLaunch i h).sealed = p.sealed := rfl
@[simp] theorem Part.onLaunch_heldWrites (p : Part) (i : Nat) (h : Launch → Launch) : (p.onLaunch i h).heldWrites = p.heldWrites := rfl
@[simp] theorem Part.onLaunch_nextCommand (p : Part) (i : Nat) (h : Launch → Launch) : (p.onLaunch i h).nextCommand = p.nextCommand := rfl

/-! ### Changes of a core, a workgroup, a warp and a thread -/

@[simp] theorem Core.onWg_part (k : Core) (i : Nat) (h : Wg → Wg) : (k.onWg i h).part = k.part := rfl
@[simp] theorem Core.onWg_slots (k : Core) (i : Nat) (h : Wg → Wg) : (k.onWg i h).slots = modifyNth k.slots i (Option.map h) := rfl
@[simp] theorem Core.onWg_spad (k : Core) (i : Nat) (h : Wg → Wg) : (k.onWg i h).spad = k.spad := rfl
@[simp] theorem Core.onWg_owners (k : Core) (i : Nat) (h : Wg → Wg) : (k.onWg i h).owners = k.owners := rfl
@[simp] theorem Core.onWg_l1 (k : Core) (i : Nat) (h : Wg → Wg) : (k.onWg i h).l1 = k.l1 := rfl
@[simp] theorem Core.onWg_l1Clock (k : Core) (i : Nat) (h : Wg → Wg) : (k.onWg i h).l1Clock = k.l1Clock := rfl
@[simp] theorem Core.onWg_round (k : Core) (i : Nat) (h : Wg → Wg) : (k.onWg i h).round = k.round := rfl
@[simp] theorem Core.onWg_seen (k : Core) (i : Nat) (h : Wg → Wg) : (k.onWg i h).seen = k.seen := rfl
@[simp] theorem Core.onWg_hostDirty (k : Core) (i : Nat) (h : Wg → Wg) : (k.onWg i h).hostDirty = k.hostDirty := rfl
@[simp] theorem Core.onWg_portsDirty (k : Core) (i : Nat) (h : Wg → Wg) : (k.onWg i h).portsDirty = k.portsDirty := rfl
@[simp] theorem Core.onWg_packets (k : Core) (i : Nat) (h : Wg → Wg) : (k.onWg i h).packets = k.packets := rfl
@[simp] theorem Core.onWg_sent (k : Core) (i : Nat) (h : Wg → Wg) : (k.onWg i h).sent = k.sent := rfl
@[simp] theorem Core.onWg_releases (k : Core) (i : Nat) (h : Wg → Wg) : (k.onWg i h).releases = k.releases := rfl
@[simp] theorem Core.onWg_atoms (k : Core) (i : Nat) (h : Wg → Wg) : (k.onWg i h).atoms = k.atoms := rfl
@[simp] theorem Core.onWg_fills (k : Core) (i : Nat) (h : Wg → Wg) : (k.onWg i h).fills = k.fills := rfl
@[simp] theorem Core.onWg_discards (k : Core) (i : Nat) (h : Wg → Wg) : (k.onWg i h).discards = k.discards := rfl
@[simp] theorem Core.onWg_oplog (k : Core) (i : Nat) (h : Wg → Wg) : (k.onWg i h).oplog = k.oplog := rfl
@[simp] theorem Core.onWg_walkers (k : Core) (i : Nat) (h : Wg → Wg) : (k.onWg i h).walkers = k.walkers := rfl
@[simp] theorem Core.onWg_copyQueue (k : Core) (i : Nat) (h : Wg → Wg) : (k.onWg i h).copyQueue = k.copyQueue := rfl
@[simp] theorem Core.onWg_numbering (k : Core) (i : Nat) (h : Wg → Wg) : (k.onWg i h).numbering = k.numbering := rfl
@[simp] theorem Core.onWg_arrayQueue (k : Core) (i : Nat) (h : Wg → Wg) : (k.onWg i h).arrayQueue = k.arrayQueue := rfl
@[simp] theorem Core.onWg_running (k : Core) (i : Nat) (h : Wg → Wg) : (k.onWg i h).running = k.running := rfl
@[simp] theorem Core.onWg_narrow (k : Core) (i : Nat) (h : Wg → Wg) : (k.onWg i h).narrow = k.narrow := rfl
@[simp] theorem Core.onWg_hamper (k : Core) (i : Nat) (h : Wg → Wg) : (k.onWg i h).hamper = k.hamper := rfl
@[simp] theorem Core.onWg_preds (k : Core) (i : Nat) (h : Wg → Wg) : (k.onWg i h).preds = k.preds := rfl
@[simp] theorem Core.onWg_oldPreds (k : Core) (i : Nat) (h : Wg → Wg) : (k.onWg i h).oldPreds = k.oldPreds := rfl
@[simp] theorem Core.onWg_ehist (k : Core) (i : Nat) (h : Wg → Wg) : (k.onWg i h).ehist = k.ehist := rfl
@[simp] theorem Core.onWg_stall (k : Core) (i : Nat) (h : Wg → Wg) : (k.onWg i h).stall = k.stall := rfl
@[simp] theorem Core.onWg_pctl (k : Core) (i : Nat) (h : Wg → Wg) : (k.onWg i h).pctl = k.pctl := rfl
@[simp] theorem Core.onWg_ppol (k : Core) (i : Nat) (h : Wg → Wg) : (k.onWg i h).ppol = k.ppol := rfl
@[simp] theorem Core.onWg_promo (k : Core) (i : Nat) (h : Wg → Wg) : (k.onWg i h).promo = k.promo := rfl
@[simp] theorem Core.onWg_demo (k : Core) (i : Nat) (h : Wg → Wg) : (k.onWg i h).demo = k.demo := rfl
@[simp] theorem Core.onWg_refused (k : Core) (i : Nat) (h : Wg → Wg) : (k.onWg i h).refused = k.refused := rfl
@[simp] theorem Core.onWg_pipes (k : Core) (i : Nat) (h : Wg → Wg) : (k.onWg i h).pipes = k.pipes := rfl
@[simp] theorem Core.onWg_went (k : Core) (i : Nat) (h : Wg → Wg) : (k.onWg i h).went = k.went := rfl
@[simp] theorem Core.onWg_retired (k : Core) (i : Nat) (h : Wg → Wg) : (k.onWg i h).retired = k.retired := rfl
@[simp] theorem Core.onWg_sample (k : Core) (i : Nat) (h : Wg → Wg) : (k.onWg i h).sample = k.sample := rfl
@[simp] theorem Core.onWg_nextId (k : Core) (i : Nat) (h : Wg → Wg) : (k.onWg i h).nextId = k.nextId := rfl
@[simp] theorem Wg.onWarp_launch (g : Wg) (i : Nat) (h : Warp → Warp) : (g.onWarp i h).launch = g.launch := rfl
@[simp] theorem Wg.onWarp_job (g : Wg) (i : Nat) (h : Warp → Warp) : (g.onWarp i h).job = g.job := rfl
@[simp] theorem Wg.onWarp_number (g : Wg) (i : Nat) (h : Warp → Warp) : (g.onWarp i h).number = g.number := rfl
@[simp] theorem Wg.onWarp_x (g : Wg) (i : Nat) (h : Warp → Warp) : (g.onWarp i h).x = g.x := rfl
@[simp] theorem Wg.onWarp_y (g : Wg) (i : Nat) (h : Warp → Warp) : (g.onWarp i h).y = g.y := rfl
@[simp] theorem Wg.onWarp_z (g : Wg) (i : Nat) (h : Warp → Warp) : (g.onWarp i h).z = g.z := rfl
@[simp] theorem Wg.onWarp_warps (g : Wg) (i : Nat) (h : Warp → Warp) : (g.onWarp i h).warps = modifyNth g.warps i h := rfl
@[simp] theorem Wg.onWarp_nregs (g : Wg) (i : Nat) (h : Warp → Warp) : (g.onWarp i h).nregs = g.nregs := rfl
@[simp] theorem Wg.onWarp_ntiles (g : Wg) (i : Nat) (h : Warp → Warp) : (g.onWarp i h).ntiles = g.ntiles := rfl
@[simp] theorem Wg.onWarp_scratch (g : Wg) (i : Nat) (h : Warp → Warp) : (g.onWarp i h).scratch = g.scratch := rfl
@[simp] theorem Wg.onWarp_base (g : Wg) (i : Nat) (h : Warp → Warp) : (g.onWarp i h).base = g.base := rfl
@[simp] theorem Wg.onWarp_threads (g : Wg) (i : Nat) (h : Warp → Warp) : (g.onWarp i h).threads = g.threads := rfl
@[simp] theorem Wg.onWarp_cls (g : Wg) (i : Nat) (h : Warp → Warp) : (g.onWarp i h).cls = g.cls := rfl
@[simp] theorem Wg.onWarp_phaseMode (g : Wg) (i : Nat) (h : Warp → Warp) : (g.onWarp i h).phaseMode = g.phaseMode := rfl
@[simp] theorem Wg.onWarp_cluster (g : Wg) (i : Nat) (h : Warp → Warp) : (g.onWarp i h).cluster = g.cluster := rfl
@[simp] theorem Wg.onWarp_rank (g : Wg) (i : Nat) (h : Warp → Warp) : (g.onWarp i h).rank = g.rank := rfl
@[simp] theorem Wg.onWarp_members (g : Wg) (i : Nat) (h : Warp → Warp) : (g.onWarp i h).members = g.members := rfl
@[simp] theorem Wg.onWarp_tiles (g : Wg) (i : Nat) (h : Warp → Warp) : (g.onWarp i h).tiles = g.tiles := rfl
@[simp] theorem Wg.onWarp_layouts (g : Wg) (i : Nat) (h : Warp → Warp) : (g.onWarp i h).layouts = g.layouts := rfl
@[simp] theorem Wg.onWarp_fmt (g : Wg) (i : Nat) (h : Warp → Warp) : (g.onWarp i h).fmt = g.fmt := rfl
@[simp] theorem Wg.onWarp_fmtWait (g : Wg) (i : Nat) (h : Warp → Warp) : (g.onWarp i h).fmtWait = g.fmtWait := rfl
@[simp] theorem Wg.onWarp_lines (g : Wg) (i : Nat) (h : Warp → Warp) : (g.onWarp i h).lines = g.lines := rfl
@[simp] theorem Wg.onWarp_bars (g : Wg) (i : Nat) (h : Warp → Warp) : (g.onWarp i h).bars = g.bars := rfl
@[simp] theorem Wg.onWarp_caught (g : Wg) (i : Nat) (h : Warp → Warp) : (g.onWarp i h).caught = g.caught := rfl
@[simp] theorem Wg.onWarp_ct (g : Wg) (i : Nat) (h : Warp → Warp) : (g.onWarp i h).ct = g.ct := rfl
@[simp] theorem Wg.onWarp_mt (g : Wg) (i : Nat) (h : Warp → Warp) : (g.onWarp i h).mt = g.mt := rfl
@[simp] theorem Wg.onWarp_xtLast (g : Wg) (i : Nat) (h : Warp → Warp) : (g.onWarp i h).xtLast = g.xtLast := rfl
@[simp] theorem Wg.onWarp_xtOpen (g : Wg) (i : Nat) (h : Warp → Warp) : (g.onWarp i h).xtOpen = g.xtOpen := rfl
@[simp] theorem Wg.onWarp_copies (g : Wg) (i : Nat) (h : Warp → Warp) : (g.onWarp i h).copies = g.copies := rfl
@[simp] theorem Wg.onWarp_sends (g : Wg) (i : Nat) (h : Warp → Warp) : (g.onWarp i h).sends = g.sends := rfl
@[simp] theorem Wg.onWarp_receives (g : Wg) (i : Nat) (h : Warp → Warp) : (g.onWarp i h).receives = g.receives := rfl
@[simp] theorem Wg.onWarp_pending (g : Wg) (i : Nat) (h : Warp → Warp) : (g.onWarp i h).pending = g.pending := rfl
@[simp] theorem Wg.onWarp_drain (g : Wg) (i : Nat) (h : Warp → Warp) : (g.onWarp i h).drain = g.drain := rfl
@[simp] theorem Wg.onWarp_deadline (g : Wg) (i : Nat) (h : Warp → Warp) : (g.onWarp i h).deadline = g.deadline := rfl
@[simp] theorem Wg.onWarp_cancel (g : Wg) (i : Nat) (h : Warp → Warp) : (g.onWarp i h).cancel = g.cancel := rfl
@[simp] theorem Wg.onWarp_cancelTrap (g : Wg) (i : Nat) (h : Warp → Warp) : (g.onWarp i h).cancelTrap = g.cancelTrap := rfl
@[simp] theorem Wg.onWarp_bconf (g : Wg) (i : Nat) (h : Warp → Warp) : (g.onWarp i h).bconf = g.bconf := rfl
@[simp] theorem Wg.onWarp_swsel (g : Wg) (i : Nat) (h : Warp → Warp) : (g.onWarp i h).swsel = g.swsel := rfl
@[simp] theorem Wg.onWarp_swheld (g : Wg) (i : Nat) (h : Warp → Warp) : (g.onWarp i h).swheld = g.swheld := rfl
@[simp] theorem Wg.onWarp_pushed (g : Wg) (i : Nat) (h : Warp → Warp) : (g.onWarp i h).pushed = g.pushed := rfl
@[simp] theorem Wg.onWarp_haltReq (g : Wg) (i : Nat) (h : Warp → Warp) : (g.onWarp i h).haltReq = g.haltReq := rfl
@[simp] theorem Wg.onWarp_haltsDue (g : Wg) (i : Nat) (h : Warp → Warp) : (g.onWarp i h).haltsDue = g.haltsDue := rfl
@[simp] theorem Wg.onWarp_broadcast (g : Wg) (i : Nat) (h : Warp → Warp) : (g.onWarp i h).broadcast = g.broadcast := rfl
@[simp] theorem Wg.onWarp_dump (g : Wg) (i : Nat) (h : Warp → Warp) : (g.onWarp i h).dump = g.dump := rfl
@[simp] theorem Wg.onWarp_swapping (g : Wg) (i : Nat) (h : Warp → Warp) : (g.onWarp i h).swapping = g.swapping := rfl
@[simp] theorem Wg.onWarp_traceLost (g : Wg) (i : Nat) (h : Warp → Warp) : (g.onWarp i h).traceLost = g.traceLost := rfl
@[simp] theorem Wg.onWarp_traceNotice (g : Wg) (i : Nat) (h : Warp → Warp) : (g.onWarp i h).traceNotice = g.traceNotice := rfl
@[simp] theorem Wg.onWarp_dead (g : Wg) (i : Nat) (h : Warp → Warp) : (g.onWarp i h).dead = g.dead := rfl
@[simp] theorem Wg.onWarp_double (g : Wg) (i : Nat) (h : Warp → Warp) : (g.onWarp i h).double = g.double := rfl
@[simp] theorem Wg.onWarp_complete (g : Wg) (i : Nat) (h : Warp → Warp) : (g.onWarp i h).complete = g.complete := rfl
@[simp] theorem Wg.onWarp_placed (g : Wg) (i : Nat) (h : Warp → Warp) : (g.onWarp i h).placed = g.placed := rfl
@[simp] theorem Warp.onLane_threads (w : Warp) (i : Nat) (h : Thread → Thread) : (w.onLane i h).threads = modifyNth w.threads i h := rfl
@[simp] theorem Warp.onLane_s (w : Warp) (i : Nat) (h : Thread → Thread) : (w.onLane i h).s = w.s := rfl
@[simp] theorem Warp.onLane_q (w : Warp) (i : Nat) (h : Thread → Thread) : (w.onLane i h).q = w.q := rfl
@[simp] theorem Warp.onLane_tcause (w : Warp) (i : Nat) (h : Thread → Thread) : (w.onLane i h).tcause = w.tcause := rfl
@[simp] theorem Warp.onLane_tlanes (w : Warp) (i : Nat) (h : Thread → Thread) : (w.onLane i h).tlanes = w.tlanes := rfl
@[simp] theorem Warp.onLane_tepc (w : Warp) (i : Nat) (h : Thread → Thread) : (w.onLane i h).tepc = w.tepc := rfl
@[simp] theorem Warp.onLane_taddr (w : Warp) (i : Nat) (h : Thread → Thread) : (w.onLane i h).taddr = w.taddr := rfl
@[simp] theorem Warp.onLane_tinfo0 (w : Warp) (i : Nat) (h : Thread → Thread) : (w.onLane i h).tinfo0 = w.tinfo0 := rfl
@[simp] theorem Warp.onLane_tinfo1 (w : Warp) (i : Nat) (h : Thread → Thread) : (w.onLane i h).tinfo1 = w.tinfo1 := rfl
@[simp] theorem Warp.onLane_tskid (w : Warp) (i : Nat) (h : Thread → Thread) : (w.onLane i h).tskid = w.tskid := rfl
@[simp] theorem Warp.onLane_tsave (w : Warp) (i : Nat) (h : Thread → Thread) : (w.onLane i h).tsave = w.tsave := rfl
@[simp] theorem Warp.onLane_tqueue (w : Warp) (i : Nat) (h : Thread → Thread) : (w.onLane i h).tqueue = w.tqueue := rfl
@[simp] theorem Warp.onLane_tlost (w : Warp) (i : Nat) (h : Thread → Thread) : (w.onLane i h).tlost = w.tlost := rfl
@[simp] theorem Warp.onLane_fstat (w : Warp) (i : Nat) (h : Thread → Thread) : (w.onLane i h).fstat = w.fstat := rfl
@[simp] theorem Warp.onLane_ften (w : Warp) (i : Nat) (h : Thread → Thread) : (w.onLane i h).ften = w.ften := rfl
@[simp] theorem Warp.onLane_hchk (w : Warp) (i : Nat) (h : Thread → Thread) : (w.onLane i h).hchk = w.hchk := rfl
@[simp] theorem Warp.onLane_trapMode (w : Warp) (i : Nat) (h : Thread → Thread) : (w.onLane i h).trapMode = w.trapMode := rfl
@[simp] theorem Warp.onLane_pend (w : Warp) (i : Nat) (h : Thread → Thread) : (w.onLane i h).pend = w.pend := rfl
@[simp] theorem Warp.onLane_recent (w : Warp) (i : Nat) (h : Thread → Thread) : (w.onLane i h).recent = w.recent := rfl
@[simp] theorem Warp.onLane_seq (w : Warp) (i : Nat) (h : Thread → Thread) : (w.onLane i h).seq = w.seq := rfl
@[simp] theorem Warp.onLane_kPark (w : Warp) (i : Nat) (h : Thread → Thread) : (w.onLane i h).kPark = w.kPark := rfl
@[simp] theorem Warp.onLane_gapEnd (w : Warp) (i : Nat) (h : Thread → Thread) : (w.onLane i h).gapEnd = w.gapEnd := rfl
@[simp] theorem Warp.onLane_holdWhy (w : Warp) (i : Nat) (h : Thread → Thread) : (w.onLane i h).holdWhy = w.holdWhy := rfl
@[simp] theorem Warp.onLane_yPend (w : Warp) (i : Nat) (h : Thread → Thread) : (w.onLane i h).yPend = w.yPend := rfl
@[simp] theorem Warp.onLane_conv (w : Warp) (i : Nat) (h : Thread → Thread) : (w.onLane i h).conv = w.conv := rfl
@[simp] theorem Warp.onLane_lock (w : Warp) (i : Nat) (h : Thread → Thread) : (w.onLane i h).lock = w.lock := rfl
@[simp] theorem Warp.onLane_lockWait (w : Warp) (i : Nat) (h : Thread → Thread) : (w.onLane i h).lockWait = w.lockWait := rfl
@[simp] theorem Warp.onLane_lockDone (w : Warp) (i : Nat) (h : Thread → Thread) : (w.onLane i h).lockDone = w.lockDone := rfl
@[simp] theorem Warp.onLane_xwait (w : Warp) (i : Nat) (h : Thread → Thread) : (w.onLane i h).xwait = w.xwait := rfl
@[simp] theorem Warp.onLane_multi (w : Warp) (i : Nat) (h : Thread → Thread) : (w.onLane i h).multi = w.multi := rfl
@[simp] theorem Warp.onLane_emptyTimer (w : Warp) (i : Nat) (h : Thread → Thread) : (w.onLane i h).emptyTimer = w.emptyTimer := rfl
@[simp] theorem Warp.onLane_haltCause (w : Warp) (i : Nat) (h : Thread → Thread) : (w.onLane i h).haltCause = w.haltCause := rfl
@[simp] theorem Warp.onLane_ownHalt (w : Warp) (i : Nat) (h : Thread → Thread) : (w.onLane i h).ownHalt = w.ownHalt := rfl
@[simp] theorem Warp.onLane_sprint (w : Warp) (i : Nat) (h : Thread → Thread) : (w.onLane i h).sprint = w.sprint := rfl
@[simp] theorem Warp.onLane_candidate (w : Warp) (i : Nat) (h : Thread → Thread) : (w.onLane i h).candidate = w.candidate := rfl
@[simp] theorem Warp.onLane_lastIssue (w : Warp) (i : Nat) (h : Thread → Thread) : (w.onLane i h).lastIssue = w.lastIssue := rfl
@[simp] theorem Warp.onLane_release (w : Warp) (i : Nat) (h : Thread → Thread) : (w.onLane i h).release = w.release := rfl
@[simp] theorem Warp.onLane_heldCmd (w : Warp) (i : Nat) (h : Thread → Thread) : (w.onLane i h).heldCmd = w.heldCmd := rfl
@[simp] theorem Warp.onLane_answer (w : Warp) (i : Nat) (h : Thread → Thread) : (w.onLane i h).answer = w.answer := rfl
@[simp] theorem Warp.onLane_granted (w : Warp) (i : Nat) (h : Thread → Thread) : (w.onLane i h).granted = w.granted := rfl
@[simp] theorem Warp.onLane_skid (w : Warp) (i : Nat) (h : Thread → Thread) : (w.onLane i h).skid = w.skid := rfl
@[simp] theorem Warp.onLane_watchAt (w : Warp) (i : Nat) (h : Thread → Thread) : (w.onLane i h).watchAt = w.watchAt := rfl
@[simp] theorem Warp.onLane_stored (w : Warp) (i : Nat) (h : Thread → Thread) : (w.onLane i h).stored = w.stored := rfl
@[simp] theorem Warp.onLanes_threads (w : Warp) (ls : List Nat) (h : Thread → Thread) : (w.onLanes ls h).threads = w.threads.zipIdx.map (fun q => if ls.contains q.2 then h q.1 else q.1) := rfl
@[simp] theorem Warp.onLanes_s (w : Warp) (ls : List Nat) (h : Thread → Thread) : (w.onLanes ls h).s = w.s := rfl
@[simp] theorem Warp.onLanes_q (w : Warp) (ls : List Nat) (h : Thread → Thread) : (w.onLanes ls h).q = w.q := rfl
@[simp] theorem Warp.onLanes_tcause (w : Warp) (ls : List Nat) (h : Thread → Thread) : (w.onLanes ls h).tcause = w.tcause := rfl
@[simp] theorem Warp.onLanes_tlanes (w : Warp) (ls : List Nat) (h : Thread → Thread) : (w.onLanes ls h).tlanes = w.tlanes := rfl
@[simp] theorem Warp.onLanes_tepc (w : Warp) (ls : List Nat) (h : Thread → Thread) : (w.onLanes ls h).tepc = w.tepc := rfl
@[simp] theorem Warp.onLanes_taddr (w : Warp) (ls : List Nat) (h : Thread → Thread) : (w.onLanes ls h).taddr = w.taddr := rfl
@[simp] theorem Warp.onLanes_tinfo0 (w : Warp) (ls : List Nat) (h : Thread → Thread) : (w.onLanes ls h).tinfo0 = w.tinfo0 := rfl
@[simp] theorem Warp.onLanes_tinfo1 (w : Warp) (ls : List Nat) (h : Thread → Thread) : (w.onLanes ls h).tinfo1 = w.tinfo1 := rfl
@[simp] theorem Warp.onLanes_tskid (w : Warp) (ls : List Nat) (h : Thread → Thread) : (w.onLanes ls h).tskid = w.tskid := rfl
@[simp] theorem Warp.onLanes_tsave (w : Warp) (ls : List Nat) (h : Thread → Thread) : (w.onLanes ls h).tsave = w.tsave := rfl
@[simp] theorem Warp.onLanes_tqueue (w : Warp) (ls : List Nat) (h : Thread → Thread) : (w.onLanes ls h).tqueue = w.tqueue := rfl
@[simp] theorem Warp.onLanes_tlost (w : Warp) (ls : List Nat) (h : Thread → Thread) : (w.onLanes ls h).tlost = w.tlost := rfl
@[simp] theorem Warp.onLanes_fstat (w : Warp) (ls : List Nat) (h : Thread → Thread) : (w.onLanes ls h).fstat = w.fstat := rfl
@[simp] theorem Warp.onLanes_ften (w : Warp) (ls : List Nat) (h : Thread → Thread) : (w.onLanes ls h).ften = w.ften := rfl
@[simp] theorem Warp.onLanes_hchk (w : Warp) (ls : List Nat) (h : Thread → Thread) : (w.onLanes ls h).hchk = w.hchk := rfl
@[simp] theorem Warp.onLanes_trapMode (w : Warp) (ls : List Nat) (h : Thread → Thread) : (w.onLanes ls h).trapMode = w.trapMode := rfl
@[simp] theorem Warp.onLanes_pend (w : Warp) (ls : List Nat) (h : Thread → Thread) : (w.onLanes ls h).pend = w.pend := rfl
@[simp] theorem Warp.onLanes_recent (w : Warp) (ls : List Nat) (h : Thread → Thread) : (w.onLanes ls h).recent = w.recent := rfl
@[simp] theorem Warp.onLanes_seq (w : Warp) (ls : List Nat) (h : Thread → Thread) : (w.onLanes ls h).seq = w.seq := rfl
@[simp] theorem Warp.onLanes_kPark (w : Warp) (ls : List Nat) (h : Thread → Thread) : (w.onLanes ls h).kPark = w.kPark := rfl
@[simp] theorem Warp.onLanes_gapEnd (w : Warp) (ls : List Nat) (h : Thread → Thread) : (w.onLanes ls h).gapEnd = w.gapEnd := rfl
@[simp] theorem Warp.onLanes_holdWhy (w : Warp) (ls : List Nat) (h : Thread → Thread) : (w.onLanes ls h).holdWhy = w.holdWhy := rfl
@[simp] theorem Warp.onLanes_yPend (w : Warp) (ls : List Nat) (h : Thread → Thread) : (w.onLanes ls h).yPend = w.yPend := rfl
@[simp] theorem Warp.onLanes_conv (w : Warp) (ls : List Nat) (h : Thread → Thread) : (w.onLanes ls h).conv = w.conv := rfl
@[simp] theorem Warp.onLanes_lock (w : Warp) (ls : List Nat) (h : Thread → Thread) : (w.onLanes ls h).lock = w.lock := rfl
@[simp] theorem Warp.onLanes_lockWait (w : Warp) (ls : List Nat) (h : Thread → Thread) : (w.onLanes ls h).lockWait = w.lockWait := rfl
@[simp] theorem Warp.onLanes_lockDone (w : Warp) (ls : List Nat) (h : Thread → Thread) : (w.onLanes ls h).lockDone = w.lockDone := rfl
@[simp] theorem Warp.onLanes_xwait (w : Warp) (ls : List Nat) (h : Thread → Thread) : (w.onLanes ls h).xwait = w.xwait := rfl
@[simp] theorem Warp.onLanes_multi (w : Warp) (ls : List Nat) (h : Thread → Thread) : (w.onLanes ls h).multi = w.multi := rfl
@[simp] theorem Warp.onLanes_emptyTimer (w : Warp) (ls : List Nat) (h : Thread → Thread) : (w.onLanes ls h).emptyTimer = w.emptyTimer := rfl
@[simp] theorem Warp.onLanes_haltCause (w : Warp) (ls : List Nat) (h : Thread → Thread) : (w.onLanes ls h).haltCause = w.haltCause := rfl
@[simp] theorem Warp.onLanes_ownHalt (w : Warp) (ls : List Nat) (h : Thread → Thread) : (w.onLanes ls h).ownHalt = w.ownHalt := rfl
@[simp] theorem Warp.onLanes_sprint (w : Warp) (ls : List Nat) (h : Thread → Thread) : (w.onLanes ls h).sprint = w.sprint := rfl
@[simp] theorem Warp.onLanes_candidate (w : Warp) (ls : List Nat) (h : Thread → Thread) : (w.onLanes ls h).candidate = w.candidate := rfl
@[simp] theorem Warp.onLanes_lastIssue (w : Warp) (ls : List Nat) (h : Thread → Thread) : (w.onLanes ls h).lastIssue = w.lastIssue := rfl
@[simp] theorem Warp.onLanes_release (w : Warp) (ls : List Nat) (h : Thread → Thread) : (w.onLanes ls h).release = w.release := rfl
@[simp] theorem Warp.onLanes_heldCmd (w : Warp) (ls : List Nat) (h : Thread → Thread) : (w.onLanes ls h).heldCmd = w.heldCmd := rfl
@[simp] theorem Warp.onLanes_answer (w : Warp) (ls : List Nat) (h : Thread → Thread) : (w.onLanes ls h).answer = w.answer := rfl
@[simp] theorem Warp.onLanes_granted (w : Warp) (ls : List Nat) (h : Thread → Thread) : (w.onLanes ls h).granted = w.granted := rfl
@[simp] theorem Warp.onLanes_skid (w : Warp) (ls : List Nat) (h : Thread → Thread) : (w.onLanes ls h).skid = w.skid := rfl
@[simp] theorem Warp.onLanes_watchAt (w : Warp) (ls : List Nat) (h : Thread → Thread) : (w.onLanes ls h).watchAt = w.watchAt := rfl
@[simp] theorem Warp.onLanes_stored (w : Warp) (ls : List Nat) (h : Thread → Thread) : (w.onLanes ls h).stored = w.stored := rfl
@[simp] theorem Warp.loadRecord_threads (w : Warp) (r : TrapRec) : (w.loadRecord r).threads = w.threads := rfl
@[simp] theorem Warp.loadRecord_s (w : Warp) (r : TrapRec) : (w.loadRecord r).s = w.s := rfl
@[simp] theorem Warp.loadRecord_q (w : Warp) (r : TrapRec) : (w.loadRecord r).q = w.q := rfl
@[simp] theorem Warp.loadRecord_tcause (w : Warp) (r : TrapRec) : (w.loadRecord r).tcause = word ((if r.imp then 2 ^ 31 else 0) + r.cause) := rfl
@[simp] theorem Warp.loadRecord_tlanes (w : Warp) (r : TrapRec) : (w.loadRecord r).tlanes = word r.lanes := rfl
@[simp] theorem Warp.loadRecord_tepc (w : Warp) (r : TrapRec) : (w.loadRecord r).tepc = r.epc := rfl
@[simp] theorem Warp.loadRecord_taddr (w : Warp) (r : TrapRec) : (w.loadRecord r).taddr = r.addr := rfl
@[simp] theorem Warp.loadRecord_tinfo0 (w : Warp) (r : TrapRec) : (w.loadRecord r).tinfo0 = r.info0 := rfl
@[simp] theorem Warp.loadRecord_tinfo1 (w : Warp) (r : TrapRec) : (w.loadRecord r).tinfo1 = r.info1 := rfl
@[simp] theorem Warp.loadRecord_tskid (w : Warp) (r : TrapRec) : (w.loadRecord r).tskid = 0 := rfl
@[simp] theorem Warp.loadRecord_tsave (w : Warp) (r : TrapRec) : (w.loadRecord r).tsave = w.tsave := rfl
@[simp] theorem Warp.loadRecord_tqueue (w : Warp) (r : TrapRec) : (w.loadRecord r).tqueue = w.tqueue := rfl
@[simp] theorem Warp.loadRecord_tlost (w : Warp) (r : TrapRec) : (w.loadRecord r).tlost = w.tlost := rfl
@[simp] theorem Warp.loadRecord_fstat (w : Warp) (r : TrapRec) : (w.loadRecord r).fstat = w.fstat := rfl
@[simp] theorem Warp.loadRecord_ften (w : Warp) (r : TrapRec) : (w.loadRecord r).ften = w.ften := rfl
@[simp] theorem Warp.loadRecord_hchk (w : Warp) (r : TrapRec) : (w.loadRecord r).hchk = w.hchk := rfl
@[simp] theorem Warp.loadRecord_trapMode (w : Warp) (r : TrapRec) : (w.loadRecord r).trapMode = w.trapMode := rfl
@[simp] theorem Warp.loadRecord_pend (w : Warp) (r : TrapRec) : (w.loadRecord r).pend = w.pend := rfl
@[simp] theorem Warp.loadRecord_recent (w : Warp) (r : TrapRec) : (w.loadRecord r).recent = w.recent := rfl
@[simp] theorem Warp.loadRecord_seq (w : Warp) (r : TrapRec) : (w.loadRecord r).seq = w.seq := rfl
@[simp] theorem Warp.loadRecord_kPark (w : Warp) (r : TrapRec) : (w.loadRecord r).kPark = w.kPark := rfl
@[simp] theorem Warp.loadRecord_gapEnd (w : Warp) (r : TrapRec) : (w.loadRecord r).gapEnd = w.gapEnd := rfl
@[simp] theorem Warp.loadRecord_holdWhy (w : Warp) (r : TrapRec) : (w.loadRecord r).holdWhy = w.holdWhy := rfl
@[simp] theorem Warp.loadRecord_yPend (w : Warp) (r : TrapRec) : (w.loadRecord r).yPend = w.yPend := rfl
@[simp] theorem Warp.loadRecord_conv (w : Warp) (r : TrapRec) : (w.loadRecord r).conv = w.conv := rfl
@[simp] theorem Warp.loadRecord_lock (w : Warp) (r : TrapRec) : (w.loadRecord r).lock = w.lock := rfl
@[simp] theorem Warp.loadRecord_lockWait (w : Warp) (r : TrapRec) : (w.loadRecord r).lockWait = w.lockWait := rfl
@[simp] theorem Warp.loadRecord_lockDone (w : Warp) (r : TrapRec) : (w.loadRecord r).lockDone = w.lockDone := rfl
@[simp] theorem Warp.loadRecord_xwait (w : Warp) (r : TrapRec) : (w.loadRecord r).xwait = w.xwait := rfl
@[simp] theorem Warp.loadRecord_multi (w : Warp) (r : TrapRec) : (w.loadRecord r).multi = w.multi := rfl
@[simp] theorem Warp.loadRecord_emptyTimer (w : Warp) (r : TrapRec) : (w.loadRecord r).emptyTimer = w.emptyTimer := rfl
@[simp] theorem Warp.loadRecord_haltCause (w : Warp) (r : TrapRec) : (w.loadRecord r).haltCause = w.haltCause := rfl
@[simp] theorem Warp.loadRecord_ownHalt (w : Warp) (r : TrapRec) : (w.loadRecord r).ownHalt = w.ownHalt := rfl
@[simp] theorem Warp.loadRecord_sprint (w : Warp) (r : TrapRec) : (w.loadRecord r).sprint = w.sprint := rfl
@[simp] theorem Warp.loadRecord_candidate (w : Warp) (r : TrapRec) : (w.loadRecord r).candidate = w.candidate := rfl
@[simp] theorem Warp.loadRecord_lastIssue (w : Warp) (r : TrapRec) : (w.loadRecord r).lastIssue = w.lastIssue := rfl
@[simp] theorem Warp.loadRecord_release (w : Warp) (r : TrapRec) : (w.loadRecord r).release = w.release := rfl
@[simp] theorem Warp.loadRecord_heldCmd (w : Warp) (r : TrapRec) : (w.loadRecord r).heldCmd = w.heldCmd := rfl
@[simp] theorem Warp.loadRecord_answer (w : Warp) (r : TrapRec) : (w.loadRecord r).answer = w.answer := rfl
@[simp] theorem Warp.loadRecord_granted (w : Warp) (r : TrapRec) : (w.loadRecord r).granted = w.granted := rfl
@[simp] theorem Warp.loadRecord_skid (w : Warp) (r : TrapRec) : (w.loadRecord r).skid = w.skid := rfl
@[simp] theorem Warp.loadRecord_watchAt (w : Warp) (r : TrapRec) : (w.loadRecord r).watchAt = w.watchAt := rfl
@[simp] theorem Warp.loadRecord_stored (w : Warp) (r : TrapRec) : (w.loadRecord r).stored = w.stored := rfl
@[simp] theorem Warp.stopSkid_threads (w : Warp) (bs : List HaltBy) (n : Nat) : (w.stopSkid bs n).threads = w.demote.threads.map (fun t => bs.foldl Thread.halt t) := rfl
@[simp] theorem Warp.stopSkid_s (w : Warp) (bs : List HaltBy) (n : Nat) : (w.stopSkid bs n).s = w.demote.s := rfl
@[simp] theorem Warp.stopSkid_q (w : Warp) (bs : List HaltBy) (n : Nat) : (w.stopSkid bs n).q = w.demote.q := rfl
@[simp] theorem Warp.stopSkid_tcause (w : Warp) (bs : List HaltBy) (n : Nat) : (w.stopSkid bs n).tcause = w.demote.tcause := rfl
@[simp] theorem Warp.stopSkid_tlanes (w : Warp) (bs : List HaltBy) (n : Nat) : (w.stopSkid bs n).tlanes = w.demote.tlanes := rfl
@[simp] theorem Warp.stopSkid_tepc (w : Warp) (bs : List HaltBy) (n : Nat) : (w.stopSkid bs n).tepc = w.demote.tepc := rfl
@[simp] theorem Warp.stopSkid_taddr (w : Warp) (bs : List HaltBy) (n : Nat) : (w.stopSkid bs n).taddr = w.demote.taddr := rfl
@[simp] theorem Warp.stopSkid_tinfo0 (w : Warp) (bs : List HaltBy) (n : Nat) : (w.stopSkid bs n).tinfo0 = w.demote.tinfo0 := rfl
@[simp] theorem Warp.stopSkid_tinfo1 (w : Warp) (bs : List HaltBy) (n : Nat) : (w.stopSkid bs n).tinfo1 = w.demote.tinfo1 := rfl
@[simp] theorem Warp.stopSkid_tskid (w : Warp) (bs : List HaltBy) (n : Nat) : (w.stopSkid bs n).tskid = n := rfl
@[simp] theorem Warp.stopSkid_tsave (w : Warp) (bs : List HaltBy) (n : Nat) : (w.stopSkid bs n).tsave = w.demote.tsave := rfl
@[simp] theorem Warp.stopSkid_tqueue (w : Warp) (bs : List HaltBy) (n : Nat) : (w.stopSkid bs n).tqueue = w.demote.tqueue := rfl
@[simp] theorem Warp.stopSkid_tlost (w : Warp) (bs : List HaltBy) (n : Nat) : (w.stopSkid bs n).tlost = w.demote.tlost := rfl
@[simp] theorem Warp.stopSkid_fstat (w : Warp) (bs : List HaltBy) (n : Nat) : (w.stopSkid bs n).fstat = w.demote.fstat := rfl
@[simp] theorem Warp.stopSkid_ften (w : Warp) (bs : List HaltBy) (n : Nat) : (w.stopSkid bs n).ften = w.demote.ften := rfl
@[simp] theorem Warp.stopSkid_hchk (w : Warp) (bs : List HaltBy) (n : Nat) : (w.stopSkid bs n).hchk = w.demote.hchk := rfl
@[simp] theorem Warp.stopSkid_trapMode (w : Warp) (bs : List HaltBy) (n : Nat) : (w.stopSkid bs n).trapMode = w.demote.trapMode := rfl
@[simp] theorem Warp.stopSkid_pend (w : Warp) (bs : List HaltBy) (n : Nat) : (w.stopSkid bs n).pend = w.demote.pend := rfl
@[simp] theorem Warp.stopSkid_recent (w : Warp) (bs : List HaltBy) (n : Nat) : (w.stopSkid bs n).recent = w.demote.recent := rfl
@[simp] theorem Warp.stopSkid_seq (w : Warp) (bs : List HaltBy) (n : Nat) : (w.stopSkid bs n).seq = w.demote.seq := rfl
@[simp] theorem Warp.stopSkid_kPark (w : Warp) (bs : List HaltBy) (n : Nat) : (w.stopSkid bs n).kPark = w.demote.kPark := rfl
@[simp] theorem Warp.stopSkid_gapEnd (w : Warp) (bs : List HaltBy) (n : Nat) : (w.stopSkid bs n).gapEnd = w.demote.gapEnd := rfl
@[simp] theorem Warp.stopSkid_holdWhy (w : Warp) (bs : List HaltBy) (n : Nat) : (w.stopSkid bs n).holdWhy = w.demote.holdWhy := rfl
@[simp] theorem Warp.stopSkid_yPend (w : Warp) (bs : List HaltBy) (n : Nat) : (w.stopSkid bs n).yPend = w.demote.yPend := rfl
@[simp] theorem Warp.stopSkid_conv (w : Warp) (bs : List HaltBy) (n : Nat) : (w.stopSkid bs n).conv = w.demote.conv := rfl
@[simp] theorem Warp.stopSkid_lock (w : Warp) (bs : List HaltBy) (n : Nat) : (w.stopSkid bs n).lock = w.demote.lock := rfl
@[simp] theorem Warp.stopSkid_lockWait (w : Warp) (bs : List HaltBy) (n : Nat) : (w.stopSkid bs n).lockWait = w.demote.lockWait := rfl
@[simp] theorem Warp.stopSkid_lockDone (w : Warp) (bs : List HaltBy) (n : Nat) : (w.stopSkid bs n).lockDone = w.demote.lockDone := rfl
@[simp] theorem Warp.stopSkid_xwait (w : Warp) (bs : List HaltBy) (n : Nat) : (w.stopSkid bs n).xwait = w.demote.xwait := rfl
@[simp] theorem Warp.stopSkid_multi (w : Warp) (bs : List HaltBy) (n : Nat) : (w.stopSkid bs n).multi = w.demote.multi := rfl
@[simp] theorem Warp.stopSkid_emptyTimer (w : Warp) (bs : List HaltBy) (n : Nat) : (w.stopSkid bs n).emptyTimer = w.demote.emptyTimer := rfl
@[simp] theorem Warp.stopSkid_haltCause (w : Warp) (bs : List HaltBy) (n : Nat) : (w.stopSkid bs n).haltCause = causeSibHalt := rfl
@[simp] theorem Warp.stopSkid_ownHalt (w : Warp) (bs : List HaltBy) (n : Nat) : (w.stopSkid bs n).ownHalt = (w.demote.ownHalt || bs.contains .watch) := rfl
@[simp] theorem Warp.stopSkid_sprint (w : Warp) (bs : List HaltBy) (n : Nat) : (w.stopSkid bs n).sprint = w.demote.sprint := rfl
@[simp] theorem Warp.stopSkid_candidate (w : Warp) (bs : List HaltBy) (n : Nat) : (w.stopSkid bs n).candidate = w.demote.candidate := rfl
@[simp] theorem Warp.stopSkid_lastIssue (w : Warp) (bs : List HaltBy) (n : Nat) : (w.stopSkid bs n).lastIssue = w.demote.lastIssue := rfl
@[simp] theorem Warp.stopSkid_release (w : Warp) (bs : List HaltBy) (n : Nat) : (w.stopSkid bs n).release = w.demote.release := rfl
@[simp] theorem Warp.stopSkid_heldCmd (w : Warp) (bs : List HaltBy) (n : Nat) : (w.stopSkid bs n).heldCmd = w.demote.heldCmd := rfl
@[simp] theorem Warp.stopSkid_answer (w : Warp) (bs : List HaltBy) (n : Nat) : (w.stopSkid bs n).answer = w.demote.answer := rfl
@[simp] theorem Warp.stopSkid_granted (w : Warp) (bs : List HaltBy) (n : Nat) : (w.stopSkid bs n).granted = w.demote.granted := rfl
@[simp] theorem Warp.stopSkid_skid (w : Warp) (bs : List HaltBy) (n : Nat) : (w.stopSkid bs n).skid = none := rfl
@[simp] theorem Warp.stopSkid_watchAt (w : Warp) (bs : List HaltBy) (n : Nat) : (w.stopSkid bs n).watchAt = w.demote.watchAt := rfl
@[simp] theorem Warp.stopSkid_stored (w : Warp) (bs : List HaltBy) (n : Nat) : (w.stopSkid bs n).stored = w.demote.stored := rfl
@[simp] theorem Thread.putV_pc (t : Thread) (r : Nat) (x : Word) (b : Byte) : (t.putV r x b).pc = t.pc := rfl
@[simp] theorem Thread.putV_st (t : Thread) (r : Nat) (x : Word) (b : Byte) : (t.putV r x b).st = t.st := rfl
@[simp] theorem Thread.putV_v (t : Thread) (r : Nat) (x : Word) (b : Byte) : (t.putV r x b).v = setNth t.v r x := rfl
@[simp] theorem Thread.putV_tags (t : Thread) (r : Nat) (x : Word) (b : Byte) : (t.putV r x b).tags = setNth t.tags r b := rfl
@[simp] theorem Thread.putV_p (t : Thread) (r : Nat) (x : Word) (b : Byte) : (t.putV r x b).p = t.p := rfl
@[simp] theorem Thread.putV_passed (t : Thread) (r : Nat) (x : Word) (b : Byte) : (t.putV r x b).passed = t.passed := rfl
@[simp] theorem Thread.putV_oneShot (t : Thread) (r : Nat) (x : Word) (b : Byte) : (t.putV r x b).oneShot = t.oneShot := rfl
@[simp] theorem Thread.putV_yielded (t : Thread) (r : Nat) (x : Word) (b : Byte) : (t.putV r x b).yielded = t.yielded := rfl
@[simp] theorem Thread.putV_retry (t : Thread) (r : Nat) (x : Word) (b : Byte) : (t.putV r x b).retry = t.retry := rfl
@[simp] theorem Thread.putV_begun (t : Thread) (r : Nat) (x : Word) (b : Byte) : (t.putV r x b).begun = t.begun := rfl
@[simp] theorem Thread.putV_safePc (t : Thread) (r : Nat) (x : Word) (b : Byte) : (t.putV r x b).safePc = t.safePc := rfl
@[simp] theorem Thread.putV_reqDone (t : Thread) (r : Nat) (x : Word) (b : Byte) : (t.putV r x b).reqDone = t.reqDone := rfl
@[simp] theorem Thread.putV_since (t : Thread) (r : Nat) (x : Word) (b : Byte) : (t.putV r x b).since = t.since := rfl
@[simp] theorem Thread.putV_saved (t : Thread) (r : Nat) (x : Word) (b : Byte) : (t.putV r x b).saved = t.saved := rfl
@[simp] theorem Wg.dispose_launch (g : Wg) (r : TrapRec) : (g.dispose r).launch = g.launch := rfl
@[simp] theorem Wg.dispose_job (g : Wg) (r : TrapRec) : (g.dispose r).job = g.job := rfl
@[simp] theorem Wg.dispose_number (g : Wg) (r : TrapRec) : (g.dispose r).number = g.number := rfl
@[simp] theorem Wg.dispose_x (g : Wg) (r : TrapRec) : (g.dispose r).x = g.x := rfl
@[simp] theorem Wg.dispose_y (g : Wg) (r : TrapRec) : (g.dispose r).y = g.y := rfl
@[simp] theorem Wg.dispose_z (g : Wg) (r : TrapRec) : (g.dispose r).z = g.z := rfl
@[simp] theorem Wg.dispose_warps (g : Wg) (r : TrapRec) : (g.dispose r).warps = g.warps.map (fun w => { w.demote with threads := w.demote.threads.map (fun t => t.halt .fatal), haltCause := r.cause, tqueue := [], skid := none }) := rfl
@[simp] theorem Wg.dispose_nregs (g : Wg) (r : TrapRec) : (g.dispose r).nregs = g.nregs := rfl
@[simp] theorem Wg.dispose_ntiles (g : Wg) (r : TrapRec) : (g.dispose r).ntiles = g.ntiles := rfl
@[simp] theorem Wg.dispose_scratch (g : Wg) (r : TrapRec) : (g.dispose r).scratch = g.scratch := rfl
@[simp] theorem Wg.dispose_base (g : Wg) (r : TrapRec) : (g.dispose r).base = g.base := rfl
@[simp] theorem Wg.dispose_threads (g : Wg) (r : TrapRec) : (g.dispose r).threads = g.threads := rfl
@[simp] theorem Wg.dispose_cls (g : Wg) (r : TrapRec) : (g.dispose r).cls = g.cls := rfl
@[simp] theorem Wg.dispose_phaseMode (g : Wg) (r : TrapRec) : (g.dispose r).phaseMode = g.phaseMode := rfl
@[simp] theorem Wg.dispose_cluster (g : Wg) (r : TrapRec) : (g.dispose r).cluster = g.cluster := rfl
@[simp] theorem Wg.dispose_rank (g : Wg) (r : TrapRec) : (g.dispose r).rank = g.rank := rfl
@[simp] theorem Wg.dispose_members (g : Wg) (r : TrapRec) : (g.dispose r).members = g.members := rfl
@[simp] theorem Wg.dispose_tiles (g : Wg) (r : TrapRec) : (g.dispose r).tiles = g.tiles := rfl
@[simp] theorem Wg.dispose_layouts (g : Wg) (r : TrapRec) : (g.dispose r).layouts = g.layouts := rfl
@[simp] theorem Wg.dispose_fmt (g : Wg) (r : TrapRec) : (g.dispose r).fmt = g.fmt := rfl
@[simp] theorem Wg.dispose_fmtWait (g : Wg) (r : TrapRec) : (g.dispose r).fmtWait = g.fmtWait := rfl
@[simp] theorem Wg.dispose_lines (g : Wg) (r : TrapRec) : (g.dispose r).lines = g.lines := rfl
@[simp] theorem Wg.dispose_bars (g : Wg) (r : TrapRec) : (g.dispose r).bars = g.bars := rfl
@[simp] theorem Wg.dispose_caught (g : Wg) (r : TrapRec) : (g.dispose r).caught = g.caught := rfl
@[simp] theorem Wg.dispose_ct (g : Wg) (r : TrapRec) : (g.dispose r).ct = g.ct := rfl
@[simp] theorem Wg.dispose_mt (g : Wg) (r : TrapRec) : (g.dispose r).mt = g.mt := rfl
@[simp] theorem Wg.dispose_xtLast (g : Wg) (r : TrapRec) : (g.dispose r).xtLast = g.xtLast := rfl
@[simp] theorem Wg.dispose_xtOpen (g : Wg) (r : TrapRec) : (g.dispose r).xtOpen = g.xtOpen := rfl
@[simp] theorem Wg.dispose_copies (g : Wg) (r : TrapRec) : (g.dispose r).copies = g.copies := rfl
@[simp] theorem Wg.dispose_sends (g : Wg) (r : TrapRec) : (g.dispose r).sends = g.sends := rfl
@[simp] theorem Wg.dispose_receives (g : Wg) (r : TrapRec) : (g.dispose r).receives = g.receives := rfl
@[simp] theorem Wg.dispose_pending (g : Wg) (r : TrapRec) : (g.dispose r).pending = g.pending := rfl
@[simp] theorem Wg.dispose_drain (g : Wg) (r : TrapRec) : (g.dispose r).drain = g.drain := rfl
@[simp] theorem Wg.dispose_deadline (g : Wg) (r : TrapRec) : (g.dispose r).deadline = g.deadline := rfl
@[simp] theorem Wg.dispose_cancel (g : Wg) (r : TrapRec) : (g.dispose r).cancel = g.cancel := rfl
@[simp] theorem Wg.dispose_cancelTrap (g : Wg) (r : TrapRec) : (g.dispose r).cancelTrap = g.cancelTrap := rfl
@[simp] theorem Wg.dispose_bconf (g : Wg) (r : TrapRec) : (g.dispose r).bconf = g.bconf := rfl
@[simp] theorem Wg.dispose_swsel (g : Wg) (r : TrapRec) : (g.dispose r).swsel = g.swsel := rfl
@[simp] theorem Wg.dispose_swheld (g : Wg) (r : TrapRec) : (g.dispose r).swheld = g.swheld := rfl
@[simp] theorem Wg.dispose_pushed (g : Wg) (r : TrapRec) : (g.dispose r).pushed = g.pushed := rfl
@[simp] theorem Wg.dispose_haltReq (g : Wg) (r : TrapRec) : (g.dispose r).haltReq = g.haltReq := rfl
@[simp] theorem Wg.dispose_haltsDue (g : Wg) (r : TrapRec) : (g.dispose r).haltsDue = g.haltsDue := rfl
@[simp] theorem Wg.dispose_broadcast (g : Wg) (r : TrapRec) : (g.dispose r).broadcast = g.broadcast := rfl
@[simp] theorem Wg.dispose_dump (g : Wg) (r : TrapRec) : (g.dispose r).dump = g.dump := rfl
@[simp] theorem Wg.dispose_swapping (g : Wg) (r : TrapRec) : (g.dispose r).swapping = g.swapping := rfl
@[simp] theorem Wg.dispose_traceLost (g : Wg) (r : TrapRec) : (g.dispose r).traceLost = g.traceLost := rfl
@[simp] theorem Wg.dispose_traceNotice (g : Wg) (r : TrapRec) : (g.dispose r).traceNotice = g.traceNotice := rfl
@[simp] theorem Wg.dispose_dead (g : Wg) (r : TrapRec) : (g.dispose r).dead = some (g.dead.getD r) := rfl
@[simp] theorem Wg.dispose_double (g : Wg) (r : TrapRec) : (g.dispose r).double = g.double := rfl
@[simp] theorem Wg.dispose_complete (g : Wg) (r : TrapRec) : (g.dispose r).complete = g.complete := rfl
@[simp] theorem Wg.dispose_placed (g : Wg) (r : TrapRec) : (g.dispose r).placed = g.placed := rfl

end Sys2Proof.Machine
end

