-- ==== Sys2Proof/Laws/Lookup.lean ====
section
/-! SUPPORT. Cores, workgroups and warps after a change of one of them. -/

namespace Sys2Proof.Machine

theorem modifyNth_get {α : Type} (l : List α) (i j : Nat) (h : α → α) :
    (modifyNth l i h)[j]? = if i = j then l[j]?.map h else l[j]? := by
  simp only [modifyNth, List.getElem?_modify]
  split <;> simp

theorem setNth_get {α : Type} (l : List α) (i j : Nat) (v : α) :
    (setNth l i v)[j]? = if i = j then (if i < l.length then some v else none) else l[j]? := by
  simp only [setNth, List.getElem?_set]

theorem nth_setNth {α : Type} (l : List α) (i j : Nat) (v d : α) (h : i < l.length) :
    nth (setNth l i v) j d = if i = j then v else nth l j d := by
  simp only [nth, setNth, List.getD_eq_getElem?_getD, List.getElem?_set]
  split <;> simp [*]

@[simp] theorem modifyNth_length {α : Type} (l : List α) (i : Nat) (h : α → α) : (modifyNth l i h).length = l.length := by
  simp [modifyNth]

@[simp] theorem setNth_length {α : Type} (l : List α) (i : Nat) (v : α) : (setNth l i v).length = l.length := by
  simp [setNth]

theorem Part.core?_onCore (p : Part) (i j : Nat) (h : Core → Core) :
    (p.onCore i h).core? j = if i = j then (p.core? j).map h else p.core? j :=
  modifyNth_get p.cores i j h

theorem Core.wg?_onWg (k : Core) (i j : Nat) (h : Wg → Wg) : (k.onWg i h).wg? j = if i = j then (k.wg? j).map h else k.wg? j := by
  simp only [Core.wg?, Core.onWg_slots, modifyNth_get]
  split
  · cases k.slots[j]? with
    | none => rfl
    | some x => cases x <;> rfl
  · rfl

/-- The workgroup of a slot after a change of a workgroup. -/
theorem Part.wg?_onWg (p : Part) (i j i' j' : Nat) (h : Wg → Wg) :
    (p.onWg i j h).wg? i' j' = if i = i' ∧ j = j' then (p.wg? i' j').map h else p.wg? i' j' := by
  simp only [Part.wg?, Part.onWg, Part.core?_onCore]
  by_cases hi : i = i'
  · rw [if_pos hi]
    cases p.core? i' with
    | none => simp
    | some k => simp only [Option.map_some, Option.bind_some, Core.wg?_onWg, hi, true_and]
  · rw [if_neg hi, if_neg (by omega)]

@[simp] theorem Part.wg?_onWg_same (p : Part) (i j : Nat) (h : Wg → Wg) : (p.onWg i j h).wg? i j = (p.wg? i j).map h := by
  rw [Part.wg?_onWg, if_pos ⟨rfl, rfl⟩]

theorem Part.wg?_onWg_other (p : Part) {i j i' j' : Nat} (h : Wg → Wg) (hn : i ≠ i' ∨ j ≠ j') : (p.onWg i j h).wg? i' j' = p.wg? i' j' := by
  rw [Part.wg?_onWg, if_neg (by omega)]

theorem Part.wg?_onWarp (p : Part) (w : WarpRef) (i j : Nat) (h : Warp → Warp) :
    (p.onWarp w h).wg? i j = if w.core = i ∧ w.slot = j then (p.wg? i j).map (fun g => g.onWarp w.warp h) else p.wg? i j :=
  Part.wg?_onWg p w.core w.slot i j _

/-- The warp that was changed. -/
@[simp] theorem Part.warp?_onWarp_same (p : Part) (w : WarpRef) (h : Warp → Warp) : (p.onWarp w h).warp? w = (p.warp? w).map h := by
  simp only [Part.warp?, Part.wg?_onWarp, and_self, if_true]
  cases p.wg? w.core w.slot with
  | none => rfl
  | some g => simp only [Option.map_some, Option.bind_some, Wg.onWarp_warps, modifyNth_get, if_true]

/-- Every other warp. -/
theorem Part.warp?_onWarp_other (p : Part) {w w' : WarpRef} (h : Warp → Warp) (hn : w' ≠ w) : (p.onWarp w h).warp? w' = p.warp? w' := by
  simp only [Part.warp?, Part.wg?_onWarp]
  split
  · rename_i hc
    cases p.wg? w'.core w'.slot with
    | none => rfl
    | some g =>
      simp only [Option.map_some, Option.bind_some, Wg.onWarp_warps, modifyNth_get]
      rw [if_neg]
      intro hw
      apply hn
      cases w; cases w'; simp_all
  · rfl

/-- Warps of another workgroup than the one changed. -/
theorem Part.warp?_onWg_other (p : Part) {i j : Nat} {w : WarpRef} (h : Wg → Wg) (hn : i ≠ w.core ∨ j ≠ w.slot) :
    (p.onWg i j h).warp? w = p.warp? w := by
  simp only [Part.warp?, Part.wg?_onWg_other p h hn]

@[simp] theorem Part.warp?_onDie (p : Part) (i : Nat) (h : Die → Die) (w : WarpRef) : (p.onDie i h).warp? w = p.warp? w := rfl
@[simp] theorem Part.warp?_onCox (p : Part) (h : Cox → Cox) (w : WarpRef) : (p.onCox h).warp? w = p.warp? w := rfl
@[simp] theorem Part.warp?_onMgmt (p : Part) (h : Mgmt → Mgmt) (w : WarpRef) : (p.onMgmt h).warp? w = p.warp? w := rfl
@[simp] theorem Part.wg?_onDie (p : Part) (i : Nat) (h : Die → Die) (c j : Nat) : (p.onDie i h).wg? c j = p.wg? c j := rfl
@[simp] theorem Part.wg?_onCox (p : Part) (h : Cox → Cox) (c j : Nat) : (p.onCox h).wg? c j = p.wg? c j := rfl
@[simp] theorem Part.wg?_onMgmt (p : Part) (h : Mgmt → Mgmt) (c j : Nat) : (p.onMgmt h).wg? c j = p.wg? c j := rfl

end Sys2Proof.Machine
end

