-- ==== Sys2Proof/Laws/Issue.lean ====
section
/-! SUPPORT. What an instruction that acts leads to: the state of its act's result, and the results of lane bodies. -/

namespace Sys2Proof.Machine

/-- What it takes to come to the checks of its own: the instruction is well formed, and nothing before them stops or holds it. -/
theorem reaches_spec {s : State} {i : Instr} {c : Ctx} (h : State.reaches s i = some c) :
    partsOf i = some c.parts ∧ wf i = true ∧ c.heldFirst s = none ∧ c.before s = none ∧ c.early = false ∧
      c.heldLast s = false ∧ s.ctx? c.parts = some c := by
  unfold State.reaches at h
  split at h
  · cases h
  · rename_i p hp
    split at h
    · cases h
    · rename_i c' hc
      split at h
      · rename_i hx
        cases h
        have : c.parts = p := by
          revert hc; simp only [State.ctx?]
          split <;> try simp
          split <;> try simp
          split <;> simp
          rintro rfl; rfl
        subst this
        simp at hx
        exact ⟨hp, hx.1.1.1.1, hx.1.1.1.2, hx.1.1.2, hx.1.2, hx.2, hc⟩
      · cases h

/-- The body of an instruction that runs through the steps of R129 is its act. -/
theorem checkTrap_actOf (c : Ctx) (s : State) : c.checkTrap s (actOf c.parts) = c.checkTrap s c.parts.globalBody := by
  unfold Ctx.checkTrap
  cases h : opGlobal c.parts.op
  · simp
  · have : actOf c.parts = c.parts.globalBody := by
      unfold actOf Parts.globalBody
      revert h
      cases c.parts.op <;> simp [opGlobal]
    rw [this]

/-- What it takes to act besides. -/
theorem acts_spec {s : State} {i : Instr} {c : Ctx} (h : State.acts s i = some c) :
    s.reaches i = some c ∧ c.checkTrap s c.parts.globalBody = none ∧ (c.codeWatch s).2 = none := by
  unfold State.acts at h
  split at h
  · cases h
  · rename_i c' hc
    split at h
    · rename_i hx
      cases h
      simp at hx
      exact ⟨hc, hx.1, hx.2⟩
    · cases h

/-- The trap of a check that comes before any watch evaluation is taken, and no code match is counted (R241). -/
theorem exec_checkTrap {s : State} {i : Instr} {c : Ctx} {t : TrapInfo} (h : State.reaches s i = some c)
    (ht : c.checkTrap s c.parts.globalBody = some t) : exec i s = .next ((c.passSafePoint s).raise c t) := by
  obtain ⟨hp, _, h1, hb, he, hl, hc⟩ := reaches_spec h
  rw [← checkTrap_actOf] at ht
  rw [exec_issue hp, issue, hc]
  simp [h1, hb, he, hl, ht]

/-- A stop by a code predicate is taken in place of the instruction. -/
theorem exec_codeStop {s : State} {i : Instr} {c : Ctx} {st : Stop} (h : State.reaches s i = some c)
    (ht : c.checkTrap s c.parts.globalBody = none) (hs : (c.codeWatch s).2 = some st) :
    exec i s = .next { s with part := (c.codeWatch s).1.takeStop c.tbase c.ref st c.group c.pc } := by
  obtain ⟨hp, _, h1, hb, he, hl, hc⟩ := reaches_spec h
  rw [← checkTrap_actOf] at ht
  rw [exec_issue hp, issue, hc]
  simp [h1, hb, he, hl, ht, hs]

/-- The meaning of an instruction that acts is the resolution of the act of its opcode. -/
theorem exec_acts {s : State} {i : Instr} {c : Ctx} (h : State.acts s i = some c) :
    exec i s = .next (c.resolve s (c.counted s) (actOf c.parts c (c.counted s))) := by
  obtain ⟨hr, ht, hs⟩ := acts_spec h
  obtain ⟨hp, _, h1, hb, he, hl, hc⟩ := reaches_spec hr
  rw [← checkTrap_actOf] at ht
  rw [exec_issue hp, issue, hc]
  simp [h1, hb, he, hl, ht, hs]

/-- The same with the act named. -/
theorem exec_act {s : State} {i : Instr} {c : Ctx} {a : Act} (h : State.acts s i = some c) (ha : actOf c.parts c (c.counted s) = a) :
    exec i s = .next (c.resolve s (c.counted s) a) := by rw [exec_acts h, ha]

/-- No flags, no floating trap and no format watch. -/
theorem enabledTrap_zero (f) : enabledTrap f 0 = none := by simp [enabledTrap]

theorem fexcOf_zero : fexcOf 0 = 0 := by simp [fexcOf, bitNat]

/-- The FEXC bits of flags, bit by bit. -/
theorem fexcOf_bit : ∀ (f : Flags) (i : Fin 6), (fexcOf f).testBit i = f.getLsbD ([7, 2, 3, 4, 5, 6].getD i 0) := by decide +kernel

theorem fexcOf_lt : ∀ f : Flags, fexcOf f < 64 := by decide +kernel

theorem fexcOf_and (f g : Flags) : fexcOf (f &&& g) = fexcOf f &&& fexcOf g := by
  apply Nat.eq_of_testBit_eq
  intro i
  rw [Nat.testBit_and]
  by_cases hi : i < 6
  · rw [fexcOf_bit _ ⟨i, hi⟩, fexcOf_bit f ⟨i, hi⟩, fexcOf_bit g ⟨i, hi⟩, BitVec.getLsbD_and]
  · have hp : 64 ≤ 2 ^ i := Nat.pow_le_pow_right (n := 2) (i := 6) (by omega) (by omega)
    have low (h : Flags) : (fexcOf h).testBit i = false := Nat.testBit_lt_two_pow (Nat.lt_of_lt_of_le (fexcOf_lt h) hp)
    simp [low]

/-- Fewer flags on fewer lanes meet no format watch that more do not meet. -/
theorem formatMatches_mono {ps : List (Nat × Predicate)} {pc : Nat} {ls ls' : List Nat} {fl : Flags} {g : Nat → Flags} (hs : ∀ l ∈ ls', l ∈ ls)
    (h : formatMatches ps pc (ls.map (fun l => (l, fl))) = []) : formatMatches ps pc (ls'.map (fun l => (l, fl &&& g l))) = [] := by
  simp only [formatMatches, List.filterMap_eq_nil_iff] at h ⊢
  intro q hq
  have := h q hq
  simp only [ite_eq_right_iff, reduceCtorEq, imp_false, Bool.and_eq_true, not_and, Bool.not_eq_true, Bool.not_eq_false',
    List.isEmpty_iff, decide_eq_true_eq] at this ⊢
  intro h1
  have := this h1
  rw [List.filter_eq_nil_iff] at this ⊢
  intro a ha
  obtain ⟨l, hl, rfl⟩ := List.mem_map.mp ha
  have := this (l, fl) (List.mem_map.mpr ⟨l, hs l hl, rfl⟩)
  simp only [fexcOf_and, Bool.and_eq_true, bne_iff_ne, ne_eq, not_and, Decidable.not_not] at this ⊢
  intro ht
  rw [Nat.and_assoc, Nat.and_comm (fexcOf (g l)), ← Nat.and_assoc, this ht, Nat.zero_and]

/-- No flags meet no format watch. -/
theorem formatMatches_zero (ps : List (Nat × Predicate)) (pc : Nat) (ls : List Nat) :
    formatMatches ps pc (ls.map (fun l => (l, (0 : Flags)))) = [] := by
  simp only [formatMatches, List.filterMap_eq_nil_iff, ite_eq_right_iff, reduceCtorEq, imp_false]
  intro q _
  have : (ls.map (fun l => (l, (0 : Flags)))).filter (fun r => q.2.lanes.testBit r.1 && (fexcOf r.2 &&& q.2.fexc) != 0) = [] := by
    rw [List.filter_eq_nil_iff]
    intro a ha
    obtain ⟨l, _, rfl⟩ := List.mem_map.mp ha
    simp [show fexcOf 0#8 = 0 from fexcOf_zero]
  rw [this]
  simp

theorem quiet_zero (c : Ctx) (s) : c.quiet s 0 = true := by
  simp only [Ctx.quiet, enabledTrap_zero, formatMatches_zero]
  rfl

theorem evalMatches_nil (p : Part) (w group pc) : p.evalMatches w group pc [] = (p, none) := rfl

/-- The scope of a watch predicate does not depend on the warps. -/
theorem inScope_onWarp (k : Core) (i j : Nat) (h : Warp → Warp) (d : Predicate) (slot : Nat) :
    (k.onWg i (fun g => g.onWarp j h)).inScope d slot = k.inScope d slot := by
  have launch (o : Nat) : ((k.onWg i (fun g => g.onWarp j h)).wg? o).map (·.launch) = (k.wg? o).map (·.launch) := by
    rw [Core.wg?_onWg]
    split
    · cases k.wg? o <;> rfl
    · rfl
  unfold Core.inScope
  cases d.owner with
  | none => rfl
  | some o =>
    have ha := launch o
    have hb := launch slot
    dsimp only
    generalize (k.onWg i (fun g => g.onWarp j h)).wg? o = a at ha ⊢
    generalize (k.onWg i (fun g => g.onWarp j h)).wg? slot = b at hb ⊢
    generalize k.wg? o = a' at ha ⊢
    generalize k.wg? slot = b' at hb ⊢
    cases a <;> cases a' <;> cases b <;> cases b' <;> simp_all

/-- What results leave of a core: anything that does not depend on its warps. -/
theorem core_write (c : Ctx) (s : State) (ls : List PendLane) (fl : Flags) {α : Type} (f : Core → α)
    (h : ∀ (k : Core) (i j : Nat) (g : Warp → Warp), f (k.onWg i (fun x => x.onWarp j g)) = f k) :
    ((c.write s ls fl).part.core? c.ref.core).map f = (s.part.core? c.ref.core).map f := by
  simp only [Ctx.write, Part.onWarp, Part.onWg, Part.core?_onCore, if_pos]
  cases s.part.core? c.ref.core <;> simp [h]

/-- The watch predicates of a workgroup after results. -/
theorem activePreds_write (c : Ctx) (s : State) (ls : List PendLane) (fl : Flags) (slot : Nat) :
    ((c.write s ls fl).part.core? c.ref.core).map (fun k => k.activePreds slot) = (s.part.core? c.ref.core).map (fun k => k.activePreds slot) := by
  refine core_write c s ls fl _ (fun k i j g => ?_)
  simp only [Core.activePreds, inScope_onWarp, Core.onWg_oldPreds, Core.onWg_preds]

/-- A lane body that answers quietly writes its results, and the group goes on. -/
theorem laneAct_ok {body : LaneBody} {c : Ctx} {s : State} {o : LaneOut}
    (hb : body (c.sees s) = .ok o) (hq : c.quiet s o.flags = true) :
    laneAct body c (c.counted s) = .done (c.write (c.counted s) o.lanes o.flags) (fun _ => c.next) := by
  have hb' : body (c.env (c.counted s)) = .ok o := hb
  unfold Ctx.quiet at hq
  rw [Bool.and_eq_true, Option.isNone_iff_eq_none] at hq
  have ha : (c.sees s).acting = c.acting (c.counted s).part.oracle := rfl
  rw [ha] at hq
  unfold laneAct Ctx.raiseFlags
  have h2 : formatMatches ((((c.counted s).part.core? c.ref.core).map (fun k => k.activePreds c.ref.slot)).getD []) c.pc
      (((c.acting (c.counted s).part.oracle).filter (fun l => !c.suppressed l)).map (fun l => (l, o.raisedBy l))) = [] :=
    formatMatches_mono (fun l hl => (List.mem_filter.mp hl).1) (List.isEmpty_iff.mp hq.2)
  simp only [hb', hq.1]
  rw [activePreds_write, h2]
  simp

/-- An instruction with such a body. -/
theorem exec_lane_ok {s : State} {i : Instr} {c : Ctx} {body : LaneBody} (o : LaneOut) (h : State.acts s i = some c)
    (ha : actOf c.parts = laneAct body) (hb : body (c.sees s) = .ok o) (hq : c.quiet s o.flags = true) :
    exec i s = .next (c.wrote s o.lanes o.flags (fun _ => c.next)) := by
  rw [exec_acts h, ha, laneAct_ok hb hq, Ctx.resolve, Ctx.wrote]

theorem orFlags_map_zero {α} (l : List α) : orFlags (l.map (fun _ => 0)) = 0 := by
  have : ∀ (a : Flags), (l.map (fun _ => (0:Flags))).foldl (· ||| ·) a = a := by
    induction l with
    | nil => intro a; rfl
    | cons x xs ih => intro a; rw [List.map_cons, List.foldl_cons, ih]; exact BitVec.or_zero
  exact this 0

/-- A lane body that writes some registers in every acting lane. -/
theorem exec_gives {s : State} {i : Instr} {c : Ctx} {body : LaneBody} (w : Nat → List (Target × Word × Byte)) (fl : Flags) (h : State.acts s i = some c)
    (ha : actOf c.parts = laneAct body)
    (raised : List (Nat × Flags))
    (hb : body (c.sees s) = .ok ⟨(c.sees s).acting.map (fun l => laneWrites l (w l)), fl, raised⟩) (hq : c.quiet s fl = true) :
    exec i s = .next (c.gives s w fl) := by
  rw [exec_lane_ok _ h ha hb hq, Ctx.gives]

/-- A map over lanes none of which traps. -/
theorem mapLanes_ok {α} {f : Nat → Except TrapInfo α} {g : Nat → α} {ls : List Nat} (h : ∀ l ∈ ls, f l = .ok (g l)) :
    mapLanes f ls = .ok (ls.map g) := by
  induction ls with
  | nil => rfl
  | cons a as ih =>
    simp only [mapLanes, h a (by simp), ih (fun l hl => h l (by simp [hl])), List.map_cons]

/-- The results of lanes, gathered. -/
theorem gather_map {ls : List Nat} (w : Nat → List (Target × Word × Byte)) (fl : Nat → Flags) :
    gather (ls.map (fun l => (laneWrites l (w l), fl l))) = ⟨ls.map (fun l => laneWrites l (w l)), orFlags (ls.map fl), ls.map (fun l => (l, fl l))⟩ := by
  simp [gather, Function.comp_def, laneWrites]

/-- The writes of a group of registers, register by register. -/
theorem groupWrites_eq (d : BitVec 6) (w : BitVec 2) (ws : List Word) (ts : List Byte) :
    groupWrites (groupRegs d w) ws ts = vGroup d w (fun k => (nth ws k 0, nth ts k 0)) := by
  simp [groupWrites, groupRegs, vGroup, List.zipIdx_map, List.map_map, Function.comp_def]
  apply List.ext_getElem <;> simp

/-! ### Groups of registers -/

theorem vGroup_congr {d : BitVec 6} {w : BitVec 2} {v v' : Nat → Word × Byte} (h : ∀ k, k < 2 ^ w.toNat → v k = v' k) :
    vGroup d w v = vGroup d w v' := by
  simp only [vGroup]
  apply List.map_congr_left
  intro k hk
  rw [h k (by simpa using hk)]

theorem words_nth {e : Env} {l : Nat} {r : BitVec 6} {w : BitVec 2} {k : Nat} (h : k < 2 ^ w.toNat) :
    nth (e.words l (groupRegs r w)) k 0 = e.v l (r.toNat + k) := by
  simp [Env.words, groupRegs, nth, h]

theorem tags_nth {e : Env} {l : Nat} {r : BitVec 6} {w : BitVec 2} {k : Nat} (h : k < 2 ^ w.toNat) :
    nth (e.tags l (groupRegs r w)) k 0 = e.tag l (r.toNat + k) := by
  simp [Env.tags, groupRegs, nth, h]

theorem bWords_nth {e : Env} {f : Base} {x : Ext} {l k : Nat} (h : k < 2 ^ x.wb.toNat) :
    nth (e.bWords (uniformB x) l (groupRegs f.b x.wb)) k 0 = e.opB f x l k := by
  unfold Env.bWords Env.opB
  split <;> simp [groupRegs, nth, h]

/-! ### An instruction that acts is well formed -/

theorem wf_parts {i : Instr} {p : Parts} (h : partsOf i = some p) (hw : wf i = true) : partsOk p = true := by
  simpa [wf, h] using hw

theorem acts_fields {s : State} {i : Instr} {c : Ctx} (h : s.acts i = some c) : fieldsOk c.parts.op c.f c.x c.parts.isImm = true := by
  have := wf_parts (reaches_spec (acts_spec h).1).1 (reaches_spec (acts_spec h).1).2.1
  simp only [partsOk, Bool.and_eq_true] at this
  exact this.1.2

theorem acts_aligned {s : State} {i : Instr} {c : Ctx} (h : s.acts i = some c) : alignmentOk c.parts.op c.f c.x c.parts.isImm = true := by
  have := wf_parts (reaches_spec (acts_spec h).1).1 (reaches_spec (acts_spec h).1).2.1
  simp only [partsOk, Bool.and_eq_true] at this
  exact this.2

end Sys2Proof.Machine
end

