-- ==== Sys2Proof/Laws/Memory.lean ====
section
/-! SUPPORT. Device memory as a list in canonical form: what is read after a write, and that writing keeps the form. -/

namespace Sys2Proof.Machine

theorem Memory.wfFrom_mono {m : Memory} {n n' : Nat} (h : Memory.wfFrom n m = true) (hn : n' ≤ n) : Memory.wfFrom n' m = true := by
  cases m with
  | nil => rfl
  | cons c m =>
    simp [Memory.wfFrom] at *
    exact ⟨⟨by omega, h.1.2⟩, h.2⟩

/-- Below its least address a memory reads as the background. -/
theorem Memory.read_below {m : Memory} {n a : Nat} (h : Memory.wfFrom n m = true) (ha : a < n) : m.read a = Memory.background := by
  cases m with
  | nil => rfl
  | cons c m =>
    simp [Memory.wfFrom] at h
    simp only [Memory.read]
    rw [if_neg (by omega), if_pos (by omega)]

theorem Memory.wfFrom_write {m : Memory} {n a : Nat} {b : Byte} (h : Memory.wfFrom n m = true) (ha : n ≤ a) :
    Memory.wfFrom n (m.write a b) = true := by
  induction m generalizing n with
  | nil => simp only [Memory.write]; split <;> simp_all [Memory.wfFrom]
  | cons c m ih =>
    simp [Memory.wfFrom] at h
    simp only [Memory.write]
    split
    · split
      · simpa [Memory.wfFrom] using h
      · rename_i hb
        simp only [Memory.wfFrom, Bool.and_eq_true, decide_eq_true_eq, bne_iff_ne]
        exact ⟨⟨ha, hb⟩, ⟨by omega, h.1.2⟩, h.2⟩
    · split
      · split
        · exact Memory.wfFrom_mono h.2 (by omega)
        · simp_all [Memory.wfFrom]
      · simp only [Memory.wfFrom, Bool.and_eq_true, decide_eq_true_eq, bne_iff_ne]
        exact ⟨h.1, ih h.2 (by omega)⟩

theorem Memory.read_write_from {m : Memory} {n : Nat} (h : Memory.wfFrom n m = true) (a a' : Nat) (b : Byte) :
    (m.write a b).read a' = if a' = a then b else m.read a' := by
  induction m generalizing n with
  | nil => simp only [Memory.write]; split <;> split <;> simp_all [Memory.read]
  | cons c m ih =>
    simp [Memory.wfFrom] at h
    have ih := ih h.2
    have low := fun a => Memory.read_below (a := a) h.2
    simp only [Memory.write]
    split
    · split <;> simp only [Memory.read] <;> repeat' split
      all_goals first | rfl | (exfalso; omega) | simp_all
    · split
      · split
        · simp only [Memory.read]
          by_cases ha : a' = a
          · rw [if_pos ha, low a' (by omega)]; exact Eq.symm ‹_›
          · rw [if_neg ha, if_neg (by omega)]
            by_cases hl : a' < c.1
            · rw [if_pos hl, low a' (by omega)]
            · rw [if_neg hl]
        · simp only [Memory.read]; repeat' split
          all_goals first | rfl | (exfalso; omega)
      · simp only [Memory.read, ih]; repeat' split
        all_goals first | rfl | (exfalso; omega)

/-- A write keeps the canonical form. -/
theorem Memory.wf_write {m : Memory} (h : m.wf = true) (a : Nat) (b : Byte) : (m.write a b).wf = true :=
  Memory.wfFrom_write h (Nat.zero_le a)

theorem Memory.read_write_same {m : Memory} (h : m.wf = true) (a : Nat) (b : Byte) : (m.write a b).read a = b := by
  rw [Memory.read_write_from h, if_pos rfl]

theorem Memory.read_write_other {m : Memory} (h : m.wf = true) {a a' : Nat} (b : Byte) (ha : a' ≠ a) :
    (m.write a b).read a' = m.read a' := by
  rw [Memory.read_write_from h, if_neg ha]

theorem Memory.wf_writeN {m : Memory} (h : m.wf = true) (a : Nat) (bs : List Byte) : (m.writeN a bs).wf = true := by
  induction bs generalizing m a with
  | nil => exact h
  | cons b bs ih => exact ih (Memory.wf_write h a b) (a + 1)

/-- After bytes are written from an address on, they are read there, and every other byte is as before. -/
theorem Memory.read_writeN {m : Memory} (h : m.wf = true) (a a' : Nat) (bs : List Byte) :
    (m.writeN a bs).read a' = if a ≤ a' ∧ a' < a + bs.length then bs.getD (a' - a) 0 else m.read a' := by
  induction bs generalizing m a with
  | nil => simp only [Memory.writeN, List.length_nil]; rw [if_neg (by omega)]
  | cons b bs ih =>
    simp only [Memory.writeN, ih (Memory.wf_write h a b), Memory.read_write_from h, List.length_cons]
    by_cases h1 : a' = a
    · rw [if_neg (by omega), if_pos h1, if_pos (by omega)]; simp [h1]
    · by_cases h2 : a + 1 ≤ a' ∧ a' < a + 1 + bs.length
      · rw [if_pos h2, if_pos (by omega)]
        have : a' - a = (a' - (a + 1)) + 1 := by omega
        simp [this]
      · rw [if_neg h2, if_neg h1, if_neg (by omega)]

/-- A fold of writes keeps the canonical form: the write-back of a line. -/
theorem Memory.wf_fold {α : Type} {m : Memory} (h : m.wf = true) (l : List α) (addr : α → Nat) (val : α → Byte) :
    (l.foldl (fun m x => m.write (addr x) (val x)) m).wf = true := by
  induction l generalizing m with
  | nil => exact h
  | cons x l ih => exact ih (Memory.wf_write h _ _)

/-- Memories in canonical form that read alike are equal. -/
theorem Memory.ext_from {m m' : Memory} {n : Nat} (h : Memory.wfFrom n m = true) (h' : Memory.wfFrom n m' = true)
    (hr : ∀ a, m.read a = m'.read a) : m = m' := by
  induction m generalizing m' n with
  | nil =>
    cases m' with
    | nil => rfl
    | cons c m' =>
      simp [Memory.wfFrom] at h'
      have := hr c.1
      simp [Memory.read] at this
      exact absurd this.symm h'.1.2
  | cons c m ih =>
    simp [Memory.wfFrom] at h
    cases m' with
    | nil =>
      have := hr c.1
      simp [Memory.read] at this
      exact absurd this h.1.2
    | cons c' m' =>
      simp [Memory.wfFrom] at h'
      have hk : c.1 = c'.1 := by
        have h1 := hr c.1
        have h2 := hr c'.1
        simp only [Memory.read, if_true] at h1 h2
        by_cases hlt : c.1 < c'.1
        · rw [if_neg (by omega), if_pos hlt] at h1; exact absurd h1 h.1.2
        · by_cases hgt : c'.1 < c.1
          · rw [if_neg (by omega), if_pos hgt] at h2; exact absurd h2.symm h'.1.2
          · omega
      have hv : c.2 = c'.2 := by
        have h1 := hr c.1
        simpa [Memory.read, hk] using h1
      have hc : c = c' := Prod.ext hk hv
      subst hc
      refine congrArg _ (ih h.2 h'.2 fun a => ?_)
      by_cases ha : a ≤ c.1
      · rw [Memory.read_below h.2 (by omega), Memory.read_below h'.2 (by omega)]
      · have := hr a
        simp only [Memory.read] at this
        rwa [if_neg (by omega), if_neg (by omega), if_neg (by omega), if_neg (by omega)] at this

theorem Memory.ext {m m' : Memory} (h : m.wf = true) (h' : m'.wf = true) (hr : ∀ a, m.read a = m'.read a) : m = m' :=
  Memory.ext_from h h' hr

/-- Memory at reset is in canonical form, and reads as the background. -/
theorem reset_dram_wf : State.reset.dram.wf = true := rfl

theorem reset_dram_read (a : Nat) : State.reset.dram.read a = Memory.background := rfl

end Sys2Proof.Machine
end

