-- ==== Sys2Proof/Laws/PerInstr.lean ====
section
/-! SUPPORT. Facts of each instruction as syntax. Remake: the operation, the base fields and the form of an instruction make up that
instruction and no other, and the form is one that the class of its opcode has (R44). An event has none of them. -/

namespace Sys2Proof.Laws

open Machine

/-- The instruction of an operation, its base fields and its form. -/
def remake (p : Parts) : Option Instr :=
  match p.form with
  | .short => mkShort p.op p.base
  | .long x => mkLong p.op p.base x
  | .imm v => mkImm p.op p.base v

def Remake.Statement (i : Instr) : Prop :=
  ∀ p, partsOf i = some p → remake p = some i ∧ formOk p = true

theorem Remake.nop (f : Base) : Remake.Statement (.nop f) := by
  intro p h; cases h; try exact ⟨rfl, rfl⟩
theorem Remake.iadd (f : Base) : Remake.Statement (.iadd f) := by
  intro p h; cases h; try exact ⟨rfl, rfl⟩
theorem Remake.iaddLong (f : Base) (x : Ext) : Remake.Statement (.iaddLong f x) := by
  intro p h; cases h; try exact ⟨rfl, rfl⟩
theorem Remake.isub (f : Base) : Remake.Statement (.isub f) := by
  intro p h; cases h; try exact ⟨rfl, rfl⟩
theorem Remake.isubLong (f : Base) (x : Ext) : Remake.Statement (.isubLong f x) := by
  intro p h; cases h; try exact ⟨rfl, rfl⟩
theorem Remake.imul (f : Base) : Remake.Statement (.imul f) := by
  intro p h; cases h; try exact ⟨rfl, rfl⟩
theorem Remake.imulLong (f : Base) (x : Ext) : Remake.Statement (.imulLong f x) := by
  intro p h; cases h; try exact ⟨rfl, rfl⟩
theorem Remake.imad (f : Base) (x : Ext) : Remake.Statement (.imad f x) := by
  intro p h; cases h; try exact ⟨rfl, rfl⟩
theorem Remake.imin (f : Base) : Remake.Statement (.imin f) := by
  intro p h; cases h; try exact ⟨rfl, rfl⟩
theorem Remake.iminImaxLong (f : Base) (x : Ext) : Remake.Statement (.iminImaxLong f x) := by
  intro p h; cases h; try exact ⟨rfl, rfl⟩
theorem Remake.iabs (f : Base) : Remake.Statement (.iabs f) := by
  intro p h; cases h; try exact ⟨rfl, rfl⟩
theorem Remake.iabsLong (f : Base) (x : Ext) : Remake.Statement (.iabsLong f x) := by
  intro p h; cases h; try exact ⟨rfl, rfl⟩
theorem Remake.and (f : Base) : Remake.Statement (.and f) := by
  intro p h; cases h; try exact ⟨rfl, rfl⟩
theorem Remake.andLong (f : Base) (x : Ext) : Remake.Statement (.andLong f x) := by
  intro p h; cases h; try exact ⟨rfl, rfl⟩
theorem Remake.or (f : Base) : Remake.Statement (.or f) := by
  intro p h; cases h; try exact ⟨rfl, rfl⟩
theorem Remake.orLong (f : Base) (x : Ext) : Remake.Statement (.orLong f x) := by
  intro p h; cases h; try exact ⟨rfl, rfl⟩
theorem Remake.xor (f : Base) : Remake.Statement (.xor f) := by
  intro p h; cases h; try exact ⟨rfl, rfl⟩
theorem Remake.xorLong (f : Base) (x : Ext) : Remake.Statement (.xorLong f x) := by
  intro p h; cases h; try exact ⟨rfl, rfl⟩
theorem Remake.andn (f : Base) : Remake.Statement (.andn f) := by
  intro p h; cases h; try exact ⟨rfl, rfl⟩
theorem Remake.andnLong (f : Base) (x : Ext) : Remake.Statement (.andnLong f x) := by
  intro p h; cases h; try exact ⟨rfl, rfl⟩
theorem Remake.shl (f : Base) : Remake.Statement (.shl f) := by
  intro p h; cases h; try exact ⟨rfl, rfl⟩
theorem Remake.shlLong (f : Base) (x : Ext) : Remake.Statement (.shlLong f x) := by
  intro p h; cases h; try exact ⟨rfl, rfl⟩
theorem Remake.shr (f : Base) : Remake.Statement (.shr f) := by
  intro p h; cases h; try exact ⟨rfl, rfl⟩
theorem Remake.shrLong (f : Base) (x : Ext) : Remake.Statement (.shrLong f x) := by
  intro p h; cases h; try exact ⟨rfl, rfl⟩
theorem Remake.shf (f : Base) (x : Ext) : Remake.Statement (.shf f x) := by
  intro p h; cases h; try exact ⟨rfl, rfl⟩
theorem Remake.popc (f : Base) : Remake.Statement (.popc f) := by
  intro p h; cases h; try exact ⟨rfl, rfl⟩
theorem Remake.popcLong (f : Base) (x : Ext) : Remake.Statement (.popcLong f x) := by
  intro p h; cases h; try exact ⟨rfl, rfl⟩
theorem Remake.clz (f : Base) : Remake.Statement (.clz f) := by
  intro p h; cases h; try exact ⟨rfl, rfl⟩
theorem Remake.clzLong (f : Base) (x : Ext) : Remake.Statement (.clzLong f x) := by
  intro p h; cases h; try exact ⟨rfl, rfl⟩
theorem Remake.brev (f : Base) : Remake.Statement (.brev f) := by
  intro p h; cases h; try exact ⟨rfl, rfl⟩
theorem Remake.brevLong (f : Base) (x : Ext) : Remake.Statement (.brevLong f x) := by
  intro p h; cases h; try exact ⟨rfl, rfl⟩
theorem Remake.bfx (f : Base) (x : Ext) : Remake.Statement (.bfx f x) := by
  intro p h; cases h; try exact ⟨rfl, rfl⟩
theorem Remake.bfi (f : Base) (x : Ext) : Remake.Statement (.bfi f x) := by
  intro p h; cases h; try exact ⟨rfl, rfl⟩
theorem Remake.iset (f : Base) (x : Ext) : Remake.Statement (.iset f x) := by
  intro p h; cases h; try exact ⟨rfl, rfl⟩
theorem Remake.sel (f : Base) (x : Ext) : Remake.Statement (.sel f x) := by
  intro p h; cases h; try exact ⟨rfl, rfl⟩
theorem Remake.plop (f : Base) (x : Ext) : Remake.Statement (.plop f x) := by
  intro p h; cases h; try exact ⟨rfl, rfl⟩
theorem Remake.mov (f : Base) : Remake.Statement (.mov f) := by
  intro p h; cases h; try exact ⟨rfl, rfl⟩
theorem Remake.movLong (f : Base) (x : Ext) : Remake.Statement (.movLong f x) := by
  intro p h; cases h; try exact ⟨rfl, rfl⟩
theorem Remake.movi (f : Base) (imm : Word) : Remake.Statement (.movi f imm) := by
  intro p h; cases h; try exact ⟨rfl, rfl⟩
theorem Remake.iaddi (f : Base) (imm : Word) : Remake.Statement (.iaddi f imm) := by
  intro p h; cases h; try exact ⟨rfl, rfl⟩
theorem Remake.fadd (f : Base) : Remake.Statement (.fadd f) := by
  intro p h; cases h; try exact ⟨rfl, rfl⟩
theorem Remake.faddLong (f : Base) (x : Ext) : Remake.Statement (.faddLong f x) := by
  intro p h; cases h; try exact ⟨rfl, rfl⟩
theorem Remake.fmul (f : Base) : Remake.Statement (.fmul f) := by
  intro p h; cases h; try exact ⟨rfl, rfl⟩
theorem Remake.fmulLong (f : Base) (x : Ext) : Remake.Statement (.fmulLong f x) := by
  intro p h; cases h; try exact ⟨rfl, rfl⟩
theorem Remake.ffma (f : Base) (x : Ext) : Remake.Statement (.ffma f x) := by
  intro p h; cases h; try exact ⟨rfl, rfl⟩
theorem Remake.fmin (f : Base) : Remake.Statement (.fmin f) := by
  intro p h; cases h; try exact ⟨rfl, rfl⟩
theorem Remake.fminFmaxLong (f : Base) (x : Ext) : Remake.Statement (.fminFmaxLong f x) := by
  intro p h; cases h; try exact ⟨rfl, rfl⟩
theorem Remake.fset (f : Base) (x : Ext) : Remake.Statement (.fset f x) := by
  intro p h; cases h; try exact ⟨rfl, rfl⟩
theorem Remake.frcp (f : Base) : Remake.Statement (.frcp f) := by
  intro p h; cases h; try exact ⟨rfl, rfl⟩
theorem Remake.frcpLong (f : Base) (x : Ext) : Remake.Statement (.frcpLong f x) := by
  intro p h; cases h; try exact ⟨rfl, rfl⟩
theorem Remake.frsq (f : Base) : Remake.Statement (.frsq f) := by
  intro p h; cases h; try exact ⟨rfl, rfl⟩
theorem Remake.frsqLong (f : Base) (x : Ext) : Remake.Statement (.frsqLong f x) := by
  intro p h; cases h; try exact ⟨rfl, rfl⟩
theorem Remake.fsqrt (f : Base) : Remake.Statement (.fsqrt f) := by
  intro p h; cases h; try exact ⟨rfl, rfl⟩
theorem Remake.fsqrtLong (f : Base) (x : Ext) : Remake.Statement (.fsqrtLong f x) := by
  intro p h; cases h; try exact ⟨rfl, rfl⟩
theorem Remake.fexp2 (f : Base) : Remake.Statement (.fexp2 f) := by
  intro p h; cases h; try exact ⟨rfl, rfl⟩
theorem Remake.fexp2Long (f : Base) (x : Ext) : Remake.Statement (.fexp2Long f x) := by
  intro p h; cases h; try exact ⟨rfl, rfl⟩
theorem Remake.flog2 (f : Base) : Remake.Statement (.flog2 f) := by
  intro p h; cases h; try exact ⟨rfl, rfl⟩
theorem Remake.flog2Long (f : Base) (x : Ext) : Remake.Statement (.flog2Long f x) := by
  intro p h; cases h; try exact ⟨rfl, rfl⟩
theorem Remake.fsin (f : Base) : Remake.Statement (.fsin f) := by
  intro p h; cases h; try exact ⟨rfl, rfl⟩
theorem Remake.fsinLong (f : Base) (x : Ext) : Remake.Statement (.fsinLong f x) := by
  intro p h; cases h; try exact ⟨rfl, rfl⟩
theorem Remake.fcos (f : Base) : Remake.Statement (.fcos f) := by
  intro p h; cases h; try exact ⟨rfl, rfl⟩
theorem Remake.fcosLong (f : Base) (x : Ext) : Remake.Statement (.fcosLong f x) := by
  intro p h; cases h; try exact ⟨rfl, rfl⟩
theorem Remake.ftanh (f : Base) : Remake.Statement (.ftanh f) := by
  intro p h; cases h; try exact ⟨rfl, rfl⟩
theorem Remake.ftanhLong (f : Base) (x : Ext) : Remake.Statement (.ftanhLong f x) := by
  intro p h; cases h; try exact ⟨rfl, rfl⟩
theorem Remake.cvt (f : Base) (x : Ext) : Remake.Statement (.cvt f x) := by
  intro p h; cases h; try exact ⟨rfl, rfl⟩
theorem Remake.frnd (f : Base) : Remake.Statement (.frnd f) := by
  intro p h; cases h; try exact ⟨rfl, rfl⟩
theorem Remake.frndLong (f : Base) (x : Ext) : Remake.Statement (.frndLong f x) := by
  intro p h; cases h; try exact ⟨rfl, rfl⟩
theorem Remake.tagset (f : Base) (x : Ext) : Remake.Statement (.tagset f x) := by
  intro p h; cases h; try exact ⟨rfl, rfl⟩
theorem Remake.tagget (f : Base) : Remake.Statement (.tagget f) := by
  intro p h; cases h; try exact ⟨rfl, rfl⟩
theorem Remake.taggetLong (f : Base) (x : Ext) : Remake.Statement (.taggetLong f x) := by
  intro p h; cases h; try exact ⟨rfl, rfl⟩
theorem Remake.qblk (f : Base) (x : Ext) : Remake.Statement (.qblk f x) := by
  intro p h; cases h; try exact ⟨rfl, rfl⟩
theorem Remake.fdot (f : Base) (x : Ext) : Remake.Statement (.fdot f x) := by
  intro p h; cases h; try exact ⟨rfl, rfl⟩
theorem Remake.shfl (f : Base) (x : Ext) : Remake.Statement (.shfl f x) := by
  intro p h; cases h; try exact ⟨rfl, rfl⟩
theorem Remake.vote (f : Base) (x : Ext) : Remake.Statement (.vote f x) := by
  intro p h; cases h; try exact ⟨rfl, rfl⟩
theorem Remake.matchLanes (f : Base) : Remake.Statement (.matchLanes f) := by
  intro p h; cases h; try exact ⟨rfl, rfl⟩
theorem Remake.matchLanesLong (f : Base) (x : Ext) : Remake.Statement (.matchLanesLong f x) := by
  intro p h; cases h; try exact ⟨rfl, rfl⟩
theorem Remake.redux (f : Base) (x : Ext) : Remake.Statement (.redux f x) := by
  intro p h; cases h; try exact ⟨rfl, rfl⟩
theorem Remake.elect (f : Base) : Remake.Statement (.elect f) := by
  intro p h; cases h; try exact ⟨rfl, rfl⟩
theorem Remake.electLong (f : Base) (x : Ext) : Remake.Statement (.electLong f x) := by
  intro p h; cases h; try exact ⟨rfl, rfl⟩
theorem Remake.s2v (f : Base) : Remake.Statement (.s2v f) := by
  intro p h; cases h; try exact ⟨rfl, rfl⟩
theorem Remake.s2vLong (f : Base) (x : Ext) : Remake.Statement (.s2vLong f x) := by
  intro p h; cases h; try exact ⟨rfl, rfl⟩
theorem Remake.conv (f : Base) : Remake.Statement (.conv f) := by
  intro p h; cases h; try exact ⟨rfl, rfl⟩
theorem Remake.convLong (f : Base) (x : Ext) : Remake.Statement (.convLong f x) := by
  intro p h; cases h; try exact ⟨rfl, rfl⟩
theorem Remake.ld (f : Base) (x : Ext) : Remake.Statement (.ld f x) := by
  intro p h; cases h; try exact ⟨rfl, rfl⟩
theorem Remake.st (f : Base) (x : Ext) : Remake.Statement (.st f x) := by
  intro p h; cases h; try exact ⟨rfl, rfl⟩
theorem Remake.lds (f : Base) (x : Ext) : Remake.Statement (.lds f x) := by
  intro p h; cases h; try exact ⟨rfl, rfl⟩
theorem Remake.sts (f : Base) (x : Ext) : Remake.Statement (.sts f x) := by
  intro p h; cases h; try exact ⟨rfl, rfl⟩
theorem Remake.atom (f : Base) (x : Ext) : Remake.Statement (.atom f x) := by
  intro p h; cases h; try exact ⟨rfl, rfl⟩
theorem Remake.atoms (f : Base) (x : Ext) : Remake.Statement (.atoms f x) := by
  intro p h; cases h; try exact ⟨rfl, rfl⟩
theorem Remake.red (f : Base) (x : Ext) : Remake.Statement (.red f x) := by
  intro p h; cases h; try exact ⟨rfl, rfl⟩
theorem Remake.stmc (f : Base) (x : Ext) : Remake.Statement (.stmc f x) := by
  intro p h; cases h; try exact ⟨rfl, rfl⟩
theorem Remake.pref (f : Base) (x : Ext) : Remake.Statement (.pref f x) := by
  intro p h; cases h; try exact ⟨rfl, rfl⟩
theorem Remake.discard (f : Base) (x : Ext) : Remake.Statement (.discard f x) := by
  intro p h; cases h; try exact ⟨rfl, rfl⟩
theorem Remake.flush (f : Base) (x : Ext) : Remake.Statement (.flush f x) := by
  intro p h; cases h; try exact ⟨rfl, rfl⟩
theorem Remake.fence (f : Base) (x : Ext) : Remake.Statement (.fence f x) := by
  intro p h; cases h; try exact ⟨rfl, rfl⟩
theorem Remake.lock (f : Base) (x : Ext) : Remake.Statement (.lock f x) := by
  intro p h; cases h; try exact ⟨rfl, rfl⟩
theorem Remake.unlock (f : Base) (x : Ext) : Remake.Statement (.unlock f x) := by
  intro p h; cases h; try exact ⟨rfl, rfl⟩
theorem Remake.bra (f : Base) : Remake.Statement (.bra f) := by
  intro p h; cases h; try exact ⟨rfl, rfl⟩
theorem Remake.braLong (f : Base) (imm : Word) : Remake.Statement (.braLong f imm) := by
  intro p h; cases h; try exact ⟨rfl, rfl⟩
theorem Remake.brc (f : Base) : Remake.Statement (.brc f) := by
  intro p h; cases h; try exact ⟨rfl, rfl⟩
theorem Remake.brcLong (f : Base) (imm : Word) : Remake.Statement (.brcLong f imm) := by
  intro p h; cases h; try exact ⟨rfl, rfl⟩
theorem Remake.brx (f : Base) (x : Ext) : Remake.Statement (.brx f x) := by
  intro p h; cases h; try exact ⟨rfl, rfl⟩
theorem Remake.call (f : Base) (imm : Word) : Remake.Statement (.call f imm) := by
  intro p h; cases h; try exact ⟨rfl, rfl⟩
theorem Remake.ret (f : Base) : Remake.Statement (.ret f) := by
  intro p h; cases h; try exact ⟨rfl, rfl⟩
theorem Remake.retLong (f : Base) (x : Ext) : Remake.Statement (.retLong f x) := by
  intro p h; cases h; try exact ⟨rfl, rfl⟩
theorem Remake.exit (f : Base) : Remake.Statement (.exit f) := by
  intro p h; cases h; try exact ⟨rfl, rfl⟩
theorem Remake.exitLong (f : Base) (x : Ext) : Remake.Statement (.exitLong f x) := by
  intro p h; cases h; try exact ⟨rfl, rfl⟩
theorem Remake.yield (f : Base) : Remake.Statement (.yield f) := by
  intro p h; cases h; try exact ⟨rfl, rfl⟩
theorem Remake.yieldLong (f : Base) (x : Ext) : Remake.Statement (.yieldLong f x) := by
  intro p h; cases h; try exact ⟨rfl, rfl⟩
theorem Remake.nsleep (f : Base) (x : Ext) : Remake.Statement (.nsleep f x) := by
  intro p h; cases h; try exact ⟨rfl, rfl⟩
theorem Remake.bkpt (f : Base) : Remake.Statement (.bkpt f) := by
  intro p h; cases h; try exact ⟨rfl, rfl⟩
theorem Remake.bkptLong (f : Base) (x : Ext) : Remake.Statement (.bkptLong f x) := by
  intro p h; cases h; try exact ⟨rfl, rfl⟩
theorem Remake.trapl (f : Base) (x : Ext) : Remake.Statement (.trapl f x) := by
  intro p h; cases h; try exact ⟨rfl, rfl⟩
theorem Remake.illegalWord (w : Word) : Remake.Statement (.illegalWord w) := by
  intro p h; cases h; try exact ⟨rfl, rfl⟩
theorem Remake.snop (f : Base) : Remake.Statement (.snop f) := by
  intro p h; cases h; try exact ⟨rfl, rfl⟩
theorem Remake.sadd (f : Base) : Remake.Statement (.sadd f) := by
  intro p h; cases h; try exact ⟨rfl, rfl⟩
theorem Remake.saddLong (f : Base) (x : Ext) : Remake.Statement (.saddLong f x) := by
  intro p h; cases h; try exact ⟨rfl, rfl⟩
theorem Remake.ssub (f : Base) : Remake.Statement (.ssub f) := by
  intro p h; cases h; try exact ⟨rfl, rfl⟩
theorem Remake.ssubLong (f : Base) (x : Ext) : Remake.Statement (.ssubLong f x) := by
  intro p h; cases h; try exact ⟨rfl, rfl⟩
theorem Remake.smul (f : Base) : Remake.Statement (.smul f) := by
  intro p h; cases h; try exact ⟨rfl, rfl⟩
theorem Remake.smulLong (f : Base) (x : Ext) : Remake.Statement (.smulLong f x) := by
  intro p h; cases h; try exact ⟨rfl, rfl⟩
theorem Remake.smad (f : Base) (x : Ext) : Remake.Statement (.smad f x) := by
  intro p h; cases h; try exact ⟨rfl, rfl⟩
theorem Remake.smin (f : Base) : Remake.Statement (.smin f) := by
  intro p h; cases h; try exact ⟨rfl, rfl⟩
theorem Remake.sminSmaxLong (f : Base) (x : Ext) : Remake.Statement (.sminSmaxLong f x) := by
  intro p h; cases h; try exact ⟨rfl, rfl⟩
theorem Remake.sand (f : Base) : Remake.Statement (.sand f) := by
  intro p h; cases h; try exact ⟨rfl, rfl⟩
theorem Remake.sandLong (f : Base) (x : Ext) : Remake.Statement (.sandLong f x) := by
  intro p h; cases h; try exact ⟨rfl, rfl⟩
theorem Remake.sor (f : Base) : Remake.Statement (.sor f) := by
  intro p h; cases h; try exact ⟨rfl, rfl⟩
theorem Remake.sorLong (f : Base) (x : Ext) : Remake.Statement (.sorLong f x) := by
  intro p h; cases h; try exact ⟨rfl, rfl⟩
theorem Remake.sxor (f : Base) : Remake.Statement (.sxor f) := by
  intro p h; cases h; try exact ⟨rfl, rfl⟩
theorem Remake.sxorLong (f : Base) (x : Ext) : Remake.Statement (.sxorLong f x) := by
  intro p h; cases h; try exact ⟨rfl, rfl⟩
theorem Remake.sshl (f : Base) : Remake.Statement (.sshl f) := by
  intro p h; cases h; try exact ⟨rfl, rfl⟩
theorem Remake.sshlLong (f : Base) (x : Ext) : Remake.Statement (.sshlLong f x) := by
  intro p h; cases h; try exact ⟨rfl, rfl⟩
theorem Remake.sshr (f : Base) : Remake.Statement (.sshr f) := by
  intro p h; cases h; try exact ⟨rfl, rfl⟩
theorem Remake.sshrLong (f : Base) (x : Ext) : Remake.Statement (.sshrLong f x) := by
  intro p h; cases h; try exact ⟨rfl, rfl⟩
theorem Remake.sset (f : Base) (x : Ext) : Remake.Statement (.sset f x) := by
  intro p h; cases h; try exact ⟨rfl, rfl⟩
theorem Remake.ssel (f : Base) (x : Ext) : Remake.Statement (.ssel f x) := by
  intro p h; cases h; try exact ⟨rfl, rfl⟩
theorem Remake.smov (f : Base) : Remake.Statement (.smov f) := by
  intro p h; cases h; try exact ⟨rfl, rfl⟩
theorem Remake.smovLong (f : Base) (x : Ext) : Remake.Statement (.smovLong f x) := by
  intro p h; cases h; try exact ⟨rfl, rfl⟩
theorem Remake.smovi (f : Base) (imm : Word) : Remake.Statement (.smovi f imm) := by
  intro p h; cases h; try exact ⟨rfl, rfl⟩
theorem Remake.saddi (f : Base) (imm : Word) : Remake.Statement (.saddi f imm) := by
  intro p h; cases h; try exact ⟨rfl, rfl⟩
theorem Remake.s2s (f : Base) : Remake.Statement (.s2s f) := by
  intro p h; cases h; try exact ⟨rfl, rfl⟩
theorem Remake.s2sLong (f : Base) (x : Ext) : Remake.Statement (.s2sLong f x) := by
  intro p h; cases h; try exact ⟨rfl, rfl⟩
theorem Remake.v2s (f : Base) (x : Ext) : Remake.Statement (.v2s f x) := by
  intro p h; cases h; try exact ⟨rfl, rfl⟩
theorem Remake.sbcast (f : Base) (x : Ext) : Remake.Statement (.sbcast f x) := by
  intro p h; cases h; try exact ⟨rfl, rfl⟩
theorem Remake.sbra (f : Base) : Remake.Statement (.sbra f) := by
  intro p h; cases h; try exact ⟨rfl, rfl⟩
theorem Remake.sbraLong (f : Base) (imm : Word) : Remake.Statement (.sbraLong f imm) := by
  intro p h; cases h; try exact ⟨rfl, rfl⟩
theorem Remake.sbrc (f : Base) : Remake.Statement (.sbrc f) := by
  intro p h; cases h; try exact ⟨rfl, rfl⟩
theorem Remake.sbrcLong (f : Base) (imm : Word) : Remake.Statement (.sbrcLong f imm) := by
  intro p h; cases h; try exact ⟨rfl, rfl⟩
theorem Remake.bar (f : Base) (x : Ext) : Remake.Statement (.bar f x) := by
  intro p h; cases h; try exact ⟨rfl, rfl⟩
theorem Remake.bufmk (f : Base) (x : Ext) : Remake.Statement (.bufmk f x) := by
  intro p h; cases h; try exact ⟨rfl, rfl⟩
theorem Remake.bufset (f : Base) (x : Ext) : Remake.Statement (.bufset f x) := by
  intro p h; cases h; try exact ⟨rfl, rfl⟩
theorem Remake.layout (f : Base) (x : Ext) : Remake.Statement (.layout f x) := by
  intro p h; cases h; try exact ⟨rfl, rfl⟩
theorem Remake.mma (f : Base) (x : Ext) : Remake.Statement (.mma f x) := by
  intro p h; cases h; try exact ⟨rfl, rfl⟩
theorem Remake.tzero (f : Base) (x : Ext) : Remake.Statement (.tzero f x) := by
  intro p h; cases h; try exact ⟨rfl, rfl⟩
theorem Remake.tld (f : Base) (x : Ext) : Remake.Statement (.tld f x) := by
  intro p h; cases h; try exact ⟨rfl, rfl⟩
theorem Remake.tst (f : Base) (x : Ext) : Remake.Statement (.tst f x) := by
  intro p h; cases h; try exact ⟨rfl, rfl⟩
theorem Remake.tred (f : Base) (x : Ext) : Remake.Statement (.tred f x) := by
  intro p h; cases h; try exact ⟨rfl, rfl⟩
theorem Remake.tscal (f : Base) (x : Ext) : Remake.Statement (.tscal f x) := by
  intro p h; cases h; try exact ⟨rfl, rfl⟩
theorem Remake.topk (f : Base) (x : Ext) : Remake.Statement (.topk f x) := by
  intro p h; cases h; try exact ⟨rfl, rfl⟩
theorem Remake.tmov (f : Base) (x : Ext) : Remake.Statement (.tmov f x) := by
  intro p h; cases h; try exact ⟨rfl, rfl⟩
theorem Remake.cpy (f : Base) (x : Ext) : Remake.Statement (.cpy f x) := by
  intro p h; cases h; try exact ⟨rfl, rfl⟩
theorem Remake.cpyo (f : Base) (x : Ext) : Remake.Statement (.cpyo f x) := by
  intro p h; cases h; try exact ⟨rfl, rfl⟩
theorem Remake.cpym (f : Base) (x : Ext) : Remake.Statement (.cpym f x) := by
  intro p h; cases h; try exact ⟨rfl, rfl⟩
theorem Remake.cpyc (f : Base) (x : Ext) : Remake.Statement (.cpyc f x) := by
  intro p h; cases h; try exact ⟨rfl, rfl⟩
theorem Remake.cpyr (f : Base) (x : Ext) : Remake.Statement (.cpyr f x) := by
  intro p h; cases h; try exact ⟨rfl, rfl⟩
theorem Remake.tlwait (f : Base) (x : Ext) : Remake.Statement (.tlwait f x) := by
  intro p h; cases h; try exact ⟨rfl, rfl⟩
theorem Remake.tlget (f : Base) (x : Ext) : Remake.Statement (.tlget f x) := by
  intro p h; cases h; try exact ⟨rfl, rfl⟩
theorem Remake.femark (f : Base) (x : Ext) : Remake.Statement (.femark f x) := by
  intro p h; cases h; try exact ⟨rfl, rfl⟩
theorem Remake.fefill (f : Base) (x : Ext) : Remake.Statement (.fefill f x) := by
  intro p h; cases h; try exact ⟨rfl, rfl⟩
theorem Remake.tbinit (f : Base) (x : Ext) : Remake.Statement (.tbinit f x) := by
  intro p h; cases h; try exact ⟨rfl, rfl⟩
theorem Remake.tbexp (f : Base) (x : Ext) : Remake.Statement (.tbexp f x) := by
  intro p h; cases h; try exact ⟨rfl, rfl⟩
theorem Remake.tbarv (f : Base) (x : Ext) : Remake.Statement (.tbarv f x) := by
  intro p h; cases h; try exact ⟨rfl, rfl⟩
theorem Remake.tbwait (f : Base) (x : Ext) : Remake.Statement (.tbwait f x) := by
  intro p h; cases h; try exact ⟨rfl, rfl⟩
theorem Remake.catchOp (f : Base) : Remake.Statement (.catchOp f) := by
  intro p h; cases h; try exact ⟨rfl, rfl⟩
theorem Remake.catchOpLong (f : Base) (x : Ext) : Remake.Statement (.catchOpLong f x) := by
  intro p h; cases h; try exact ⟨rfl, rfl⟩
theorem Remake.send (f : Base) (x : Ext) : Remake.Statement (.send f x) := by
  intro p h; cases h; try exact ⟨rfl, rfl⟩
theorem Remake.recvp (f : Base) (x : Ext) : Remake.Statement (.recvp f x) := by
  intro p h; cases h; try exact ⟨rfl, rfl⟩
theorem Remake.mprobe (f : Base) (x : Ext) : Remake.Statement (.mprobe f x) := by
  intro p h; cases h; try exact ⟨rfl, rfl⟩
theorem Remake.lrec (f : Base) (x : Ext) : Remake.Statement (.lrec f x) := by
  intro p h; cases h; try exact ⟨rfl, rfl⟩
theorem Remake.launch (f : Base) (x : Ext) : Remake.Statement (.launch f x) := by
  intro p h; cases h; try exact ⟨rfl, rfl⟩
theorem Remake.cwait (f : Base) (x : Ext) : Remake.Statement (.cwait f x) := by
  intro p h; cases h; try exact ⟨rfl, rfl⟩
theorem Remake.cget (f : Base) (x : Ext) : Remake.Statement (.cget f x) := by
  intro p h; cases h; try exact ⟨rfl, rfl⟩
theorem Remake.cancel (f : Base) (x : Ext) : Remake.Statement (.cancel f x) := by
  intro p h; cases h; try exact ⟨rfl, rfl⟩
theorem Remake.trap (f : Base) (x : Ext) : Remake.Statement (.trap f x) := by
  intro p h; cases h; try exact ⟨rfl, rfl⟩
theorem Remake.rte (f : Base) : Remake.Statement (.rte f) := by
  intro p h; cases h; try exact ⟨rfl, rfl⟩
theorem Remake.csrr (f : Base) (x : Ext) : Remake.Statement (.csrr f x) := by
  intro p h; cases h; try exact ⟨rfl, rfl⟩
theorem Remake.csrw (f : Base) (x : Ext) : Remake.Statement (.csrw f x) := by
  intro p h; cases h; try exact ⟨rfl, rfl⟩
theorem Remake.fmtset (f : Base) (x : Ext) : Remake.Statement (.fmtset f x) := by
  intro p h; cases h; try exact ⟨rfl, rfl⟩
theorem Remake.fmtget (f : Base) (x : Ext) : Remake.Statement (.fmtget f x) := by
  intro p h; cases h; try exact ⟨rfl, rfl⟩
theorem Remake.cpdset (f : Base) (x : Ext) : Remake.Statement (.cpdset f x) := by
  intro p h; cases h; try exact ⟨rfl, rfl⟩
theorem Remake.wpset (f : Base) (x : Ext) : Remake.Statement (.wpset f x) := by
  intro p h; cases h; try exact ⟨rfl, rfl⟩
theorem Remake.wpctl (f : Base) (x : Ext) : Remake.Statement (.wpctl f x) := by
  intro p h; cases h; try exact ⟨rfl, rfl⟩
theorem Remake.hread (f : Base) (x : Ext) : Remake.Statement (.hread f x) := by
  intro p h; cases h; try exact ⟨rfl, rfl⟩
theorem Remake.hwrite (f : Base) (x : Ext) : Remake.Statement (.hwrite f x) := by
  intro p h; cases h; try exact ⟨rfl, rfl⟩
theorem Remake.hstep (f : Base) (x : Ext) : Remake.Statement (.hstep f x) := by
  intro p h; cases h; try exact ⟨rfl, rfl⟩
theorem Remake.hres (f : Base) (x : Ext) : Remake.Statement (.hres f x) := by
  intro p h; cases h; try exact ⟨rfl, rfl⟩
theorem Remake.dumpq (f : Base) : Remake.Statement (.dumpq f) := by
  intro p h; cases h; try exact ⟨rfl, rfl⟩
theorem Remake.dumpqLong (f : Base) (x : Ext) : Remake.Statement (.dumpqLong f x) := by
  intro p h; cases h; try exact ⟨rfl, rfl⟩
theorem Remake.dbgen (job : Nat) (enable : Bool) : Remake.Statement (.dbgen job enable) := by
  intro p h; cases h; try exact ⟨rfl, rfl⟩
theorem Remake.halt (job core slot : Nat) : Remake.Statement (.halt job core slot) := by
  intro p h; cases h; try exact ⟨rfl, rfl⟩
theorem Remake.resume (job core slot : Nat) : Remake.Statement (.resume job core slot) := by
  intro p h; cases h; try exact ⟨rfl, rfl⟩
theorem Remake.step (job : Nat) (w : WarpRef) (lane : Nat) : Remake.Statement (.step job w lane) := by
  intro p h; cases h; try exact ⟨rfl, rfl⟩
theorem Remake.read (job : Nat) (w : WarpRef) (lane item : Nat) : Remake.Statement (.read job w lane item) := by
  intro p h; cases h; try exact ⟨rfl, rfl⟩
theorem Remake.write (job : Nat) (w : WarpRef) (lane item value : Nat) : Remake.Statement (.write job w lane item value) := by
  intro p h; cases h; try exact ⟨rfl, rfl⟩
theorem Remake.hostIrq (value : Nat) : Remake.Statement (.hostIrq value) := by
  intro p h; cases h; try exact ⟨rfl, rfl⟩
theorem Remake.faultAnswer (fanwr : Nat) : Remake.Statement (.faultAnswer fanwr) := by
  intro p h; cases h; try exact ⟨rfl, rfl⟩
theorem Remake.wrfreeze (die : Nat) (value : Word) : Remake.Statement (.wrfreeze die value) := by
  intro p h; cases h; try exact ⟨rfl, rfl⟩
theorem Remake.qtbaseWrite (pa : Nat) : Remake.Statement (.qtbaseWrite pa) := by
  intro p h; cases h; try exact ⟨rfl, rfl⟩
theorem Remake.tailWrite (queue tail : Nat) : Remake.Statement (.tailWrite queue tail) := by
  intro p h; cases h; try exact ⟨rfl, rfl⟩
theorem Remake.trapDelivery (w : WarpRef) : Remake.Statement (.trapDelivery w) := by
  intro p h; cases h; try exact ⟨rfl, rfl⟩
theorem Remake.resultCommit (w : WarpRef) (entry : Nat) : Remake.Statement (.resultCommit w entry) := by
  intro p h; cases h; try exact ⟨rfl, rfl⟩
theorem Remake.gapElapsed (w : WarpRef) : Remake.Statement (.gapElapsed w) := by
  intro p h; cases h; try exact ⟨rfl, rfl⟩
theorem Remake.passOverLimit (w : WarpRef) : Remake.Statement (.passOverLimit w) := by
  intro p h; cases h; try exact ⟨rfl, rfl⟩
theorem Remake.sleepExpiry (w : WarpRef) (lane : Nat) : Remake.Statement (.sleepExpiry w lane) := by
  intro p h; cases h; try exact ⟨rfl, rfl⟩
theorem Remake.emptyTimeout (w : WarpRef) : Remake.Statement (.emptyTimeout w) := by
  intro p h; cases h; try exact ⟨rfl, rfl⟩
theorem Remake.barwaitExpiry (w : WarpRef) : Remake.Statement (.barwaitExpiry w) := by
  intro p h; cases h; try exact ⟨rfl, rfl⟩
theorem Remake.promotion (w : WarpRef) : Remake.Statement (.promotion w) := by
  intro p h; cases h; try exact ⟨rfl, rfl⟩
theorem Remake.quantumExpiry (w : WarpRef) : Remake.Statement (.quantumExpiry w) := by
  intro p h; cases h; try exact ⟨rfl, rfl⟩
theorem Remake.sprinterRetire (w : WarpRef) : Remake.Statement (.sprinterRetire w) := by
  intro p h; cases h; try exact ⟨rfl, rfl⟩
theorem Remake.faultTimeout (faultId : Nat) : Remake.Statement (.faultTimeout faultId) := by
  intro p h; cases h; try exact ⟨rfl, rfl⟩
theorem Remake.lockRequestArrival (w : WarpRef) : Remake.Statement (.lockRequestArrival w) := by
  intro p h; cases h; try exact ⟨rfl, rfl⟩
theorem Remake.lockGrant (die : Nat) (entry : Nat) : Remake.Statement (.lockGrant die entry) := by
  intro p h; cases h; try exact ⟨rfl, rfl⟩
theorem Remake.copyBack (core : Nat) (packet : Nat) : Remake.Statement (.copyBack core packet) := by
  intro p h; cases h; try exact ⟨rfl, rfl⟩
theorem Remake.releaseComplete (core : Nat) (release : Nat) : Remake.Statement (.releaseComplete core release) := by
  intro p h; cases h; try exact ⟨rfl, rfl⟩
theorem Remake.remoteWriteApply (die : Nat) (item : Nat) : Remake.Statement (.remoteWriteApply die item) := by
  intro p h; cases h; try exact ⟨rfl, rfl⟩
theorem Remake.clockNotice (die : Nat) (item : Nat) : Remake.Statement (.clockNotice die item) := by
  intro p h; cases h; try exact ⟨rfl, rfl⟩
theorem Remake.replicaFill (die : Nat) (line : Nat) : Remake.Statement (.replicaFill die line) := by
  intro p h; cases h; try exact ⟨rfl, rfl⟩
theorem Remake.l1SectorFill (core : Nat) (line : Nat) (sector : Nat) : Remake.Statement (.l1SectorFill core line sector) := by
  intro p h; cases h; try exact ⟨rfl, rfl⟩
theorem Remake.atomicAtHome (core : Nat) (request : Nat) : Remake.Statement (.atomicAtHome core request) := by
  intro p h; cases h; try exact ⟨rfl, rfl⟩
theorem Remake.tbUpdate (request : Nat) : Remake.Statement (.tbUpdate request) := by
  intro p h; cases h; try exact ⟨rfl, rfl⟩
theorem Remake.discardAtSlice (core : Nat) (request : Nat) : Remake.Statement (.discardAtSlice core request) := by
  intro p h; cases h; try exact ⟨rfl, rfl⟩
theorem Remake.flushComplete (core : Nat) (walker : Nat) : Remake.Statement (.flushComplete core walker) := by
  intro p h; cases h; try exact ⟨rfl, rfl⟩
theorem Remake.commandDispatch (w : WarpRef) : Remake.Statement (.commandDispatch w) := by
  intro p h; cases h; try exact ⟨rfl, rfl⟩
theorem Remake.copyLanding (command : Nat) (request : Nat) : Remake.Statement (.copyLanding command request) := by
  intro p h; cases h; try exact ⟨rfl, rfl⟩
theorem Remake.copyComplete (command : Nat) : Remake.Statement (.copyComplete command) := by
  intro p h; cases h; try exact ⟨rfl, rfl⟩
theorem Remake.tileCommandStart (core : Nat) : Remake.Statement (.tileCommandStart core) := by
  intro p h; cases h; try exact ⟨rfl, rfl⟩
theorem Remake.tileCommandComplete (core : Nat) : Remake.Statement (.tileCommandComplete core) := by
  intro p h; cases h; try exact ⟨rfl, rfl⟩
theorem Remake.engineRequestTimeout (command : Nat) (request : Nat) : Remake.Statement (.engineRequestTimeout command request) := by
  intro p h; cases h; try exact ⟨rfl, rfl⟩
theorem Remake.xtNumberRequest (w : WarpRef) : Remake.Statement (.xtNumberRequest w) := by
  intro p h; cases h; try exact ⟨rfl, rfl⟩
theorem Remake.messageArrival (message : Nat) : Remake.Statement (.messageArrival message) := by
  intro p h; cases h; try exact ⟨rfl, rfl⟩
theorem Remake.cpyrReduction (command : Nat) (element : Nat) : Remake.Statement (.cpyrReduction command element) := by
  intro p h; cases h; try exact ⟨rfl, rfl⟩
theorem Remake.catchRelease (launch : Nat) : Remake.Statement (.catchRelease launch) := by
  intro p h; cases h; try exact ⟨rfl, rfl⟩
theorem Remake.workgroupComplete (core slot : Nat) : Remake.Statement (.workgroupComplete core slot) := by
  intro p h; cases h; try exact ⟨rfl, rfl⟩
theorem Remake.launchComplete (launch : Nat) : Remake.Statement (.launchComplete launch) := by
  intro p h; cases h; try exact ⟨rfl, rfl⟩
theorem Remake.pendingLaunchDrain (core slot : Nat) : Remake.Statement (.pendingLaunchDrain core slot) := by
  intro p h; cases h; try exact ⟨rfl, rfl⟩
theorem Remake.swapOut (core slot : Nat) : Remake.Statement (.swapOut core slot) := by
  intro p h; cases h; try exact ⟨rfl, rfl⟩
theorem Remake.forcedReset (core slot : Nat) : Remake.Statement (.forcedReset core slot) := by
  intro p h; cases h; try exact ⟨rfl, rfl⟩
theorem Remake.liveDump (core slot : Nat) : Remake.Statement (.liveDump core slot) := by
  intro p h; cases h; try exact ⟨rfl, rfl⟩
theorem Remake.dumpTimeout (core slot : Nat) : Remake.Statement (.dumpTimeout core slot) := by
  intro p h; cases h; try exact ⟨rfl, rfl⟩
theorem Remake.sampleTimerExpiry (core : Nat) : Remake.Statement (.sampleTimerExpiry core) := by
  intro p h; cases h; try exact ⟨rfl, rfl⟩
theorem Remake.sliceWatchReport (report : Nat) : Remake.Statement (.sliceWatchReport report) := by
  intro p h; cases h; try exact ⟨rfl, rfl⟩
theorem Remake.qopen (queue : Nat) : Remake.Statement (.qopen queue) := by
  intro p h; cases h; try exact ⟨rfl, rfl⟩
theorem Remake.qclose (queue : Nat) : Remake.Statement (.qclose queue) := by
  intro p h; cases h; try exact ⟨rfl, rfl⟩
theorem Remake.jopen (job : Nat) (tbase : Nat) : Remake.Statement (.jopen job tbase) := by
  intro p h; cases h; try exact ⟨rfl, rfl⟩
theorem Remake.jclose (job : Nat) : Remake.Statement (.jclose job) := by
  intro p h; cases h; try exact ⟨rfl, rfl⟩
theorem Remake.jcancel (job : Nat) : Remake.Statement (.jcancel job) := by
  intro p h; cases h; try exact ⟨rfl, rfl⟩
theorem Remake.ppolset (mask : Nat) (value : Word) : Remake.Statement (.ppolset mask value) := by
  intro p h; cases h; try exact ⟨rfl, rfl⟩
theorem Remake.dportAdmit (launch : Nat) : Remake.Statement (.dportAdmit launch) := by
  intro p h; cases h; try exact ⟨rfl, rfl⟩
theorem Remake.dportDeny (launch : Nat) : Remake.Statement (.dportDeny launch) := by
  intro p h; cases h; try exact ⟨rfl, rfl⟩
theorem Remake.dportPlace (launch : Nat) (places : List Placing) : Remake.Statement (.dportPlace launch places) := by
  intro p h; cases h; try exact ⟨rfl, rfl⟩
theorem Remake.dportDrain (cause : Nat) (victims : List Resident) : Remake.Statement (.dportDrain cause victims) := by
  intro p h; cases h; try exact ⟨rfl, rfl⟩
theorem Remake.dportResume (image core : Nat) : Remake.Statement (.dportResume image core) := by
  intro p h; cases h; try exact ⟨rfl, rfl⟩
theorem Remake.dportCancel (job level id : Nat) : Remake.Statement (.dportCancel job level id) := by
  intro p h; cases h; try exact ⟨rfl, rfl⟩
theorem Remake.dportWgdone (launch number : Nat) : Remake.Statement (.dportWgdone launch number) := by
  intro p h; cases h; try exact ⟨rfl, rfl⟩
theorem Remake.dportLeveldone (job level id : Nat) : Remake.Statement (.dportLeveldone job level id) := by
  intro p h; cases h; try exact ⟨rfl, rfl⟩
theorem Remake.ucload : Remake.Statement (.ucload) := by
  intro p h; cases h; try exact ⟨rfl, rfl⟩
theorem Remake.tctx : Remake.Statement (.tctx) := by
  intro p h; cases h; try exact ⟨rfl, rfl⟩
theorem Remake.inval : Remake.Statement (.inval) := by
  intro p h; cases h; try exact ⟨rfl, rfl⟩
theorem Remake.invalidateComplete : Remake.Statement (.invalidateComplete) := by
  intro p h; cases h; try exact ⟨rfl, rfl⟩
theorem Remake.keyset : Remake.Statement (.keyset) := by
  intro p h; cases h; try exact ⟨rfl, rfl⟩
theorem Remake.keyclr : Remake.Statement (.keyclr) := by
  intro p h; cases h; try exact ⟨rfl, rfl⟩
theorem Remake.fwdset : Remake.Statement (.fwdset) := by
  intro p h; cases h; try exact ⟨rfl, rfl⟩
theorem Remake.expset : Remake.Statement (.expset) := by
  intro p h; cases h; try exact ⟨rfl, rfl⟩
theorem Remake.route : Remake.Statement (.route) := by
  intro p h; cases h; try exact ⟨rfl, rfl⟩
theorem Remake.devid : Remake.Statement (.devid) := by
  intro p h; cases h; try exact ⟨rfl, rfl⟩
theorem Remake.stream : Remake.Statement (.stream) := by
  intro p h; cases h; try exact ⟨rfl, rfl⟩
theorem Remake.vlogrd : Remake.Statement (.vlogrd) := by
  intro p h; cases h; try exact ⟨rfl, rfl⟩
theorem Remake.fwupd : Remake.Statement (.fwupd) := by
  intro p h; cases h; try exact ⟨rfl, rfl⟩
theorem Remake.wreset : Remake.Statement (.wreset) := by
  intro p h; cases h; try exact ⟨rfl, rfl⟩
theorem Remake.service : Remake.Statement (.service) := by
  intro p h; cases h; try exact ⟨rfl, rfl⟩
theorem Remake.drain : Remake.Statement (.drain) := by
  intro p h; cases h; try exact ⟨rfl, rfl⟩
theorem Remake.spdm : Remake.Statement (.spdm) := by
  intro p h; cases h; try exact ⟨rfl, rfl⟩
theorem Remake.registerWrite (address : Nat) (value : Word) : Remake.Statement (.registerWrite address value) := by
  intro p h; cases h; try exact ⟨rfl, rfl⟩
theorem Remake.hostWrite (pa : Nat) (bytes : List Byte) : Remake.Statement (.hostWrite pa bytes) := by
  intro p h; cases h; try exact ⟨rfl, rfl⟩
theorem Remake.hostRead (pa count : Nat) : Remake.Statement (.hostRead pa count) := by
  intro p h; cases h; try exact ⟨rfl, rfl⟩
theorem Remake.hostAtomic (pa width op operand : Nat) : Remake.Statement (.hostAtomic pa width op operand) := by
  intro p h; cases h; try exact ⟨rfl, rfl⟩
theorem Remake.hostCompletion (request : Nat) (status : Nat) (bytes : List Byte) : Remake.Statement (.hostCompletion request status bytes) := by
  intro p h; cases h; try exact ⟨rfl, rfl⟩
theorem Remake.hostCompletionTimeout (request : Nat) : Remake.Statement (.hostCompletionTimeout request) := by
  intro p h; cases h; try exact ⟨rfl, rfl⟩
theorem Remake.peerRequest (port peer pa kind op : Nat) (bytes : List Byte) : Remake.Statement (.peerRequest port peer pa kind op bytes) := by
  intro p h; cases h; try exact ⟨rfl, rfl⟩
theorem Remake.releaseFence (port : Nat) : Remake.Statement (.releaseFence port) := by
  intro p h; cases h; try exact ⟨rfl, rfl⟩
theorem Remake.fenceAck (port core release : Nat) : Remake.Statement (.fenceAck port core release) := by
  intro p h; cases h; try exact ⟨rfl, rfl⟩
theorem Remake.flitCrcError (port : Nat) : Remake.Statement (.flitCrcError port) := by
  intro p h; cases h; try exact ⟨rfl, rfl⟩
theorem Remake.linkTrained (port cls : Nat) (sw : Bool) (peer : Nat) : Remake.Statement (.linkTrained port cls sw peer) := by
  intro p h; cases h; try exact ⟨rfl, rfl⟩
theorem Remake.linkDown (port : Nat) : Remake.Statement (.linkDown port) := by
  intro p h; cases h; try exact ⟨rfl, rfl⟩
theorem Remake.eccCorrected (die : Nat) : Remake.Statement (.eccCorrected die) := by
  intro p h; cases h; try exact ⟨rfl, rfl⟩
theorem Remake.uncorrectableError (kind place : Nat) (slots : List Nat) : Remake.Statement (.uncorrectableError kind place slots) := by
  intro p h; cases h; try exact ⟨rfl, rfl⟩
theorem Remake.powerAlarm (die : Nat) : Remake.Statement (.powerAlarm die) := by
  intro p h; cases h; try exact ⟨rfl, rfl⟩
theorem Remake.powerAlarmClear (die : Nat) : Remake.Statement (.powerAlarmClear die) := by
  intro p h; cases h; try exact ⟨rfl, rfl⟩
theorem Remake.thermalLimit (die degrees : Nat) : Remake.Statement (.thermalLimit die degrees) := by
  intro p h; cases h; try exact ⟨rfl, rfl⟩
theorem Remake.thermalShutdown (die : Nat) : Remake.Statement (.thermalShutdown die) := by
  intro p h; cases h; try exact ⟨rfl, rfl⟩
theorem Remake.clusterPowerGate (cluster : Nat) : Remake.Statement (.clusterPowerGate cluster) := by
  intro p h; cases h; try exact ⟨rfl, rfl⟩
theorem Remake.traceDrainTimeout (cluster : Nat) : Remake.Statement (.traceDrainTimeout cluster) := by
  intro p h; cases h; try exact ⟨rfl, rfl⟩
theorem Remake.coldReset : Remake.Statement (.coldReset) := by
  intro p h; cases h; try exact ⟨rfl, rfl⟩
theorem Remake.errorResponse (request : Nat) : Remake.Statement (.errorResponse request) := by
  intro p h; cases h; try exact ⟨rfl, rfl⟩
theorem Remake.traceBufferDrain (cluster : Nat) : Remake.Statement (.traceBufferDrain cluster) := by
  intro p h; cases h; try exact ⟨rfl, rfl⟩
theorem Remake.clusterPowerUp (cluster : Nat) : Remake.Statement (.clusterPowerUp cluster) := by
  intro p h; cases h; try exact ⟨rfl, rfl⟩
theorem Remake.hostLinkError (status : Word) : Remake.Statement (.hostLinkError status) := by
  intro p h; cases h; try exact ⟨rfl, rfl⟩
theorem Remake.replicaDrop (die line : Nat) : Remake.Statement (.replicaDrop die line) := by
  intro p h; cases h; try exact ⟨rfl, rfl⟩

end Sys2Proof.Laws
end

