-- ==== Sys2Proof/Laws/Traps.lean ====
section
/-! SUPPORT. What the shared operations of traps and of commits can do. -/

namespace Sys2Proof.Machine

/-- The workgroup to which a TRACE_FULL notice has been delivered may send the next (R389). -/
abbrev Wg.noticed (g : Wg) (r : TrapRec) : Wg := if r.cause = causeTraceFull then { g with traceNotice := false } else g

/-- Delivery, R274, R277: a fatal record, or one without a handler, disposes of the workgroup; a notice without a handler goes;
otherwise the warp enters the handler with its record and every other warp gets the halt signal, and a TRACE_FULL notice is followed
by the next. -/
theorem Wg.deliver_cases (g : Wg) (tbase i : Nat) (r : TrapRec) :
    (r.kind = .fatal ∧ g.deliver tbase i r = g.dispose r) ∨
    (r.kind ≠ .fatal ∧ tbase = 0 ∧ r.kind = .notice ∧ g.deliver tbase i r = g.noticed r) ∨
    (r.kind ≠ .fatal ∧ tbase = 0 ∧ r.kind ≠ .notice ∧ g.deliver tbase i r = g.dispose r) ∨
    (r.kind ≠ .fatal ∧ tbase ≠ 0 ∧ ∃ h : Wg, g.deliver tbase i r = (if r.cause = causeTraceFull then h.tellTrace else h) ∧
      h.broadcast = some i ∧ h.dead = g.dead ∧
      (∀ j, j ≠ i → h.warps[j]? = g.warps[j]?.map (Warp.signal (.broadcast i))) ∧
      h.warps[i]? = g.warps[i]?.map (fun w => w.enterTrap tbase r)) := by
  unfold Wg.deliver
  by_cases hf : r.kind = .fatal
  · exact .inl ⟨hf, if_pos hf⟩
  by_cases ht : tbase = 0
  · by_cases hn : r.kind = .notice
    · exact .inr (.inl ⟨hf, ht, hn, by simp [ht, hn, Wg.noticed]⟩)
    · exact .inr (.inr (.inl ⟨hf, ht, hn, by simp [hf, ht, hn]⟩))
  · have hd : (g.noticed r).dead = g.dead := by simp only [Wg.noticed]; split <;> rfl
    refine .inr (.inr (.inr ⟨hf, ht, { g.noticed r with
      warps := g.warps.zipIdx.map (fun p => if p.2 = i then p.1.enterTrap tbase r else p.1.signal (.broadcast i)),
      broadcast := some i }, by rw [if_neg hf, if_neg ht], rfl, hd, fun j hj => ?_, ?_⟩))
    · cases h : g.warps[j]? <;> simp [List.getElem?_map, List.getElem?_zipIdx, h, hj]
    · cases h : g.warps[i]? <;> simp [List.getElem?_map, List.getElem?_zipIdx, h]

/-- A precise trap, R275, R276, R279: delivered, queued in a skid, delivered there before that of a higher-numbered warp of the same
cycle, or fatal in trap mode. -/
theorem Wg.takeTrap_cases {g : Wg} {i : Nat} {w : Warp} (tbase : Nat) (r : TrapRec) (h : g.warps[i]? = some w) :
    (w.trapMode = true ∧ g.takeTrap tbase i r = { g.dispose r with double := true }) ∨
    (w.trapMode = false ∧ w.skid = none ∧ g.takeTrap tbase i r = g.deliver tbase i r) ∨
    (w.trapMode = false ∧ ∃ k, w.skid = some k ∧
      ((∃ j, g.outrun i k = some j ∧ g.takeTrap tbase i r = (g.standBack j).deliver tbase i r) ∨
        g.outrun i k = none ∧ g.takeTrap tbase i r = g.onWarp i (fun w => (w.enqueueTrap r).stopSkid k.by_ k.issued))) := by
  unfold Wg.takeTrap
  rw [h]
  cases ht : w.trapMode <;> cases hk : w.skid <;> simp [ht, hk]
  rename_i k
  cases ho : g.outrun i k <;> simp

/-- A trap enters the queue of a warp, or is lost and counted, R278. -/
theorem Warp.enqueueTrap_cases (w : Warp) (r : TrapRec) :
    w.enqueueTrap r = { w with tqueue := w.tqueue ++ [r] } ∨ w.enqueueTrap r = { w with tlost := min 255 (w.tlost + 1) } := by
  unfold Warp.enqueueTrap
  by_cases h : w.tqueue.length + (if w.trapMode then 1 else 0) ≥ 8
  · exact .inr (if_pos h)
  · exact .inl (if_neg h)

/-- An imprecise trap goes to its warp, or to the lowest live one, or nowhere, R274. -/
theorem Wg.queueTrap_cases (g : Wg) (i : Nat) (r : TrapRec) :
    g.queueTrap i r = g ∨ ∃ j, g.queueTrap i r = g.onWarp j (fun w => w.enqueueTrap r) := by
  cases hw : g.warps[i]? with
  | none =>
    cases hl : g.lowestLive with
    | none => exact .inl (by simp [Wg.queueTrap, hw, hl])
    | some j => exact .inr ⟨j, by simp [Wg.queueTrap, hw, hl]⟩
  | some w =>
    cases hf : w.finished
    · exact .inr ⟨i, by simp [Wg.queueTrap, hw, hf]⟩
    · cases hl : g.lowestLive with
      | none => exact .inl (by simp [Wg.queueTrap, hw, hf, hl])
      | some j => exact .inr ⟨j, by simp [Wg.queueTrap, hw, hf, hl]⟩

/-- The oldest queued trap is delivered, if there is one, R276. -/
theorem Wg.deliverNext_cases (g : Wg) (tbase i : Nat) :
    g.deliverNext tbase i = g ∨ ∃ w r rest, g.warps[i]? = some w ∧ w.tqueue = r :: rest ∧
      g.deliverNext tbase i = (g.onWarp i (fun w => { w with tqueue := rest })).deliver tbase i r := by
  unfold Wg.deliverNext
  cases h : g.warps[i]? with
  | none => exact .inl rfl
  | some w =>
    cases hq : w.tqueue with
    | nil => simp only [hq]; exact .inl trivial
    | cons r rest => exact .inr ⟨w, r, rest, rfl, hq, by simp only [hq]⟩

/-- A workgroup that is disposed of keeps its first record. -/
theorem Wg.dispose_first (g : Wg) (r r' : TrapRec) : ((g.dispose r).dispose r').dead = (g.dispose r).dead := by
  cases h : g.dead <;> simp [h]

/-! ### Commits, R54 -/

theorem Thread.put_kept (t : Thread) (x : Target) (v : Word) (b : Byte) : (t.put x v b).pc = t.pc ∧ (t.put x v b).st = t.st := by
  cases x <;> exact ⟨rfl, rfl⟩

theorem Warp.putS_kept (w : Warp) (x : Target) (v : Word) :
    (w.putS x v).threads = w.threads ∧ (w.putS x v).pend = w.pend ∧ (w.putS x v).fstat = w.fstat ∧ (w.putS x v).trapMode = w.trapMode := by
  cases x <;> exact ⟨rfl, rfl, rfl, rfl⟩

/-- Writes of a lane change no outstanding write, no flag, no mode and no PC or state of a thread. -/
theorem Warp.commitWrites_kept (w : Warp) (lane : Nat) (ws : List (Target × Word × Byte)) :
    (w.commitWrites lane ws).pend = w.pend ∧ (w.commitWrites lane ws).fstat = w.fstat ∧ (w.commitWrites lane ws).trapMode = w.trapMode ∧
      (w.commitWrites lane ws).threads.map (fun t => (t.pc, t.st)) = w.threads.map (fun t => (t.pc, t.st)) := by
  induction ws generalizing w with
  | nil => exact ⟨rfl, rfl, rfl, rfl⟩
  | cons q ws ih =>
    simp only [Warp.commitWrites]
    split
    · obtain ⟨h1, h2, h3, h4⟩ := ih (w.putS q.1 q.2.1)
      obtain ⟨k1, k2, k3, k4⟩ := Warp.putS_kept w q.1 q.2.1
      exact ⟨h1.trans k2, h2.trans k3, h3.trans k4, h4.trans (by rw [k1])⟩
    · obtain ⟨h1, h2, h3, h4⟩ := ih (w.onLane lane (fun t => if t.isExited then t else t.put q.1 q.2.1 q.2.2))
      refine ⟨h1, h2, h3, h4.trans ?_⟩
      apply List.ext_getElem?
      intro j
      simp only [Warp.onLane_threads, List.getElem?_map, modifyNth_get]
      split
      · cases w.threads[j]? with
        | none => rfl
        | some t =>
          simp only [Option.map_some]
          split
          · rfl
          · rw [(Thread.put_kept t q.1 q.2.1 q.2.2).1, (Thread.put_kept t q.1 q.2.1 q.2.2).2]
      · rfl

end Sys2Proof.Machine
end

