-- ==== Sys2Proof/Tests/Slice0.lean ====
section
/-! SUPPORT. Tests. For the hypotheses of the obligations, concrete states and operands that meet them (witness_…): of a statement
about instructions, an instruction of each shape it covers; of one about events, a state for each of its cases. For the decoder,
words written out from the spec (test_decode_…); for well-formedness, a term that each check refuses (test_wf_…); and single steps
worked out by hand. -/

set_option Elab.async false
set_option maxRecDepth 100000

namespace Sys2Proof

open Machine

/-! ### Small states -/

/-- Base fields d, a, b. -/
def Test.f (d a b : BitVec 6) : Base := ⟨false, false, 0, d, a, b, false⟩

/-- Extension fields: c, M, and no width. -/
def Test.x (c : BitVec 6) (m : BitVec 14) : Ext := ⟨c, false, 7, 0, 0, 0, 0, m⟩

/-- Extension fields of an access through a record. -/
def Test.xr (c : BitVec 6) (m : BitVec 14) : Ext := ⟨c, false, 7, 0, 0, 2, 0, m⟩

/-- Extension fields with widths. -/
def Test.xw (c : BitVec 6) (wd wa wb wc : BitVec 2) (m : BitVec 14) : Ext := ⟨c, false, 7, wd, wa, wb, wc, m⟩

/-- One warp at its first instruction on the first of two cores: registers 0, a full scratchpad window of 4 KiB. -/
def Test.base : State :=
  let s := State.reset.withFetchWord 64 0
  { s with part := { s.part with cores := s.part.cores.take 2, sched := [], now := 40, oracle := 5 } }

def Test.onWg (s : State) (h : Wg → Wg) : State := { s with part := s.part.onWg 0 0 h }

def Test.onWarp (s : State) (h : Warp → Warp) : State := { s with part := s.part.onWarp ⟨0, 0, 0⟩ h }

def Test.onCore (s : State) (h : Core → Core) : State := { s with part := s.part.onCore 0 h }

/-- Every thread with the same registers, of one tag. -/
def Test.vs (s : State) (tag : Byte) (r : Nat → Word) : State :=
  Test.onWarp s (fun w => { w with threads := w.threads.map (fun t =>
    { t with v := (List.range 64).map r, tags := List.replicate 64 tag }) })

def Test.ss (s : State) (r : Nat → Word) : State := Test.onWarp s (fun w => { w with s := (List.range 64).map r })

def Test.ints : State := Test.vs Test.base tagInt32 word

def Test.floats : State := Test.vs Test.base tagFp32 (fun n => word (0x3F800000 + 0x10000 * n))

/-- The instruction acts and its context meets the hypotheses. -/
def Test.meets (s : State) (i : Instr) (h : Ctx → Bool) : Bool := (s.acts i).any h

/-- Every instruction of a list does. -/
def Test.all (s : State) (is : List Instr) (h : Ctx → Bool) : Bool := is.all (fun i => Test.meets s i h)

/-- A view succeeds with this entry. -/
def Test.isOk (r : Except TrapInfo Entry) (t : Entry) : Bool :=
  match r with
  | .ok u => u == t
  | .error _ => false

/-! ### Witnesses: states and operands that meet the hypotheses of the statements -/

open Test

theorem witness_bits : all ints [.and (f 1 2 3), .andLong (f 2 4 6) (xw 0 1 1 1 0 0), .or (f 1 2 3), .orLong (f 1 2 3) (x 0 0),
    .xor (f 1 2 3), .xorLong (f 1 2 3) (x 0 0), .andn (f 1 2 3), .andnLong (f 1 2 3) (x 0 0), .shf (f 1 2 3) (x 4 1), .popc (f 1 2 0),
    .popcLong (f 1 2 0) (x 0 0), .clz (f 1 2 0), .clzLong (f 1 2 0) (x 0 0), .brev (f 1 2 0), .brevLong (f 1 2 0) (x 0 0),
    .bfx (f 1 2 3) (x 0 1), .bfi (f 1 2 3) (x 4 0)] (fun c => (Rules.bits c.x 0 0 0 c.parts.op).isSome) = true := by
  decide +kernel

theorem witness_moves : all ints [.mov (f 1 2 0), .movLong (f 1 0 3) (x 0 0x2001), .movi (f 1 1 0) 5, .sel (f 1 2 3) (x 1 1),
    .tagset (f 1 2 0) (x 0 3), .tagset (f 1 2 0) (x 0 0x20), .tagget (f 1 2 0), .taggetLong (f 1 2 0) (x 0 0)]
    (fun c => (Rules.move c (c.sees ints) 0 0).isSome && Rules.moveOk c (c.sees ints)) = true := by
  decide +kernel

theorem witness_nops : all ints [.nop (f 0 0 0), .snop (f 0 0 0)] (fun c => c.parts.op == .nop || c.parts.op == .snop) = true := by
  decide +kernel

/-- What integerArithmeticRule asks. -/
def Test.intOk (s : State) (c : Ctx) : Bool :=
  let e := c.sees s
  let fl := orFlags (e.acting.map (fun l => orFlags ((Rules.fits c e l).map (·.2))))
  (Rules.exact c.x fp32 0 0 0 c.parts.op).isSome && e.acting.all (fun l => Rules.intViewOk c e l) &&
    (!mBit c.x 2 || e.acting.all (fun l => (Rules.exacts c e l).all (Rules.inRange (Rules.entryA c e l)))) && c.quiet s fl

theorem witness_integer : all ints [.iadd (f 1 2 3), .iaddLong (f 1 2 3) (x 0 2), .isub (f 1 2 3), .isubLong (f 1 2 3) (x 0 4),
    .imul (f 1 2 3), .imulLong (f 1 2 3) (x 0 1), .imad (f 1 2 3) (x 4 4), .imin (f 1 2 3), .iminImaxLong (f 1 2 3) (x 0 1),
    .iabs (f 1 2 0), .iabsLong (f 1 2 0) (x 0 4), .shl (f 1 2 3), .shlLong (f 1 2 3) (x 0 0), .shr (f 1 2 3), .shrLong (f 1 2 3) (x 0 1)]
    (intOk ints) = true := by
  decide +kernel

/-- The greatest signed word in every register. -/
def Test.greatest : State := Test.vs Test.base tagInt32 (fun _ => 0x7FFFFFFF)

/-- INT64 in every register. -/
def Test.pairs : State := Test.vs Test.base tagInt64 (fun n => word (n * 0x20000000))

theorem witness_integer_pairs : meets pairs (.iaddLong (f 2 4 6) (xw 0 1 1 1 0 2)) (intOk pairs) = true := by
  decide +kernel

theorem witness_integer_wrap : all greatest [.iadd (f 1 2 3), .iaddLong (f 1 2 3) (x 0 2)] (intOk greatest) = true := by
  decide +kernel

theorem witness_integer_trap : meets greatest (.iaddLong (f 1 2 3) (x 0 4)) (fun c =>
    let e := c.sees greatest
    (Rules.exact c.x fp32 0 0 0 c.parts.op).isSome && e.acting.all (fun l => Rules.intViewOk c e l) && mBit c.x 2 &&
      e.acting.any (fun l => (Rules.exacts c e l).any (fun v => !Rules.inRange (Rules.entryA c e l) v))) = true := by
  decide +kernel

theorem witness_addImmediate : meets ints (.iaddi (f 1 2 0) 0xFFFFFFFF) (fun c =>
    let e := c.sees ints
    e.acting != [] && e.acting.all (fun l => isOk (intView e l [2] []) (Rules.entryA c e l) && (Rules.entryA c e l).epw == 1)) = true := by
  decide +kernel

/-- What Comparisons asks of ISET. -/
def Test.isetOk (s : State) (c : Ctx) : Bool :=
  let e := c.sees s
  let ra := groupRegs c.f.a c.x.wa
  let rb := if uniformB c.x then [] else groupRegs c.f.b c.x.wb
  c.parts.op == .iset && e.acting.all (fun l => isOk (intView e l ra rb) (Rules.entryA c e l) &&
    ((Rules.entryA c e l).epw == 1 || (Rules.entryA c e l).epw == 15))

theorem witness_iset : meets ints (.iset (f 1 2 3) (x 7 2)) (isetOk ints) = true := by
  decide +kernel

theorem witness_iset_pairs : meets pairs (.iset (f 1 2 4) (xw 7 0 1 1 0 0)) (isetOk pairs) = true := by
  decide +kernel

theorem witness_fset : meets floats (.fset (f 1 2 3) (x 7 2)) (fun c =>
    let e := c.sees floats
    c.parts.op == .fset && e.acting.all (fun l => isOk (floatView e l (groupRegs c.f.a c.x.wa)
      (if uniformB c.x then [] else groupRegs c.f.b c.x.wb)) (Rules.entryA c e l) && (Rules.entryA c e l).epw == 1)) = true := by
  decide +kernel

/-- What roundingRule asks of a positive number between two codes. -/
def Test.between (f : Entry) (m : Nat) (e : Int) (n : Nat) : Bool :=
  decide (m ≠ 0) && !Rules.less (m, e) (Rules.magnitude f n) && Rules.less (m, e) (Rules.magnitude f (n + 1))

/-- A tie, an exact number, the smallest subnormal's half, and what lies beyond FP32; 448 and beyond it in E4M3. -/
theorem witness_rounding : (let e4m3 : Entry := ⟨0x82840D22, 0x80000007, 0, 0⟩
    between fp32 (2 ^ 24 + 1) 0 0x4B800000 && between fp32 1 0 0x3F800000 && between fp32 1 (-150) 0 && between fp32 1 128 0x7F800000 &&
      between e4m3 448 0 0x7E && between e4m3 500 0 0x7F) = true := by
  decide +kernel

theorem witness_specials : ((Rules.special .rcp (.num true 0 0 false)).isSome && (Rules.special .sqrt (.num true 3 0 false)).isSome &&
    (Rules.special .tanh (.inf true)).isSome && (Rules.special .sin .nan).isSome && (Rules.special .sin (.num false 3 0 false)).isNone) = true := by
  decide +kernel

theorem witness_plop : meets ints (.plop (f 1 2 3) (x 4 0xF0)) (fun c => c.parts.op == .plop) = true := by
  decide +kernel

theorem witness_plop_decodes : (match decodeWords 0x01504209 0x11C000F0 with | .ok _ => true | .error _ => false) = true := by
  decide +kernel

/-- What floatArithmeticRule asks. -/
def Test.floatOk (s : State) (c : Ctx) : Bool :=
  let e := c.sees s
  (Rules.float c.x fp32 0 0 0 c.parts.op).isSome && e.acting.all (fun l => Rules.floatViewOk c e l) &&
    c.quiet s (orFlags (e.acting.map (fun l => orFlags ((Rules.floats c e l).map (·.2)))))

/-- One lane of the warp, for the functions whose evaluation is long. -/
def Test.lane (s : State) : State :=
  Test.onWarp s (fun w => { w with threads := w.threads.zipIdx.map (fun q => if q.2 = 0 then q.1 else { q.1 with st := .never }) })

theorem witness_float : all (lane floats) [.fadd (f 1 2 3), .faddLong (f 1 2 3) (x 0 0x400), .fmul (f 1 2 3), .fmulLong (f 1 2 3) (x 0 0x400),
    .ffma (f 1 2 3) (x 4 0x400), .fmin (f 1 2 3), .fminFmaxLong (f 1 2 3) (x 0 1), .frcp (f 1 2 0), .frcpLong (f 1 2 0) (x 0 0x400),
    .fsqrt (f 1 2 0), .fsqrtLong (f 1 2 0) (x 0 0x400), .frsq (f 1 2 0), .frsqLong (f 1 2 0) (x 0 0x400), .frnd (f 1 2 0),
    .frndLong (f 1 2 0) (x 0 0x400)] (floatOk (lane floats)) = true := by
  decide +kernel

/-- Zeros, whose functions need no long evaluation. -/
def Test.zeros : State := lane (Test.vs Test.base tagFp32 (fun _ => 0))

theorem witness_function : all zeros [.fexp2 (f 1 2 0), .fexp2Long (f 1 2 0) (x 0 0x400), .flog2 (f 1 2 0),
    .flog2Long (f 1 2 0) (x 0 0x400), .fsin (f 1 2 0), .fsinLong (f 1 2 0) (x 0 0x400), .fcos (f 1 2 0), .fcosLong (f 1 2 0) (x 0 0x400),
    .ftanh (f 1 2 0), .ftanhLong (f 1 2 0) (x 0 0x400)] (floatOk zeros) = true := by
  decide +kernel

/-- dotOk as a Bool. -/
def Test.dotFine (c : Ctx) (e : Env) (l : Nat) : Bool :=
  let ra := groupRegs c.f.a c.x.wa
  let vb := if uniformB c.x then [] else groupRegs c.f.b c.x.wb
  let t := Rules.entryA c e l
  let i := tagIndex (e.tag l c.x.c.toNat)
  (match checkGroup e l (ra ++ vb ++ [c.x.c.toNat]) with | .ok _ => true | .error _ => false) &&
    (ra ++ vb).all (fun r => e.tag l r == e.tag l c.f.a.toNat) && (t.epw != 15 || c.x.wa == 1) &&
    (t.kind == kindFloat && !mBit c.x 1 && i == 3 || t.kind == kindInteger && (i == 1 || i == 2))

/-- cvtOk as a Bool. -/
def Test.cvtFine (c : Ctx) (e : Env) (l : Nat) : Bool :=
  let ra := groupRegs c.f.a c.x.wa
  let t := Rules.entryA c e l
  let dst := e.fmt.entry (mBits c.x 4 0)
  (match checkGroup e l ra with | .ok _ => true | .error _ => false) && (t.kind == kindInteger || t.kind == kindFloat) &&
    ra.all (fun r => (e.fmt.entry (tagIndex (e.tag l r))).kind == t.kind) &&
    (t.kind != kindFloat || ra.all (fun r => e.tag l r == e.tag l c.f.a.toNat)) &&
    elemCount t ra.length == elemCount dst (groupRegs c.f.d c.x.wd).length && (t.epw != 15 || ra.length != 1)

theorem witness_dot : meets (lane floats) (.fdot (f 1 2 3) (x 4 0x400)) (fun c =>
    let e := c.sees (lane floats)
    c.parts.op == .fdot && e.acting.all (fun l => dotFine c e l) &&
      c.quiet (lane floats) (orFlags (e.acting.map (fun l => (Rules.dot c e l).2)))) = true := by
  decide +kernel

theorem witness_cvt : meets (lane floats) (.cvt (f 1 2 0) (x 0 0x401)) (fun c =>
    let e := c.sees (lane floats)
    let dst := e.fmt.entry (mBits c.x 4 0)
    c.parts.op == .cvt && dst.valid && dst.epw != 0 && (dst.kind == kindInteger || dst.kind == kindFloat) &&
      (dst.epw != 15 || c.x.wd != 0) && e.acting.all (fun l => cvtFine c e l) &&
      c.quiet (lane floats) (orFlags (e.acting.map (fun l => orFlags ((Rules.cvt c e l).map (·.2)))))) = true := by
  decide +kernel

theorem witness_qblk : meets (lane floats) (.qblk (f 2 4 0) (xw 0 1 0 0 0 0x40E)) (fun c =>
    let e := c.sees (lane floats)
    let dst := e.fmt.entry (mBits c.x 4 0)
    let b := quantise e.fmt dst (modeOf (rmField c.x) dst) (allLanes.map (fun l =>
      if e.acting.contains l then decodeCode (Rules.entryA c e l) (e.v l c.f.a.toNat).toNat else .zero false))
    c.parts.op == .qblk && e.acting != [] && dst.valid && dst.kind == kindBlock && e.acting.all (fun l =>
      isOk (checkTag e.fmt c.f.a.toNat (e.tag l c.f.a.toNat)) (Rules.entryA c e l) && (Rules.entryA c e l).epw == 1) &&
      c.quiet (lane floats) b.flags) = true := by
  decide +kernel

theorem witness_cross : all ints [.shfl (f 1 2 3) (x 1 0), .vote (f 1 2 0) (x 3 0), .matchLanes (f 1 2 0), .matchLanesLong (f 1 2 0) (x 0 3),
    .elect (f 1 0 0), .electLong (f 1 0 0) (x 3 3)] (fun c => (Rules.cross c (c.sees ints) 0).isSome) = true := by
  decide +kernel

/-- What reductionsRule asks. -/
def Test.reduxOk (s : State) (c : Ctx) : Bool :=
  let e := c.sees s
  let a := c.f.a.toNat
  let tag := e.tag (e.acting.headD 0) a
  c.parts.op == .redux && e.acting.all (fun l => isOk (checkTag e.fmt a (e.tag l a)) (Rules.entryA c e l) && (Rules.entryA c e l).epw == 1 &&
    (if mBits c.x 3 0 < 6 then (Rules.entryA c e l).kind == kindInteger || (Rules.entryA c e l).kind == kindRaw
     else (Rules.entryA c e l).kind == kindFloat && e.tag l a == tag)) && c.quiet s (orFlags (e.acting.map (fun l => (Rules.redux c e l).2)))

theorem witness_redux : meets ints (.redux (f 1 2 0) (x 0 0x20)) (reduxOk ints) = true := by
  decide +kernel

theorem witness_redux_float : meets (lane floats) (.redux (f 1 2 0) (x 0 0x406)) (reduxOk (lane floats)) = true := by
  decide +kernel

theorem witness_s2v : all ints [.s2v (f 1 0 0), .s2vLong (f 2 10 0) (xw 0 1 0 0 0 0)] (fun c => c.parts.op == .s2v) = true := by
  decide +kernel

theorem witness_conv : all ints [.conv (f 0 0 0), .convLong (f 0 0 0) (x 0 0)] (fun c =>
    let acting := (c.sees ints).acting
    c.parts.op == .conv && acting != [] && acting.all (fun l => bitNat (Rules.convSet c ints) l != 0) &&
      c.w.conv.all (fun r => r.1 != c.pc || r.2 == Rules.convSet c ints)) = true := by
  decide +kernel

/-- A guard that no lane passes. -/
def Test.none_ (m : BitVec 14) : Ext := { x 0 m with n := true }
def Test.noneR (m : BitVec 14) : Ext := { xr 0 m with n := true }

theorem witness_conv_none : meets ints (.convLong (f 0 0 0) (none_ 0)) (fun c => (c.sees ints).acting == []) = true := by
  decide +kernel

theorem witness_branches : all ints [.bra (f 0 0 4), .braLong (f 0 0 0) 4, .brc (f 1 0 4), .brcLong (f 33 0 0) 4, .sbra (f 0 0 4),
    .sbraLong (f 0 0 0) 4, .sbrc (f 1 0 4), .sbrcLong (f 33 0 0) 4] (fun c => [Op.bra, .brc, .sbra, .sbrc].contains c.parts.op) = true := by
  decide +kernel

/-- Targets at the code, and one above 57 bits at registers 4 and 5. -/
def Test.jumps : State :=
  Test.vs Test.base tagInt64 (fun n => if n = 3 then 1 else if n = 5 then 0x02000000 else if n = 8 then 6 else 0)

theorem witness_jumps : all jumps [.brx (f 0 2 0) (xw 0 0 1 0 0 1), .brx (f 10 2 0) (xw 0 1 1 0 0 3), .brx (f 0 0 0) (x 0 0), .ret (f 0 2 0),
    .retLong (f 0 2 0) (xw 0 0 1 0 0 0)] (fun c =>
    (c.sees jumps).acting != [] && (c.sees jumps).acting.all (fun l => Rules.fetchable (Rules.indirect c (c.sees jumps) l))) = true := by
  decide +kernel

theorem witness_call : meets jumps (.call (f 2 0 0) 8) (fun c => c.parts.op == .call) = true := by
  decide +kernel

theorem witness_bad_jumps : all jumps [.brx (f 0 4 0) (xw 0 0 1 0 0 1), .brx (f 0 8 0) (x 0 0), .ret (f 0 4 0)] (fun c =>
    (c.sees jumps).acting.any (fun l => !Rules.fetchable (Rules.indirect c (c.sees jumps) l))) = true := by
  decide +kernel

theorem witness_exit : all ints [.exit (f 0 0 0), .exitLong (f 0 0 0) (x 0 0)] (fun c => c.parts.op == .exit && c.w.lock.isNone) = true := by
  decide +kernel

theorem witness_exit_none : meets ints (.exitLong (f 0 0 0) (none_ 0)) (fun c => c.parts.op == .exit && (c.sees ints).acting == []) = true := by
  decide +kernel

theorem witness_thread : all ints [.yield (f 0 0 0), .yieldLong (f 0 0 0) (x 0 0), .nsleep (f 0 0 3) (x 0 0), .nsleep (f 0 0 0) (x 0 0x1001),
    .bkpt (f 0 0 0), .bkptLong (f 0 0 0) (x 0 9), .trapl (f 0 0 0) (x 0 0xFFF), .trap (f 0 0 0) (x 0 0xFFF)]
    (fun c => [Op.yield, .nsleep, .bkpt, .trapl, .trap].contains c.parts.op && (c.sees ints).acting != []) = true := by
  decide +kernel

theorem witness_queued_trap : meets (onWarp ints (fun w => { w with trapMode := true })) (.trap (f 0 0 0) (x 0 1))
    (fun c => c.w.trapMode && decide (c.w.tqueue.length < 7)) = true := by
  decide +kernel

theorem witness_illegal : (ints.ctx? ⟨.nop, ⟨false, false, 0, 0, 0, 0, false⟩, .short⟩).any (fun c => (c.heldFirst ints).isNone) = true := by
  decide +kernel

theorem witness_scalar : all ints [.sadd (f 1 2 3), .saddLong (f 2 4 6) (xw 0 1 1 1 0 0), .ssub (f 1 2 3), .ssubLong (f 2 4 6) (xw 0 1 1 1 0 0),
    .smul (f 1 2 3), .smulLong (f 1 2 3) (x 0 3), .smad (f 1 2 3) (x 4 0), .smin (f 1 2 3), .sminSmaxLong (f 1 2 3) (x 0 3), .sand (f 1 2 3),
    .sandLong (f 1 2 3) (x 0 0), .sor (f 1 2 3), .sorLong (f 1 2 3) (x 0 0), .sxor (f 1 2 3), .sxorLong (f 1 2 3) (x 0 0), .sshl (f 1 2 3),
    .sshlLong (f 1 2 3) (x 0 0), .sshr (f 1 2 3), .sshrLong (f 1 2 3) (x 0 1), .sset (f 1 2 3) (x 7 2), .ssel (f 1 2 3) (x 7 0), .smov (f 1 2 0),
    .smovLong (f 4 8 0) (xw 0 2 2 0 0 0), .smovi (f 1 0 0) 5, .saddi (f 1 2 0) 5, .s2s (f 1 11 0), .s2sLong (f 2 10 0) (xw 0 1 0 0 0 0),
    .bufmk (f 4 2 3) (xw 5 2 1 0 0 7)] (fun c => (Rules.scalar c ints (c.sees ints)).isSome) = true := by
  decide +kernel

theorem witness_v2s : all ints [.v2s (f 1 2 0) (x 3 0x20), .v2s (f 1 2 0) (x 3 31)] (fun c => c.parts.op == .v2s &&
    (((if mBit c.x 5 then (c.sees ints).acting.min? else some (mBits c.x 4 0)).filter (c.sees ints).acting.contains).any (fun l =>
      (groupRegs c.f.a c.x.wa).all (fun r => c.w.hits l (.v r) == [])))) = true := by
  decide +kernel

theorem witness_v2s_none : meets (lane ints) (.v2s (f 1 2 0) (x 3 31)) (fun c => c.parts.op == .v2s &&
    (((if mBit c.x 5 then (c.sees (lane ints)).acting.min? else some (mBits c.x 4 0)).filter (c.sees (lane ints)).acting.contains).isNone)) = true := by
  decide +kernel

theorem witness_bufset : all ints [.bufset (f 4 2 0) (xw 0 2 0 0 0 1), .bufset (f 4 2 0) (xw 0 2 0 0 0 6)] (fun c => c.parts.op == .bufset) = true := by
  decide +kernel

theorem witness_layout : all ints [.layout (f 8 0 0) (xw 0 3 0 0 0 8), .layout (f 0 8 0) (xw 0 0 3 0 0 7)] (fun c => c.parts.op == .layout) = true := by
  decide +kernel

theorem witness_sbcast : all ints [.sbcast (f 1 2 0) (x 0 0x10), .sbcast (f 1 2 0) (x 0 0)] (fun c => c.parts.op == .sbcast) = true := by
  decide +kernel

theorem witness_bar : all ints [.bar (f 0 0 0) (x 0 0), .bar (f 0 0 0) (x 0 0x20F)] (fun c => c.parts.op == .bar && Rules.barOk c &&
    (c.counted ints).part.quietOf c.ref) = true := by
  decide +kernel

theorem witness_bar_misuse : meets ints (.bar (f 0 0 0) (x 0 0x020)) (fun c => c.parts.op == .bar && !Rules.barOk c) = true := by
  decide +kernel

/-! #### Memory instructions -/

/-- A record of base 2^32 + lo with every permission, extent and stride, index 0 or a format in w3; an access out of bounds reads 0. -/
def Test.record (lo extent w3 : Nat) : List Word := [word lo, word (1 + 7 * 2 ^ 25 + 2 ^ 28), word extent, word w3]

/-- Records at s4 to s19: words of 4 bytes; FP16 elements; one whose pages stand aside; and one that is a lock. v0 is the lane. -/
def Test.mem : State :=
  let s := Test.vs Test.base tagUint32 word
  let rs := [0, 0, 0, 0] ++ record 0x100 0x1000 4 ++ record 0x100 0x1000 (2 + 4 * 2 ^ 16) ++ record 0x400 64 4 ++ record 0x500 64 8
  Test.onWarp s (fun w => { w with s := rs ++ w.s.drop 20, threads := w.threads.zipIdx.map (fun q =>
    { q.1 with v := word q.2 :: q.1.v.drop 1 }) })

/-- The same with the lines of the first record in the L1. -/
def Test.cached : State :=
  let line : L1Line := { L1Line.fresh 3 with sectors := 15 }
  Test.onCore Test.mem (fun k => { k with l1 := [(0x200100 / 128, line), (0x200100 / 128 + 1, line)] })

/-- The same with the release of the instruction at the PC done. -/
def Test.released : State := Test.onWarp Test.mem (fun w => { w with release := some ⟨loadVa, 1, true⟩ })

/-- current as a Bool. -/
def Test.current (c : Ctx) (s : State) (ms : List Match) : Bool :=
  (ms.map (·.pred)).eraseDups == ms.map (·.pred) && ms.all (fun m =>
    ((s.part.core? c.ref.core).bind (fun k => k.preds[m.pred]?)) == some m.by_ && decide (Rules.actionOf m.by_ ≤ 5))

/-- One lane, and a data watch of reads, writes or atomics with its action on the four words at 2^32 + 0x100, enabled on core 0. -/
def Test.guarded (s : State) (access action : Nat) : State :=
  let d : Predicate := ⟨[word (2 + 16 * access + 256 * action), 0x100, 1, 16, 0xFFFF, 0, 0xFFFFFFFF, 1], some 0, true, 0, false⟩
  Test.onCore (Test.lane s) (fun k => { k with preds := setNth k.preds 2 d })

/-- What loadsRule asks, with matches of some actions. -/
def Test.loadOk (s : State) (acts : List Nat) (c : Ctx) : Bool :=
  let e := c.sees s
  let u := c.counted s
  let x := c.x
  let k := (u.part.core? c.ref.core).getD Core.reset
  let r := e.record c.f.b.toNat
  let plan := Rules.loadPlan c e u
  let acq := if semField x = 1 then some (scopeField x) else none
  let now := acq.isSome || mBit x 7 || Rules.loadWaits c u.part plan
  let near := plan.ok.filter (fun q => isDevice q.loc)
  let far := plan.ok.filter (fun q => !isDevice q.loc)
  let mine := if now then u.part.syncReads c.ref c.pc else []
  let read (a : Nat) : Option Byte :=
    if !isDevice a then mine.findSome? (fun q => if q.loc ≤ a then q.data[a - q.loc]? else none) else match acq with
      | some scope => u.acquireByte c.ref.core scope a
      | none => k.l1Byte a
  let res := (ldLanes c.f x e r).map (loadPend c.f x (ldTag x e.fmt r) plan read)
  let bytes (l : LoadLane) : LaneAccess :=
    ⟨l.at_.lane, (loadSlots plan read l.at_).filterMap (fun b => b.got.map (fun v => (b.va, v)))⟩
  let ms := Rules.loadMatches c u.part ((Rules.loadLanes c e).map bytes) []
  c.parts.op == .ld && e.acting != [] && plan.ok != [] && Rules.loadGoes c e u &&
    acq.all (fun scope => near.all (fun q => u.acquireReady c.ref.core scope (lineOf q.loc))) && (acq.isSome || !now || !k.lacks near) &&
    (!now || far == [] || mine != []) && mine.all (fun q => q.op != 0) && (!mBit x 7 || orFlags (res.map (·.2)) == 0) &&
    ms.map (fun m => Rules.actionOf m.by_) == acts && current c u ms

/-- What loadsAskRule asks: an acquire that is not ready, sectors that the L1 lacks, or lanes in host memory or a peer. -/
def Test.asks (s : State) (why : Nat) (c : Ctx) : Bool :=
  let e := c.sees s
  let u := c.counted s
  let plan := Rules.loadPlan c e u
  let acq := if semField c.x = 1 then some (scopeField c.x) else none
  let near := plan.ok.filter (fun q => isDevice q.loc)
  let lacks := ((u.part.core? c.ref.core).getD Core.reset).lacks near
  let ready := acq.all (fun scope => near.all (fun q => u.acquireReady c.ref.core scope (lineOf q.loc)))
  let now := mBit c.x 7 || Rules.loadWaits c u.part plan
  c.parts.op == .ld && e.acting != [] && Rules.loadGoes c e u && (match why with
    | 0 => !ready
    | 1 => acq.isNone && now && lacks
    | n => ready && (acq.isSome || now && !lacks) && plan.ok.any (fun q => !isDevice q.loc) &&
        (if n = 2 then u.part.syncReads c.ref c.pc == [] else (u.part.syncReads c.ref c.pc).any (fun q => q.op == 0)))

theorem witness_load : meets mem (.ld (f 8 0 4) (xr 0 0)) (loadOk mem []) = true := by
  decide +kernel

theorem witness_load_acquire : meets mem (.ld (f 8 0 4) (xr 0 0xB00)) (loadOk mem []) = true := by
  decide +kernel

theorem witness_load_now : meets cached (.ld (f 8 0 4) (xr 0 0x800)) (loadOk cached []) = true := by
  decide +kernel

theorem witness_load_decodes : meets (lane cached) (.ld (f 8 0 8) (xr 0 0x80)) (loadOk (lane cached) []) = true := by
  decide +kernel

theorem witness_load_watched : [0, 2, 5].all (fun a => let s := guarded cached 1 a
    meets s (.ld (f 8 0 4) (xr 0 0)) (loadOk s [a])) = true := by
  decide +kernel

/-- The page lies in host memory; the value of lane 0 has been asked for n times, and answered when op is 1. -/
def Test.hosted (n op : Nat) : State :=
  let r : Remote := ⟨2, 0, remoteLoc 1 0x200100, ⟨0, 0, 0⟩, loadVa, none, none, none, 0, 4, op, [0, 0, 128, 63], 0, none, 2 ^ 32 + 0x100, false⟩
  { mem with dram := mem.dram.writeN 0x13000 (leBytes 8 0x20007F),
             part := mem.part.onMgmt (fun m => { m with remotes := List.replicate n r }) }

/-- A packet of the line of the first record is on its way. -/
def Test.behind : State := Test.onCore mem (fun k => { k with packets := [⟨4, 0x200100 / 128, [(0, 5)], 9, none, 0, [], []⟩] })

theorem witness_loads_ask : (meets behind (.ld (f 8 0 4) (xr 0 0xB00)) (asks behind 0) && meets mem (.ld (f 8 0 8) (xr 0 0x80)) (asks mem 1)) = true := by
  decide +kernel

theorem witness_loads_ask_far : (meets (lane (hosted 0 0)) (.ld (f 8 0 8) (xr 0 0x80)) (asks (lane (hosted 0 0)) 2) &&
    meets (lane (hosted 1 0)) (.ld (f 8 0 8) (xr 0 0x80)) (asks (lane (hosted 1 0)) 3)) = true := by
  decide +kernel

theorem witness_load_far : meets (lane (hosted 1 1)) (.ld (f 8 0 8) (xr 0 0x80)) (loadOk (lane (hosted 1 1)) []) = true := by
  decide +kernel

/-- What Stores asks, with matches of some actions. -/
def Test.storeOk (s : State) (acts : List Nat) (c : Ctx) : Bool :=
  let e := c.sees s
  let x := c.x
  let r := e.record c.f.b.toNat
  let rc := groupRegs x.c x.wc
  let n := accessBytes (mBits x 6 5) rc.length
  let lanes := accessLanes e.fmt r (byteOff x 4 0) n (fun l => (e.v l c.f.a.toNat).toNat) e.acting
  c.parts.op == .st && e.acting != [] && Rules.admits r e c (fun r => r.w) (storeFormat e.fmt r.fmt e rc) (min n 16) lanes &&
    (Rules.released c (c.counted s) (semField x == 1) (scopeField x)).any (fun u =>
      let ps := Rules.pieces lanes
      let plan := u.plan c.g.job .write ps
      let ms := Rules.matches c u.part 1 false (writeAccess plan.ok (fun l => e.laneBytes l rc n))
      plan.ok != [] && Rules.ahead c u false ps plan && ms.map (fun m => Rules.actionOf m.by_) == acts && current c u ms)

theorem witness_store : meets mem (.st (f 0 0 4) (xr 5 0)) (storeOk mem []) = true := by
  decide +kernel

theorem witness_store_release : meets released (.st (f 0 0 4) (xr 5 0xB00)) (storeOk released []) = true := by
  decide +kernel

theorem witness_store_watched : [1, 3].all (fun a => let s := guarded mem 2 a
    meets s (.st (f 0 0 4) (xr 5 0)) (storeOk s [a])) = true := by
  decide +kernel

/-- What atomicsRule asks, with matches of some actions. -/
def Test.atomOk (s : State) (acts : List Nat) (c : Ctx) : Bool :=
  let e := c.sees s
  let x := c.x
  let r := e.record c.f.b.toNat
  let op := mBits x 7 4
  let wd := if c.parts.op = .red then none else some x.wd
  let n := (atomBytes op (e.fmt.entry r.fmt) wd x.wc).getD 4
  let lanes := accessLanes e.fmt r (byteOff x 3 0) n (fun l => (e.v l c.f.a.toNat).toNat) e.acting
  let ps := Rules.pieces lanes
  let plan := (c.counted s).plan c.g.job .atomic ps
  (c.parts.op == .atom || c.parts.op == .red) && e.acting != [] &&
    Rules.admits r e c (fun r => r.a) (atomFormat op wd x e r.fmt) (min n 16) lanes &&
    (plan.pathTrap (c.counted s).part (atomClass op n)).isNone && plan.ok != [] &&
    (Rules.released c (c.counted s) (decide (2 ≤ semField x)) (scopeField x)).any (fun u =>
      let ms := Rules.matches c u.part 2 false (writeAccess plan.ok (fun l => atomWatched op n (e.words l (groupRegs x.c x.wc))))
      Rules.ahead c u false ps plan && ms.map (fun m => Rules.actionOf m.by_) == acts && current c u ms)

/-- The records with an integer format: index 1 is UINT32 or INT32. -/
def Test.counters : State :=
  Test.onWarp Test.mem (fun w => { w with s := [0, 0, 0, 0] ++ record 0x100 0x1000 (4 + 2 * 2 ^ 16) ++ w.s.drop 8 })

theorem witness_atomics : all counters [.atom (f 8 0 4) (xr 5 0), .red (f 0 0 4) (xr 5 0)] (atomOk counters []) = true := by
  decide +kernel

theorem witness_atomics_watched : (let s := guarded counters 4 3
    all s [.atom (f 8 0 4) (xr 5 0), .red (f 0 0 4) (xr 5 0)] (atomOk s [3])) = true := by
  decide +kernel

/-- What multicastStoresRule asks of a first issue, with as many lanes denied and as many lanes with a line that is absent. -/
def Test.stmcOk_ (s : State) (denied absent : Nat) (c : Ctx) : Bool :=
  let e := c.sees s
  let x := c.x
  let rop := mBits x 7 5
  let rc := groupRegs x.c x.wc
  let n := 4 * rc.length
  let ds := Rules.dests c e (c.counted s)
  let whole : Plan := ⟨ds.flatMap (·.2.ok), ds.flatMap (·.2.denied), ds.flatMap (·.2.absent)⟩
  let ps := ds.flatMap (fun d => d.1.open_.flatMap (·.pieces))
  let data (l : Nat) : List Byte := if rop = 0 then e.laneBytes l rc n else atomWatched (stmcOp rop) n (e.words l rc)
  c.parts.op == .stmc && e.acting != [] && (c.w.multi.find? (fun q => q.pc == c.pc)).isNone &&
    ds.all (fun d => stmcOk rop x e rc d.1.at_ && (laneTrap { d.1.at_ with oob := 1 } (min n 16) d.1.lanes).isNone &&
      (rop == 0 || (d.2.pathTrap (c.counted s).part (atomClass (stmcOp rop) n)).isNone)) && whole.ok != [] &&
    (Rules.denials ds).length == denied && whole.absent.length == absent &&
    (Rules.released c (c.counted s) (semField x == 2) (scopeField x)).any (fun u => (u.part.accessHold c.ref false ps whole).isNone &&
      ds.all (fun d => (d.2.cutOff u.part).isEmpty) &&
      Rules.unwatched c u (if rop = 0 then 1 else 2) false (writeAccess whole.ok data))

theorem witness_stmc : meets mem (.stmc (f 0 0 4) (xr 5 0)) (stmcOk_ mem 0 0) = true := by
  decide +kernel

theorem witness_stmc_reduces : meets counters (.stmc (f 0 0 4) (xr 5 0x20)) (stmcOk_ counters 0 0) = true := by
  decide +kernel

/-- A second destination: one that its record denies, and one whose pages are absent. -/
def Test.spread (hi : Word) : State := Test.onWarp mem (fun w => { w with s := setNth (setNth w.s 9 hi) 11 4 })

theorem witness_stmc_partial : (meets (spread (word (1 + 5 * 2 ^ 25 + 2 ^ 28))) (.stmc (f 0 0 4) (xr 5 1)) (stmcOk_ (spread (word (1 + 5 * 2 ^ 25 + 2 ^ 28))) 32 0) &&
    meets (spread (word (2 + 7 * 2 ^ 25 + 2 ^ 28))) (.stmc (f 0 0 4) (xr 5 1)) (stmcOk_ (spread (word (2 + 7 * 2 ^ 25 + 2 ^ 28))) 0 32)) = true := by
  decide +kernel

/-- STMC whose lines have been replayed, or one of them not yet. -/
def Test.multi : State := Test.onWarp mem (fun w => { w with multi := [⟨loadVa, 2 ^ 32 - 1, [], none⟩] })

theorem witness_stmc_ends : meets multi (.stmc (f 0 0 4) (xr 5 0)) (fun c => (c.sees multi).acting != [] &&
    (c.w.multi.find? (fun q => q.pc == c.pc)).any (fun m => m.stop.isNone)) = true := by
  decide +kernel

theorem witness_no_participant : all mem [.ld (f 8 0 4) (noneR 0), .st (f 0 0 4) (noneR 0), .atom (f 8 0 4) (noneR 0), .red (f 0 0 4) (noneR 0),
    .stmc (f 0 0 4) (noneR 0), .lds (f 8 0 0) (none_ 0), .sts (f 0 0 0) (none_ 0), .atoms (f 8 0 0) (none_ 0), .pref (f 0 0 4) (noneR 0),
    .discard (f 0 0 4) (noneR 0), .flush (f 0 0 4) (noneR 0x200), .fence (f 0 0 0) (none_ 0x800), .lock (f 0 0 16) (noneR 4),
    .unlock (f 0 0 16) (noneR 0)] (fun c => (c.sees mem).acting == []) = true := by
  decide +kernel

/-- What ScratchpadAccesses asks, with matches of some actions. -/
def Test.scratchOk (s : State) (acts : List Nat) (c : Ctx) : Bool :=
  let e := c.sees s
  let u := c.counted s
  let x := c.x
  let rd := groupRegs c.f.d x.wd
  let rc := groupRegs x.c x.wc
  let op := mBits x 7 4
  e.acting != [] && !u.part.acquiring c.ref && (c.window (uniformB x) (e.s c.f.b.toNat).toNat).any (fun win =>
    let met (bit : Nat) (xs : List LaneAccess) : Bool :=
      let ms := Rules.matches c u.part bit true (Rules.own c win xs)
      ms.map (fun m => Rules.actionOf m.by_) == acts && current c u ms
    match c.parts.op with
    | .lds =>
      let n := accessBytes (mBits x 6 5) rd.length
      let ls := spadLanes e c.f.a.toNat (byteOff x 4 0)
      (ldsFormat x e.fmt).isNone && Rules.windowOk c u win n false ls && u.part.emptyFor win n ls == [] &&
        met 0 (spadAccess ls (fun l => u.part.winRead win.1 win.2 l.at_ n))
    | .sts =>
      let n := accessBytes (mBits x 6 5) rc.length
      let ls := spadLanes e c.f.a.toNat (byteOff x 4 0)
      Rules.windowOk c u win n true ls && met 1 (spadAccess ls (fun l => e.laneBytes l.lane rc n))
    | .atoms =>
      let n := 4 * rd.length
      let ls := spadLanes e c.f.a.toNat (byteOff x 3 0)
      e.acting.all (fun l => match atomsType op x e rc l with
          | .ok t => t == e.fmt.entry (tagIndex (e.tag l x.c.toNat))
          | .error _ => false) &&
        Rules.windowOk c u win n true ls && u.part.emptyFor win n ls == [] && met 2 (spadAccess ls (fun l => atomWatched op n (e.words l.lane rc)))
    | _ => false)

theorem witness_scratch : all mem [.lds (f 8 4 0) (x 0 0), .sts (f 0 4 0) (x 5 0), .atoms (f 8 4 0) (x 5 0)] (scratchOk mem []) = true := by
  decide +kernel

/-- A watch of the scratchpad on the words that v4 names. -/
def Test.guardedSpad (access action : Nat) : State :=
  let d : Predicate := ⟨[word (2 + 16 * (access + 8) + 256 * action), 0, 0, 64, 0xFFFF, 0, 0xFFFFFFFF, 1], some 0, true, 0, false⟩
  Test.onCore (Test.lane mem) (fun k => { k with preds := setNth k.preds 2 d })

theorem witness_scratch_watched : (meets (guardedSpad 1 2) (.lds (f 8 4 0) (x 0 0)) (scratchOk (guardedSpad 1 2) [2]) &&
    meets (guardedSpad 2 3) (.sts (f 0 4 0) (x 5 0)) (scratchOk (guardedSpad 2 3) [3]) &&
    meets (guardedSpad 4 5) (.atoms (f 8 4 0) (x 5 0)) (scratchOk (guardedSpad 4 5) [5])) = true := by
  decide +kernel

/-- The cluster of two windows: the second is of rank 1. -/
def Test.pair : State := Test.onWg Test.mem (fun g => { g with cluster := 2, members := [(0, 0), (0, 0)] })

theorem witness_scratch_peer : all pair [.lds (f 8 4 3) (x 0 0x2000), .sts (f 0 4 3) (x 5 0x2000)] (scratchOk pair []) = true := by
  decide +kernel

/-- What CacheControl asks of DISCARD and FLUSH: nothing earlier of the warp holds them. -/
def Test.free (s : State) (c : Ctx) (lines vas : List Nat) : Bool :=
  let u := c.counted s
  !(u.part.acquiring c.ref || u.part.logNames c.ref vas || u.part.lineBusy c.ref false lines [])

theorem witness_cache : all cached [.pref (f 0 0 4) (xr 0 0), .pref (f 0 0 4) (xr 0 0x800), .discard (f 0 0 4) (xr 0 0), .discard (f 0 0 4) (xr 0 0x200),
    .flush (f 0 0 4) (xr 5 0x200), .flush (f 0 0 4) (xr 5 0x300)] (fun c =>
    let e := c.sees cached
    let u := c.counted cached
    let r := e.record c.f.b.toNat
    let m := byteOff c.x 4 0
    let index (l : Nat) : Nat := (e.v l c.f.a.toNat).toNat
    e.acting != [] && (match c.parts.op with
      | .pref => r.formOk e.fmt
      | .discard => (r.check e.fmt (fun r => r.w) c.group).isNone &&
          (laneTrap { r with oob := 1 } 1 (accessLanes e.fmt r m 1 index e.acting)).isNone &&
          free cached c (u.linesOf c.g.job e.fmt r m index .write e.acting) (recLines r m index e.acting)
      | .flush =>
        let ps := flushPieces e.fmt r m index (fun l => (e.v l c.x.c.toNat).toNat) e.acting
        (r.check e.fmt (fun r => r.r || r.w) c.group).isNone &&
          (laneTrap { r with oob := 1 } 1 (flushLanes r m index ps e.acting)).isNone &&
          free cached c ((u.flushRanges c.g.job ps).map (·.1)) (ps.map (fun q => q.va / 128 * 128)) &&
          decide (((u.part.core? c.ref.core).getD Core.reset).walkers.length < 4)
      | _ => false)) = true := by
  decide +kernel

theorem witness_fence : all released [.fence (f 0 0 0) (x 0 0x800), .fence (f 0 0 0) (x 0 0x1B00)] (fun c =>
    let u := c.counted released
    (c.sees released).acting != [] && c.parts.op == .fence && u.part.performed c.ref &&
      (Rules.released c u (decide (2 ≤ semField c.x)) (scopeField c.x)).isSome) = true := by
  decide +kernel

theorem witness_lock : all mem [.lock (f 0 0 16) (xr 0 4), .lock (f 0 12 16) (xw 0 0 2 2 0 0), .lock (f 1 0 16) (xr 0 12)] (fun c =>
    (c.sees mem).acting != [] && c.w.lockWait.isNone && c.w.lockDone.isEmpty &&
      (Rules.lockSends c (c.sees mem) (c.counted mem)).any (fun q => isDevice q.2.1)) = true := by
  decide +kernel

/-- A LOCK whose request has been granted, and one that waits. -/
theorem witness_lock_asked : [none, some true].all (fun a => let wait : LockWait := ⟨loadVa, 2 ^ 32 - 1, ⟨2 ^ 32 + 0x500, 0x200500⟩, none, a⟩
    meets (onWarp mem (fun w => if a.isNone then { w with lockWait := some wait } else { w with lockDone := [wait] })) (.lock (f 0 0 16) (xr 0 4)) (fun c =>
      ((c.w.lockWait.toList ++ c.w.lockDone).find? (fun w => w.pc == c.pc && w.pend.isNone && c.group.any (fun l => bitNat w.lanes l == 1))).any (fun w =>
        w.answer == a))) = true := by
  decide +kernel

/-- The lock is held. -/
def Test.holds : State := Test.onWarp Test.mem (fun w => { w with lock := some ⟨2 ^ 32 + 0x500, 0x200500⟩ })

theorem witness_unlock : meets holds (.unlock (f 0 0 16) (xr 0 0)) (fun c =>
    let e := c.sees holds
    let r := e.record c.f.b.toNat
    e.acting != [] && (lockRecord c e r).isNone && c.w.lock.any (fun k => k.va == r.base) &&
      (Rules.placedAt c (c.counted holds) r.base).any (fun p => p.1.quietOf c.ref && (p.1.beginRelease c.ref c.pc 3).isSome)) = true := by
  decide +kernel

/-! #### Tile commands, copies and waits -/

/-- Pairs at s2, s4 and s6: FP16 rows of 512 bytes at 0, 0x8000 and 0x10000; an edge word at s8; FP32 tiles; 128 KiB of window. -/
def Test.tiles : State :=
  let pairs : List Word := [0, word (512 + 4 * 2 ^ 18), 0x8000, word (512 + 4 * 2 ^ 18), 0x10000, word (512 + 4 * 2 ^ 18)]
  let s := Test.onWarp Test.floats (fun w => { w with s := [0, 0] ++ pairs ++ [word (8 + 128 * 16)] ++ List.replicate 55 0 })
  Test.onWg s (fun g => { g with scratch := 131072, tiles := List.replicate 16 { Tile.start with tag := tagFp32 } })

/-- What TileCommands asks. -/
def Test.tileFine (s : State) (c : Ctx) : Bool :=
  let e := c.sees s
  let u := c.counted s
  let inside (n : Nat) (rs : List (Nat × Nat)) : Bool := rs.all (fun r => r.2 == 0 || decide (r.1 + r.2 ≤ n))
  Rules.tileOps.contains c.parts.op && c.on u && (Rules.edge c e).any (fun ed =>
    let x := Rules.tileCommand c u e ed
    let b := Rules.tileBytes c e ed
    let peer := u.part.wg? x.peer.1 x.peer.2
    Rules.tileOk c u e ed && inside c.g.scratch b.1 && inside ((peer.map (·.scratch)).getD 0) b.2.1 &&
      inside (c.g.scratch - 512) b.2.2 && c.g.emptyLines (linesTouched b.1) == [] &&
      peer.all (fun g => g.emptyLines (linesTouched b.2.1) == []) &&
      (u.part.core? c.ref.core).any (fun k => decide (k.arrayQueue.length < 16)))

theorem witness_tiles : all tiles [.mma (f 1 2 4) (xw 8 0 1 1 0 8), .mma (f 1 2 4) (xw 8 0 0 1 0 9), .tzero (f 3 0 0) (x 0 3), .tld (f 1 2 0) (xw 8 0 1 0 0 8),
    .tst (f 2 1 0) (xw 8 1 0 0 0 0x408), .tred (f 2 1 0) (xw 8 1 0 0 0 8), .tscal (f 1 2 0) (xw 8 0 0 0 0 8), .topk (f 1 3 0) (xw 8 0 0 0 1 1),
    .tmov (f 1 2 0) (x 0 0x100), .tmov (f 4 1 0) (x 0 63)] (tileFine tiles) = true := by
  decide +kernel

theorem witness_tiles_off : all tiles [.tzero (f 3 0 0) (none_ 3), .mma (f 1 2 4) { xw 8 0 1 1 0 8 with n := true }] (fun c =>
    Rules.tileOps.contains c.parts.op && !c.on (c.counted tiles)) = true := by
  decide +kernel

/-- A record at s4 for boxes and one at s12 for barriers; a scratchpad pair at s2; a layout of 16 by 4 words. -/
def Test.copies : State :=
  let s : List Word := [0, 0, 0x100, word (64 + 3 * 2 ^ 18)] ++ record 0x1000 256 (4 + 3 * 2 ^ 16) ++ [1, 1, 16, 0] ++ record 0x2000 16 16
  let s := Test.onWarp Test.mem (fun w => { w with s := s ++ List.replicate 48 0 })
  Test.onWg s (fun g => { g with layouts := [[4, 64, 0, 0, word (16 + 65536 * 4), 0x00010001]] })

/-- What copiesRule and copiesWithMoreRule ask. -/
def Test.copyFine (s : State) (c : Ctx) : Bool :=
  c.on (c.counted s) && c.w.answer.all (fun a => a.1 != c.pc) && (Rules.copy c s).any (fun q => Rules.copyReady c q.2.2.2 q.1 q.2.1 q.2.2.1)

theorem witness_copies : all copies [.cpy (f 2 4 8) (xw 0 1 2 0 0 0), .cpyo (f 2 4 8) (xw 0 1 2 0 0 0),
    .cpy (f 2 4 8) (xw 12 1 2 0 2 0x100)] (copyFine copies) = true := by
  decide +kernel

theorem witness_cpyc : meets (onWg copies (fun g => { g with cluster := 2, members := [(0, 0), (0, 0)] })) (.cpyc (f 2 4 8) (xw 0 1 2 1 0 0))
    (copyFine (onWg copies (fun g => { g with cluster := 2, members := [(0, 0), (0, 0)] }))) = true := by
  decide +kernel

theorem witness_copies_off : all copies [.cpy (f 2 4 8) { xw 0 1 2 0 0 0 with n := true }, .cpyr (f 2 4 8) { xw 0 1 2 0 0 0 with n := true }]
    (fun c => !c.on (c.counted copies)) = true := by
  decide +kernel

theorem witness_cpyr : meets copies (.cpyr (f 2 4 8) (xw 0 1 2 0 0 3)) (fun c => c.parts.op == .cpyr && copyFine copies c &&
    (Rules.copy c copies).any (fun q => q.2.2.2.part.anchorOf c.g.launch (dieOf c.ref.core) == dieOf c.ref.core)) = true := by
  decide +kernel

/-- The state of a CPYR that has been numbered on another die. -/
def Test.numbered : State :=
  let s := Test.onWarp copies (fun w => { w with answer := some (loadVa, some 1) })
  let xs : List Command :=
    match s.acts (.cpyr (f 2 4 8) (xw 0 1 2 0 0 3)) with
    | none => []
    | some c => ((Rules.copy c s).map (fun q => c.command q.2.2.2 q.1 q.2.2.1 none)).toList
  Test.onCore s (fun k => { k with numbering := xs })

theorem witness_cpyr_numbered : meets numbered (.cpyr (f 2 4 8) (xw 0 1 2 0 0 3)) (fun c =>
    c.on (c.counted numbered) && c.w.answer.any (fun a => a.1 == c.pc && a.2.isSome) &&
      (((c.counted numbered).part.setAnswer c.ref none).core? c.ref.core).any (fun k =>
        (k.numbering.find? (fun q => q.w == c.ref)).isSome)) = true := by
  decide +kernel

/-- A pair for B at s2 that the copy fills, and at s16 the pair for A, an edge and tile 1. -/
def Test.follow : State :=
  let s : List Word := [0, 0, 0x100, word (512 + 4 * 2 ^ 18)] ++ record 0x1000 256 (4 + 4 * 2 ^ 16) ++ [0, 0, 0, 0, 0, 0, 0, 0] ++
    [0x8000, word (512 + 4 * 2 ^ 18), 0, 1]
  let t := Test.onWarp Test.mem (fun w => { w with s := s ++ List.replicate 44 0 })
  Test.onWg t (fun g => { g with layouts := [[4, 64, 0, 0, word (16 + 65536 * 4), 0x00010001]], scratch := 131072,
                                  tiles := List.replicate 16 { Tile.start with tag := tagFp32 } })

theorem witness_cpym : meets follow (.cpym (f 2 4 8) (xw 16 1 2 0 2 0)) (fun c => c.parts.op == .cpym && copyFine follow c &&
    (Rules.copy c follow).any (fun q => (c.followOn q.2.2.2 (c.sees follow)).toOption.any (fun m => (m.space c q.2.2.2).isNone &&
      c.g.emptyLines (linesTouched m.reads) == [] && !q.2.2.2.part.arrayFull c.ref.core))) = true := by
  decide +kernel

/-- A timeline with five numbers taken and three completed, one of them with a fix-up list. -/
def Test.waits : State :=
  let t : Timeline := { Timeline.zero with issued := 5, completed := 3, listLines := [0x200000 / 128], listClock := [1, 0, 0, 0] }
  let s := Test.onWarp Test.mem (fun w => { w with s := [3, 0, 5, 0, 9, 0] ++ w.s.drop 6 })
  Test.onWg s (fun g => { g with ct := t, mt := t })

theorem witness_timelines : all waits [.tlwait (f 1 0 0) (xw 0 0 1 0 0 0), .tlwait (f 1 2 0) (xw 0 0 1 0 0 1), .tlwait (f 1 4 0) (xw 0 0 1 0 0 2),
    .tlget (f 2 0 0) (xw 0 1 0 0 0 6)] (fun c => c.on (c.counted waits)) = true := by
  decide +kernel

theorem witness_lines : all waits [.femark (f 0 10 2) (x 0 0), .fefill (f 0 10 2) (x 0 0)] (fun c =>
    (c.parts.op == .femark || c.parts.op == .fefill) && c.on (c.counted waits)) = true := by
  decide +kernel

theorem witness_waits_off : all waits [.tlwait (f 1 0 0) { xw 0 0 1 0 0 0 with n := true }, .tlget (f 2 0 0) { xw 0 1 0 0 0 6 with n := true },
    .femark (f 0 10 2) (none_ 0), .fefill (f 0 10 2) (none_ 0), .tbinit (f 0 12 2) { xw 0 0 2 0 0 0 with n := true },
    .tbexp (f 0 12 2) { xw 0 0 2 0 0 0 with n := true }, .tbarv (f 0 12 0) { xw 0 0 2 0 0 0 with n := true },
    .tbwait (f 1 12 0) { xw 0 0 2 0 0 0 with n := true }, .send (f 2 3 4) (none_ 0), .recvp (f 2 3 4) (none_ 0),
    .mprobe (f 2 3 0) { xw 1 1 0 0 0 0 with n := true }, .lrec (f 2 8 0) { xw 0 0 3 0 0 0 with n := true }, .launch (f 2 3 0) (none_ 0),
    .cwait (f 1 2 3) (none_ 1), .cget (f 2 3 0) { xw 0 1 0 0 0 0 with n := true }] (fun c => !c.on (c.counted waits)) = true := by
  decide +kernel

theorem witness_barriers : all copies [.tbinit (f 0 12 10) (xw 0 0 2 0 0 0), .tbexp (f 0 12 10) (xw 0 0 2 0 0 0)] (fun c =>
    let u := c.counted copies
    let b := ((c.sees copies).s c.f.b.toNat).toNat
    (c.parts.op == .tbinit || c.parts.op == .tbexp) && c.on u && decide (1 ≤ b) && decide (b ≤ 65535) && !u.part.acquiring c.ref &&
      (Rules.barrierAt c (c.sees copies)).any (fun a => (Rules.placedAt c u a).any (fun q => !q.1.lineBusy c.ref false [lineOf q.2] []))) = true := by
  decide +kernel

theorem witness_barrier_answer : meets (onWarp copies (fun w => { w with answer := some (loadVa, some 1) })) (.tbarv (f 0 12 0) (xw 0 0 2 0 0 0))
    (fun c => c.parts.op == .tbarv && (Rules.barrierAt c (c.sees copies)).isSome && c.w.answer.any (fun a => a.1 == c.pc && a.2.isSome)) = true := by
  decide +kernel

theorem witness_barrier_wait : meets copies (.tbwait (f 1 12 0) (xw 0 0 2 0 0 0x100)) (fun c =>
    let u := c.counted copies
    c.parts.op == .tbwait && !u.part.acquiring c.ref && (Rules.barrierAt c (c.sees copies)).any (fun a => (Rules.placedAt c u a).any (fun q =>
      isDevice q.2 && (({ u with part := q.1 } : State).tbRead c q.2).isSome))) = true := by
  decide +kernel

/-- A workgroup of class 2 in phase mode. -/
def Test.phased : State := Test.onWg Test.mem (fun g => { g with cls := 2, phaseMode := true })

/-- The same with a dirty word in the L1, which a release sends. -/
def Test.phasedDirty : State :=
  Test.onCore phased (fun k => { k with l1 := [(0x200100 / 128, { L1Line.fresh 3 with sectors := 15, written := 1, dirty := 1 })] })

theorem witness_catch : all phasedDirty [.catchOp (f 0 0 0), .catchOpLong (f 1 0 0) (x 0 1)] (fun c => c.parts.op == .catchOp &&
    c.on (c.counted phasedDirty) && (match (c.counted phasedDirty).part.release c.ref c.pc 3 ((c.counted phasedDirty).part.quietOf c.ref) with
      | .begun _ => true
      | _ => false)) = true := by
  decide +kernel

theorem witness_catch_empty : meets phased (.catchOp (f 0 0 0)) (fun c => c.on (c.counted phased) &&
    (Rules.released c (c.counted phased) true 3).isSome) = true := by
  decide +kernel

theorem witness_catch_released : meets (onWarp phased (fun w => { w with release := some ⟨loadVa, 1, true⟩ })) (.catchOp (f 0 0 0)) (fun c =>
    (Rules.released c (c.counted (onWarp phased (fun w => { w with release := some ⟨loadVa, 1, true⟩ }))) true 3).isSome) = true := by
  decide +kernel

/-- Message operands: destination, address and length of a send at s2 to s4, and of a receive at s5 to s8. -/
def Test.talks : State :=
  Test.onWarp Test.mem (fun w => { w with s := [0, 0, 0x00050000, 0x100, 64, 0x200, 0x0005C000, 256, 0x400] ++ w.s.drop 9 })

theorem witness_send : meets talks (.send (f 2 3 4) (x 0 0)) (fun c =>
    let e := c.sees talks
    let u := c.counted talks
    let a := (e.s c.f.a.toNat).toNat
    let n := (e.s c.f.b.toNat).toNat
    let q := c.sendCommand u (e.s c.f.d.toNat) a n
    c.parts.op == .send && c.on u && c.w.answer.all (fun a => a.1 != c.pc) && Rules.sendForm (e.s c.f.d.toNat) a n &&
      decide (a + n ≤ c.g.scratch) && c.g.emptyLines (linesTouched [(a, n)]) == [] && !u.part.sendListBusy c.ref q.ring &&
      !u.part.engineFull c.ref.core .send && u.part.anchorOf c.g.launch (dieOf c.ref.core) == dieOf c.ref.core) = true := by
  decide +kernel

/-- The state of a SEND that has been numbered on another die. -/
def Test.numberedSend : State :=
  let s := Test.onWarp Test.talks (fun w => { w with answer := some (loadVa, some 1) })
  Test.onCore s (fun k => { k with numbering := ((s.acts (.send (f 2 3 4) (x 0 0))).map (fun c => c.sendCommand s 0x00050000 0x100 64)).toList })

theorem witness_send_numbered : meets numberedSend (.send (f 2 3 4) (x 0 0)) (fun c =>
    c.parts.op == .send && c.on (c.counted numberedSend) && c.w.answer.any (fun a => a.1 == c.pc && a.2.isSome) &&
      (((c.counted numberedSend).part.setAnswer c.ref none).core? c.ref.core).any (fun k =>
        (k.numbering.find? (fun q => q.w == c.ref)).isSome)) = true := by
  decide +kernel

/-- A message of tag 5 that waits in the hamper. -/
def Test.hampered : State :=
  let m : Message := ⟨1, 0, 5, 0, 0, [], 16, 0⟩
  Test.onCore talks (fun k => { k with hamper := [m] })

/-- What messagesRule asks of RECVP. -/
def Test.receives (s : State) (c : Ctx) : Bool :=
  let nat (r : BitVec 6) : Nat := ((c.sees s).s r.toNat).toNat
  c.parts.op == .recvp && c.on (c.counted s) && decide (c.g.receives.length < 16) &&
    Rules.receiveForm c.g.scratch ⟨c.ref.warp, nat c.f.d, (c.sees s).s c.f.a.toNat, nat c.f.b, nat c.x.c⟩

theorem witness_recvp : meets talks (.recvp (f 5 6 7) (x 8 0)) (fun c => receives talks c &&
    ((Rules.kept c (c.counted talks)).find? (Rules.takes ((c.sees talks).s c.f.a.toNat))).isNone) = true := by
  decide +kernel

theorem witness_recvp_hampered : meets hampered (.recvp (f 5 6 7) (x 8 0)) (fun c => receives hampered c &&
    ((Rules.kept c (c.counted hampered)).find? (Rules.takes ((c.sees hampered).s c.f.a.toNat))).isSome) = true := by
  decide +kernel

theorem witness_mprobe : meets hampered (.mprobe (f 2 6 0) (xw 1 1 0 0 0 0)) (fun c => c.parts.op == .mprobe && c.on (c.counted hampered)) = true := by
  decide +kernel

theorem witness_lrec : meets mem (.lrec (f 0 8 0) (xw 0 0 3 0 0 1)) (fun c => c.parts.op == .lrec && c.on (c.counted mem) &&
    ((c.sees mem).s c.f.d.toNat).toNat % 64 == 0 && decide (((c.sees mem).s c.f.d.toNat).toNat + 64 ≤ c.g.scratch - 512)) = true := by
  decide +kernel

/-- A launch record that may be pushed, at byte 0 of the window. -/
def Test.pushing : State :=
  let s : State := { mem with part := mem.part.winWrite 0 0 0 (loadRecord.flatMap (fun w => leBytes 4 w.toNat)) }
  Test.onWarp s (fun w => { w with release := some ⟨loadVa, 1, true⟩ })

/-- What launchRecordsRule asks of LAUNCH. -/
def Test.launchFine (s : State) (c : Ctx) : Bool :=
  let u := c.counted s
  let a := ((c.sees s).s c.f.a.toNat).toNat
  c.parts.op == .launch && c.on u && a % 64 == 0 && decide (a + 64 ≤ c.g.scratch) && c.g.emptyLines (linesTouched [(a, 64)]) == [] &&
    recordOk (bytesWords (u.part.winRead c.ref.core c.ref.slot a 64))

theorem witness_launch : meets pushing (.launch (f 2 0 0) (x 0 0)) (fun c => launchFine pushing c && decide (c.g.pending.length < 4) &&
    (Rules.released c (c.counted pushing) true 3).isSome) = true := by
  decide +kernel

theorem witness_launch_full : meets (onWg pushing (fun g => { g with pending := List.replicate 4 ⟨0, [], 0⟩ })) (.launch (f 2 0 0) (x 1 1)) (fun c =>
    launchFine (onWg pushing (fun g => { g with pending := List.replicate 4 ⟨0, [], 0⟩ })) c && decide (4 ≤ c.g.pending.length)) = true := by
  decide +kernel

/-! #### Counters, control registers, the format context, halted threads -/

/-- Two launches have completed in the counter of launch 1; its id is at s1, 0, 2 and 5 at s0, s2 and s5. -/
def Test.counting : State :=
  Test.onWarp { mem with part := mem.part.onLaunch 1 (fun l => { l with counter := { Counter.zero with count := 2 } }) } (fun w =>
    { w with s := [0, 1, 2, 3, 4, 5] ++ w.s.drop 6 })

/-- A CWAIT or CGET that names a counter. -/
def Test.names (s : State) (c : Ctx) (h : Nat × Counter → Bool) : Bool :=
  c.on (c.counted s) && !c.w.granted.contains c.pc && (Rules.named c (c.counted s) (c.sees s)).any h

theorem witness_cwait_meets : meets counting (.cwait (f 1 1 2) (x 0 1)) (fun c => c.parts.op == .cwait && names counting c (fun q =>
    q.2.meets 2 (mBit c.x 4)) && !mBit c.x 3) = true := by
  decide +kernel

theorem witness_cwait_parks : meets counting (.cwait (f 1 1 5) (x 0 1)) (fun c => c.parts.op == .cwait && names counting c (fun q =>
    !q.2.meets 5 (mBit c.x 4)) && !mBit c.x 3) = true := by
  decide +kernel

theorem witness_cwait_bad : meets counting (.cwait (f 1 5 2) (x 0 1)) (fun c => c.parts.op == .cwait && c.on (c.counted counting) &&
    (Rules.named c (c.counted counting) (c.sees counting)).isNone) = true := by
  decide +kernel

theorem witness_cwait_granted : meets (onWarp counting (fun w => { w with granted := [loadVa] })) (.cwait (f 1 1 5) (x 0 1)) (fun c =>
    c.w.granted.contains c.pc) = true := by
  decide +kernel

theorem witness_cwait_lost : meets (onWarp counting (fun w => { w with answer := some (loadVa, none) })) (.cwait (f 1 5 2) (x 0 1)) (fun c =>
    c.w.answer.any (fun a => a.1 == c.pc && a.2.isNone) && (Rules.named c (c.counted counting) (c.sees counting)).isNone) = true := by
  decide +kernel

theorem witness_cget : all counting [.cget (f 2 0 0) (xw 0 1 0 0 0 0), .cget (f 2 1 0) (xw 0 1 0 0 0 1), .cget (f 2 5 0) (xw 0 1 0 0 0 2)]
    (fun c => c.parts.op == .cget && c.on (c.counted counting)) = true := by
  decide +kernel

/-- Queue 1 with a control block at 0x20000 whose save area is 1 MiB at 0x100000. -/
def Test.saving : State :=
  let s := { counting with part := counting.part.onCox (fun x => { x with queues := [⟨1, 0x20000, true, false, 0, [], 0⟩] }) }
  { s with dram := (s.dram.writeN 0x20030 (leBytes 8 0x100000)).writeN 0x20038 (leBytes 8 0x100000) }

theorem witness_swap : meets saving (.cwait (f 1 1 5) (x 0 9)) (fun c => c.parts.op == .cwait && mBit c.x 3 && !Rules.stays c (c.counted saving) &&
    names saving c (fun q => !q.2.meets 5 (mBit c.x 4)) &&
    ((c.counted saving).saveSpace ((((c.counted saving).part.launch? c.g.launch).map (·.queue)).getD 0) c.g.imageSize).isSome) = true := by
  decide +kernel

theorem witness_cancel : all counting [.cancel (f 0 0 0) (x 0 0), .cancel (f 0 5 0) (x 0 0), .cancel (f 0 1 0) (x 0 1), .cancel (f 0 1 0) (x 0 4)]
    (fun c => c.parts.op == .cancel && c.on (c.counted counting) && !c.w.trapMode && c.w.answer.isNone) = true := by
  decide +kernel

theorem witness_cancel_answered : meets (onWarp counting (fun w => { w with answer := some (loadVa, some 0) })) (.cancel (f 0 1 0) (x 0 1))
    (fun c => c.w.answer.any (fun a => a.1 == c.pc && a.2.isSome)) = true := by
  decide +kernel

theorem witness_csrr : all mem [.csrr (f 2 0 0) (x 0 0x010), .csrr (f 2 0 0) (xw 0 1 0 0 0 0x410), .csrr (f 2 0 0) (x 0 0x436)] (fun c =>
    c.parts.op == .csrr && c.on (c.counted mem) && c.w.pend.all (fun e => !e.raisesFlags)) = true := by
  decide +kernel

/-- The warp in trap mode. -/
def Test.handler : State := Test.onWarp mem (fun w => { w with trapMode := true })

/-- Instructions that name each writable run of control registers. -/
def Test.csrws : List Instr :=
  [0x001, 0x002, 0x003, 0x00A, 0x00D, 0x010, 0x011, 0x012, 0x280, 0x283, 0x300, 0x311, 0x320, 0x33F, 0x340, 0x341, 0x342].map (fun n =>
    .csrw (f 0 0 0) (x 0 n))

theorem witness_csrw : all handler csrws (fun c => c.parts.op == .csrw && c.on (c.counted handler) &&
    (Rules.written c (c.counted handler) (mBits c.x 11 0) 0).isSome) = true := by
  decide +kernel

theorem witness_csrw_bits : all handler [.csrw (f 0 0 0) (x 0 0x1001), .csrw (f 0 1 0) (x 0 0x2001)] (fun c =>
    c.parts.op == .csrw && c.on (c.counted handler)) = true := by
  decide +kernel

/-- The image of entry 3 at s4, and a format table at s8. -/
def Test.images : State :=
  let e := ((mem.part.wg? 0 0).map (fun g => g.fmt.entry 3)).getD fp32
  let t : List Word := (List.range 7).map (fun i => word (4096 * (2 * i + 1) + 65536 * 4096 * (2 * i + 2)))
  Test.onWarp mem (fun w => { w with s := [0, 0, 0, 0, e.w0, e.w1, 0, 0] ++ t ++ [word (4096 * 15)] ++ w.s.drop 16 })

theorem witness_fmtset : meets images (.fmtset (f 0 4 0) (xw 0 0 2 0 0 20)) (fun c =>
    let e := c.sees images
    let r := c.f.a.toNat
    c.parts.op == .fmtset && c.on (c.counted images) && !(c.g.fmt.entry 20).locked && !c.g.fmtBusy 20 &&
      imageOk c.g.fmt ⟨e.s r, e.s (r + 1), e.s (r + 2), e.s (r + 3)⟩) = true := by
  decide +kernel

theorem witness_fmtset_locked : meets images (.fmtset (f 0 4 0) (xw 0 0 2 0 0 3)) (fun c => c.parts.op == .fmtset && c.on (c.counted images) &&
    (c.g.fmt.entry 3).locked) = true := by
  decide +kernel

theorem witness_fmtget : meets images (.fmtget (f 4 0 0) (xw 0 2 0 0 0 31)) (fun c => c.parts.op == .fmtget && c.on (c.counted images)) = true := by
  decide +kernel

theorem witness_cpdset : meets images (.cpdset (f 0 8 0) (xw 0 0 3 0 0 8)) (fun c => c.parts.op == .cpdset && c.on (c.counted images) &&
    tableOk ((List.range 8).map (fun j => (c.sees images).s (c.f.a.toNat + j))) &&
    (List.range 32).all (fun j => !c.g.fmtBusy j)) = true := by
  decide +kernel

/-- A data watch of reads at s8, and the predicate bank: 1 its own, 2 of another workgroup. -/
def Test.watched : State :=
  let d : List Word := [word (2 * 2 ^ 3), 0x1000, 1, 64, 0, 0, 0, 0]
  let s := Test.onWarp mem (fun w => { w with s := w.s.take 8 ++ List.replicate 8 0 ++ d ++ w.s.drop 24 })
  Test.onCore s (fun k =>
    let own : Predicate := ⟨List.replicate 8 0, some 0, false, 0, false⟩
    let foreign : Predicate := ⟨List.replicate 8 0, some 3, true, 0, false⟩
    { k with preds := [Predicate.start, own, foreign] ++ k.preds.drop 3 })

theorem witness_wpset : all watched [.wpset (f 0 8 0) (xw 0 0 3 0 0 1), .wpset (f 0 8 0) (xw 0 0 3 0 0 2)] (fun c =>
    let d : Predicate := ⟨(List.range 8).map (fun j => (c.sees watched).s (c.f.a.toNat + j)), some c.ref.slot, false, 0, false⟩
    c.parts.op == .wpset && c.on (c.counted watched) && !d.badForm && !d.launchScope) = true := by
  decide +kernel

/-- The predicate a WPCTL names. -/
def Test.pred (c : Ctx) (s : State) : Predicate :=
  nth (((c.counted s).part.core? c.ref.core).getD Core.reset).preds (mBits c.x 3 0) Predicate.start

theorem witness_wpctl : all watched [.wpctl (f 0 0 0) (x 0 0x01), .wpctl (f 0 0 0) (x 0 0x11), .wpctl (f 0 0 0) (x 0 0x20), .wpctl (f 1 0 0) (x 0 0x31),
    .wpctl (f 1 0 0) (x 0 0x42)] (fun c => c.parts.op == .wpctl && c.on (c.counted watched) &&
      (decide (2 < mBits c.x 6 4) || (pred c watched).owner == some c.ref.slot || (mBits c.x 6 4 != 0 && (pred c watched).owner.isNone))) = true := by
  decide +kernel

theorem witness_wpctl_prot : meets watched (.wpctl (f 0 0 0) (x 0 0x02)) (fun c => c.parts.op == .wpctl && c.on (c.counted watched) &&
    decide (mBits c.x 6 4 ≤ 2) && (pred c watched).owner.any (fun o => o != c.ref.slot)) = true := by
  decide +kernel

/-- A second warp whose threads are halted; its target word is 32 at s1, and 2^9 more names all of it at s2. -/
def Test.halted : State :=
  let s := Test.onWarp handler (fun w => { w with s := [0, 32, 544, 8, 0] ++ w.s.drop 5 })
  Test.onWg s (fun g => { g with warps := g.warps ++ g.warps.map (fun w =>
    { w with threads := w.threads.map (fun t => { t with st := .halted .ready [.request] }) }) })

theorem witness_hread : all halted [.hread (f 4 1 0) (x 0 0x00), .hread (f 4 1 0) (x 0 0x3F), .hread (f 4 1 0) (x 0 0x40), .hread (f 4 1 0) (x 0 0x80),
    .hread (f 4 1 0) (x 0 0xC0), .hread (f 4 1 0) (x 0 0xC7), .hwrite (f 0 1 3) (x 0 0xC2), .hwrite (f 0 1 3) (x 0 0xC3), .hwrite (f 0 1 3) (x 0 0xC1),
    .hwrite (f 0 1 3) (x 0 0x7F)] (fun c => (c.parts.op == .hread || c.parts.op == .hwrite) && c.on (c.counted halted) && !(c.counted halted).part.debugHolds c.ref &&
      Rules.itemOk c (mBits c.x 7 0) && (Rules.haltedTarget c ((c.sees halted).s c.f.a.toNat)).any (fun q => q.2.2.2.isHalted)) = true := by
  decide +kernel

theorem witness_hread_bad : meets halted (.hread (f 4 2 0) (x 0 0)) (fun c => c.parts.op == .hread && c.on (c.counted halted) &&
    (c.g.target ((c.sees halted).s c.f.a.toNat)).isNone) = true := by
  decide +kernel

theorem witness_hstep : meets (onWarp halted (fun w => { w with answer := some (loadVa, some 1) })) (.hstep (f 1 1 0) (x 0 0)) (fun c =>
    c.parts.op == .hstep && c.on (c.counted halted) && c.w.answer.any (fun a => a.1 == c.pc && a.2.isSome) &&
      (c.g.target ((c.sees halted).s c.f.a.toNat)).all (fun q => c.g.warps[q.1]?.all (fun w => w.committed q.2))) = true := by
  decide +kernel

theorem witness_hres : all halted [.hres (f 0 1 0) (x 0 0), .hres (f 0 2 0) (x 0 0)] (fun c => c.parts.op == .hres && c.on (c.counted halted) &&
    !(c.counted halted).part.debugHolds c.ref &&
    ((c.sees halted).s c.f.a.toNat).extractLsb 31 11 == 0 &&
    decide ((((c.sees halted).s c.f.a.toNat).extractLsb 8 5).toNat < c.g.warps.length)) = true := by
  decide +kernel

theorem witness_dumpq : all halted [.dumpq (f 0 0 0), .dumpqLong (f 4 0 0) (x 0 1)] (fun c => c.parts.op == .dumpq && c.on (c.counted halted)) = true := by
  decide +kernel

theorem witness_system_off : all halted [.cancel (f 0 0 0) (none_ 0), .csrr (f 2 0 0) (none_ 0x10), .csrw (f 0 0 0) (none_ 0x10),
    .fmtset (f 0 4 0) { xw 0 0 2 0 0 20 with n := true }, .fmtget (f 4 0 0) { xw 0 2 0 0 0 31 with n := true },
    .cpdset (f 0 8 0) { xw 0 0 3 0 0 8 with n := true }, .wpset (f 0 8 0) { xw 0 0 3 0 0 1 with n := true }, .wpctl (f 0 0 0) (none_ 1),
    .hread (f 4 1 0) (none_ 0), .hwrite (f 0 1 3) (none_ 0), .hstep (f 1 1 0) (none_ 0), .hres (f 0 1 0) (none_ 0), .dumpqLong (f 4 0 0) (none_ 1),
    .trap (f 0 0 0) (none_ 1)] (fun c => !c.on (c.counted halted)) = true := by
  decide +kernel

theorem witness_rte : meets handler (.rte (f 0 0 0)) (fun c => c.parts.op == .rte && !(c.counted handler).part.debugHolds c.ref) = true := by
  decide +kernel

/-! #### Events -/

/-- The hypotheses of an event's clause hold of a warp. -/
def Test.warp (s : State) (h : Warp → Bool) : Bool := (s.part.warp? ⟨0, 0, 0⟩).any h

/-- Two results that may commit, sleepers whose time is over, threads passed over, a gap that is over. -/
def Test.expiring : State :=
  let lanes : List PendLane := [laneWrites 0 [(Target.v 1, 7, tagInt32)]]
  let e (id : Nat) (due : Option Nat) : Pend := { id := id, pc := loadVa, foreign := false, due := due, lanes := lanes, flags := 0 }
  Test.onWarp mem (fun w =>
    { w with pend := [e 0 (some 40), e 1 none], seq := 2, gapEnd := 40,
             threads := w.threads.zipIdx.map (fun q => if q.2 = 0 then { q.1 with passed := 1024 } else { q.1 with st := .live (.asleep 40) }) })

theorem witness_expiries : (warp expiring (fun w => w.pend.all (fun e => Rules.mayCommit w expiring.part.now e && e.raised == []) && w.pend.length == 2 &&
    decide (w.gapEnd ≤ expiring.part.now) && w.threads.any (fun t => t.isReady && decide (1024 ≤ t.passed)))) = true := by
  decide +kernel

/-- Threads that have waited on an empty line for 2^20 cycles. -/
def Test.starved : State :=
  Test.onWarp mem (fun w =>
    { w with emptyTimer := 2 ^ 20, threads := w.threads.map (fun t => { t with st := .live (.parked (.lines 0 0 [1])) }) })

theorem witness_starved : (warp starved (fun w => Rules.waitedOut w && w.onLines.isSome) &&
    (starved.part.wg? 0 0).any (fun g => g.dead.isNone && g.swapping.isNone)) = true := by
  decide +kernel

/-- A warp that holds a lock: a candidate for the sprinter. -/
def Test.candidate : State := Test.onWarp holds (fun w => { w with candidate := some (3, 1) })

theorem witness_promotion : (warp candidate (fun w => w.pend == [] && w.sprint.isNone && !w.anyHalted && !w.finished) &&
    (candidate.part.bestReason ⟨0, 0, 0⟩).any (fun b => let p := Rules.considered candidate.part ⟨0, 0, 0⟩
      decide ((p.promoted 0).length < 4) && b == 1 && (p.candidates 0).map (·.1) == [⟨0, 0, 0⟩])) = true := by
  decide +kernel

/-- Four warps on the sprinter whose quantum has passed, the first the longest, and a fifth that waits. -/
def Test.crowded : State :=
  let s := Test.onWg candidate (fun g => { g with warps := (List.range 5).flatMap (fun k => g.warps.map (fun w =>
    { w with sprint := if k < 4 then some (3 + k, 1) else none })) })
  { s with part := { s.part with now := 2 ^ 20 } }

theorem witness_quantum : ((Rules.overstays crowded.part ⟨0, 0, 0⟩).any (fun n => (crowded.part.promoted 0).length == 4 &&
    (crowded.part.promoted 0).all (fun x => (Rules.overstays crowded.part x).any (fun m => decide (n ≤ m))))) = true := by
  decide +kernel

/-- A promoted warp with four results, the third of which is not known. -/
def Test.retiring : State :=
  let e (id : Nat) (ls : List PendLane) : Pend := { id := id, pc := loadVa, foreign := false, due := none, lanes := ls, flags := 0 }
  let known := laneWrites 0 [(Target.v 1, 7, tagInt32)]
  Test.onWarp mem (fun w => { w with sprint := some (3, 1), pend := [e 0 [known], e 1 [known], e 2 [{ known with values := none }], e 3 [known]] })

theorem witness_retire : (warp retiring (fun w => w.sprint.isSome && w.pend.all (fun x => x.raised == []) && (retiring.part.core? 0).any (fun k => Rules.retires k w == [0, 1] &&
    Rules.retires { k with retired := 1 } w == [0] && Rules.retires k { w with pend := w.pend.drop 2 } == []))) = true := by
  decide +kernel

/-- A trap that waits, in user mode. -/
def Test.trapped : State :=
  Test.onWarp mem (fun w => { w with tqueue := [⟨true, causeCpyFault, 1, loadVa, 0x1000, 1, 0⟩] })

theorem witness_delivery : ((trapped.part.wg? 0 0).any (fun g => g.dead.isNone && g.swapping.isNone && trapped.part.tbaseOf g != 0 &&
    g.warps[0]?.any (fun w => !w.trapMode && !w.anyHalted && !w.finished && w.answer.isNone && w.skid.isNone &&
      w.pend.all (fun e => e.raised == []) && w.tqueue.head?.any (fun t => t.cause != causeMachineCheck && t.cause != causeDeadline)))) = true := by
  decide +kernel

theorem witness_precise : ((mem.ctx? ⟨.nop, f 0 0 0, .short⟩).any (fun c => !mem.part.stepping c.ref && !c.w.trapMode && c.w.skid.isNone && c.tbase != 0 &&
    (match (⟨false, causePriv, 1, c.pc, 0, 0, 0⟩ : TrapRec).kind with | .precise => true | _ => false))) = true := by
  decide +kernel

/-- The turn of a warp that has issued some instructions in its skid, beside a second warp. -/
def Test.runsOn (n age : Nat) (j : Nat := 1) : State :=
  let s := Test.onWg mem (fun g => { g with warps := g.warps ++ g.warps })
  let s := Test.onWarp s (fun w => { w with skid := some ⟨n, age, [.broadcast j]⟩, gapEnd := 0 })
  { s with part := { s.part with sched := [.issue ⟨0, 0, 0⟩] } }

theorem witness_skid_trap : (((runsOn 2 5).ctx? ⟨.nop, f 0 0 0, .short⟩).any (fun c => !(runsOn 2 5).part.stepping c.ref && !c.w.trapMode &&
    c.w.skid.isSome)) = true := by
  decide +kernel

theorem witness_skid : [0, 1, 2, 3].all (fun n => (runsOn n 31).stepReady.isNone && (runsOn n 31).debugNext.isNone && (((runsOn n 31).part.wg? 0 0).any (fun g => g.dead.isNone &&
    g.swapping.isNone && g.warps.all (fun y => !Rules.waitedOut y) && g.warps[0]?.any (fun w => w.skid.isSome && w.eligible (runsOn n 31).part.now && w.nextPc.isSome) &&
    g.warps[1]?.any (fun w => w.skid.isNone && !w.trapDue)))) = true := by
  decide +kernel

/-- A warp whose skid a higher-numbered warp's precise trap of the same cycle has begun. -/
def Test.outran : State :=
  Test.onWg (runsOn 0 0) (fun g => { g with broadcast := some 1, warps := g.warps.zipIdx.map (fun q =>
    if q.2 = 1 then { q.1 with trapMode := true, tcause := word causePriv } else q.1) })

theorem witness_outrun : ((outran.ctx? ⟨.nop, f 0 0 0, .short⟩).any (fun c => !outran.part.stepping c.ref && !c.w.trapMode && c.tbase != 0 &&
    c.w.skid.any (fun k => c.g.outrun c.ref.warp k == some 1))) = true := by
  decide +kernel

theorem witness_double : ((handler.ctx? ⟨.nop, f 0 0 0, .short⟩).any (fun c => !handler.part.stepping c.ref && c.w.trapMode)) = true := by
  decide +kernel

/-- A packet, a release whose round is done, a discard and a flush walker on core 0, and an update and a notice at die 0. -/
def Test.flowing : State :=
  let stamp : Stamp := ⟨1, [0, 1, 0, 0]⟩
  let notice : Stamp := ⟨2, [0, 0, 1, 0]⟩
  let t := Test.onCore mem (fun k =>
    { k with packets := [⟨4, 0x4000, [(0, 5)], 9, none, 0, [], []⟩, ⟨5, 0x4001, [(0, 5)], 9, some 0, 0, [], []⟩],
             releases := [⟨1, 0, [], false, false, [], none, [], []⟩], discards := [(6, 0x4010, ⟨0, 0, 0⟩)],
             walkers := [⟨7, ⟨0, 0, 0⟩, [(0x4020, [0])], false, 8, []⟩, ⟨8, ⟨0, 0, 0⟩, [(0x4020, [0])], true, 8, []⟩], nextId := 9 })
  { t with part := t.part.onDie 0 (fun d => { d with inbox := [⟨0, 0x4001, [(1, 7)], stamp, false, none, none, none⟩,
                                                               ⟨1, 0x4002, [], notice, true, none, none, none⟩] }) }

theorem witness_flow : ((flowing.part.core? 0).any (fun k =>
    [4, 5].all (fun n => (k.packets.find? (fun q => q.id == n)).any (fun q => flowing.part.packetReady 0 q && !flowing.part.refused q.line)) &&
    (k.releases.find? (fun x => x.id == 1)).any (fun x => flowing.part.roundDone 0 x) &&
    (k.discards.find? (fun q => q.1 == 6)).any (fun q => k.portClear 0 6 0 (lineSlice q.2.1)) &&
    [7, 8].all (fun n => (k.walkers.find? (fun w => w.id == n)).any (fun w =>
      (w.deep || w.ranges.all (fun r => k.packets.all (fun q => q.line != r.1 || decide (w.last ≤ q.id)))) &&
      (!w.deep || w.ranges.all (fun r => flowing.part.ownBefore 0 w.last (homeDie (128 * r.1)) r.1 &&
        flowing.part.applied (homeDie (128 * r.1)) w.need))))) &&
    [false, true].all (fun n => (flowing.part.die 0).inbox.any (fun u => u.notice == n && flowing.part.deliverable 0 u))) = true := by
  decide +kernel

/-- The same with a forward window over the lines, in normal service. -/
def Test.windowed (s : State) : State :=
  { s with part := s.part.onDie 0 (fun d => { d with windows := [some ⟨0x200000, 0x210000, 1⟩] }) }

theorem witness_refused : ((windowed flowing).part.core? 0).any (fun k => k.packets.all (fun q => (windowed flowing).part.refused q.line) &&
    k.packets.all (fun q => (windowed flowing).part.packetReady 0 q)) = true := by
  decide +kernel

/-- Core 0 asks for a sector of a line of its own die, or (4) for the line at the slice. -/
def Test.asking (j : Nat) : State := Test.onCore mem (fun k => { k with fills := [⟨1, 0x4000, j, 0⟩] })

/-- A line whose home is not die 0. -/
def Test.far : Nat := ((List.range 64).map (fun j => 0x4000 + 2 ^ j / 128)).find? (fun l => homeDie (128 * l) != 0 && isDevice (128 * l)) |>.getD 0

def Test.askingFar : State := Test.onCore mem (fun k => { k with fills := [⟨1, far, 0, 0⟩] })

theorem witness_sector_fill : ([1, 4].all (fun j => (asking j).fillReady 0 0x4000 j && !(asking j).part.poisonedAt 0 0x4000) &&
    (let s : State := { asking 1 with part := (asking 1).part.onDie 0 (fun d => { d with poison := [0x4000] }) }
     s.fillReady 0 0x4000 1 && s.part.poisonedAt 0 0x4000)) = true := by
  decide +kernel

theorem witness_replica : (homeDie (128 * far) != 0 && isDevice (128 * far) && (askingFar.part.copy? 0 far).isNone &&
    vcLe (askingFar.part.die (homeDie (128 * far))).vc (askingFar.part.die 0).vc && !askingFar.part.lacking 0 far && !Rules.writesAhead askingFar.part 0 far &&
    (askingFar.part.wanted 0 far).any (askingFar.part.crossClear 0 (homeDie (128 * far)))) = true := by
  decide +kernel

/-- An atomic addition of two lanes on its way. -/
def Test.adding : State :=
  let a : AtomReq :=
    ⟨3, ⟨0, 0, 0⟩, loadVa, none, 0, fp32, [⟨0, 0x200100, 2 ^ 32 + 0x100, [5], 4⟩, ⟨1, 0x200100, 2 ^ 32 + 0x100, [6], 4⟩], some 3, 0⟩
  Test.onCore mem (fun k => { k with atoms := [a] })

theorem witness_atomic_at_home : ((adding.part.core? 0).any (fun k => (k.atoms.find? (fun a => a.id == 3)).any (fun a =>
    a.first.isSome && adding.atomReady 0 a && !adding.part.poisonedAt (a.die 0) a.line && !adding.part.refused a.line))) = true := by
  decide +kernel

/-- An arrival at a barrier of count 1, and one at a barrier of count 0. -/
def Test.arriving : State :=
  let t : State := { mem with dram := mem.dram.writeN 0x202000 (leBytes 8 (1 + 2 ^ 32)) }
  { t with part := { t.part with tbUpdates := [⟨0, 0x202000, 2, 0, false, ⟨0, 0, 0⟩, none, 0, [], 0, 0⟩, ⟨1, 0x203000, 2, 0, false, ⟨0, 0, 0⟩, none, 0, [], 0, 0⟩] } }

theorem witness_tb : (arriving.part.tbUpdates.all (fun u => arriving.part.tbReady u && !arriving.part.refused (lineOf u.addr)) &&
    (windowed arriving).part.tbUpdates.all (fun u => (windowed arriving).part.tbReady u && (windowed arriving).part.refused (lineOf u.addr)) &&
    arriving.part.tbUpdates.map (fun u => (Rules.barrier (arriving.homeRead u.addr 16) u.kind u.value u.error).isSome) == [true, false]) = true := by
  decide +kernel

/-- A lock request and a TRY on their way, and a free entry whose request may be granted. -/
def Test.locking : State :=
  { mem with part := mem.part.onDie 0 (fun d => { d with lockSends := [⟨⟨0, 0, 0⟩, 0x200500, false, [], 0, 0, false⟩, ⟨⟨0, 0, 1⟩, 0x200700, true, [], 0, 0, true⟩],
                                                         locks := [⟨0x200600, none, [⟨⟨0, 0, 0⟩, 3, []⟩]⟩] }) }

theorem witness_locks : ((locking.part.die 0).lockSends.all (fun q => locking.part.lockArrives 0 q) &&
    (locking.part.die 0).locks[0]?.any (fun e => e.holder.isNone && e.waiting.all (fun q => Rules.firstOf q e.waiting && q.ranges == []))) = true := by
  decide +kernel

/-- The warp that gets a lock is promoted at the grant (R414). -/
theorem test_grant_promotes :
    (match execLockGrant 0 0 (onWarp locking (fun w => { w with lockWait := some ⟨loadVa, 2 ^ 32 - 1, ⟨2 ^ 32 + 0x600, 0x200600⟩, none, none⟩ })) with
      | .next t => warp t (fun w => w.lock.isSome && w.sprint == some (t.part.now, 1))
      | _ => false) = true := by
  decide +kernel

/-- A copy command with what its box asks for. -/
def Test.command (op : Op) (todo : List CopyRun) : Command :=
  { id := 7, w := ⟨0, 0, 0⟩, pc := loadVa, launch := 1, job := loadJob, op := op, number := 1, ring := 0, spBase := 0x100, bytes := 64, esz := 4,
    entry := fp32, rop := 3, members := [(0, 0)], barrier := none, posted := true, todo := todo, flying := [], done := 0, segments := [],
    listVa := 0, lines := [], status := 1, settled := decide (todo = []), clock := [0, 0, 0, 0], need := [], listClock := [0, 0, 0, 0], listLines := [], after := 0, dest := 0x00050000, payload := [],
    dropped := false }

/-- The command of an operation at the head of its engine's queue. -/
def Test.copying (op : Op) (todo : List CopyRun) : State :=
  if op = .cpyr ∨ op = .send then
    { mem with part := mem.part.onDie 0 (fun d => { d with collQueue := [command op todo] }) }
  else Test.onCore mem (fun k => { k with copyQueue := [command op todo] })

/-- A run in bounds, one out of bounds and one whose page is absent. -/
def Test.runs : List CopyRun :=
  [⟨0, 2 ^ 32 + 0x100, 0x100, 32, true, 0⟩, ⟨32, 2 ^ 32 + 0x9000, 0x120, 32, false, 0⟩, ⟨64, 2 ^ 40, 0x140, 32, true, 0⟩]

theorem witness_landing : ([Op.cpy, .cpyo, .cpym, .cpyc].all (fun op => let s := copying op runs
    (s.part.command? 7).any (fun q => q.posted && s.part.moving q && (List.range 3).all (fun i => q.todo[i]?.isSome &&
      decide (i < min 16 (30 - q.segments.length) - q.flying.length))))) = true := by
  decide +kernel

theorem witness_landing_line : ((match mem.translate loadJob (2 ^ 32 + 0x100) .read with
    | .ok loc => isDevice loc && !mem.part.poisoned (lineOf loc) && !mem.part.refused (lineOf loc) && mem.engineReady (command .cpy runs) loc
    | _ => false) && (match mem.translate loadJob (2 ^ 40) .read with | .absent _ => true | _ => false)) = true := by
  decide +kernel

theorem witness_send_reads : (((copying .send [⟨0, 0, 0x100, 64, true, 0⟩]).part.command? 7).any (fun q =>
    q.posted && (copying .send [⟨0, 0, 0x100, 64, true, 0⟩]).part.moving q && q.op == .send && q.todo != [])) = true := by
  decide +kernel

/-- A copy or a reduction of which a segment was answered and is to be tried again. -/
def Test.replaying (op : Op) : State :=
  let s := copying op []
  { s with part := s.part.onCommand 7 (fun q => { q with segments := [⟨2 ^ 32 + 0x100, 0, 32, 0x100, 0, 0, 0, 0, true⟩] }) }

theorem witness_replays : ([Op.cpy, .cpyo, .cpyr].all (fun op => ((replaying op).part.command? 7).any (fun q => q.posted &&
    (replaying op).part.moving q && q.segments[0]?.any (fun g => g.state == 0 && g.due && !q.before ⟨g.off, g.va, g.sp, g.len, true, g.extra⟩)))) = true := by
  decide +kernel

theorem witness_reduction : (((copying .cpyr runs).part.command? 7).any (fun q => q.posted && q.todo[0]?.any (fun run =>
    run.inBounds && !q.before run && (Rules.located ((copying .cpyr runs).translate q.job run.va .atomic)).any (fun loc => isDevice loc &&
      !(copying .cpyr runs).part.poisoned (lineOf loc) && !(copying .cpyr runs).part.refused (lineOf loc) &&
      (copying .cpyr runs).engineReady q loc &&
      ((copying .cpyr runs).part.pathMask loc).testBit (atomClass 10 q.esz))))) = true := by
  decide +kernel

/-- A warp whose tile command is held at issue. -/
def Test.heldAtIssue : State :=
  Test.onWarp mem (fun w => { w with heldCmd := [(loadVa, [])], threads := w.threads.map (fun t => { t with retry := true }) })

theorem witness_dispatch : (warp heldAtIssue (fun w => w.heldCmd.any (fun h => w.threads.any (fun t => t.isReady && t.retry && t.pc == h.1)))) = true := by
  decide +kernel

/-- A request of a copy that has been without an answer for 10 ms. -/
def Test.late : State :=
  let r : Remote := ⟨2, 3, 2 ^ 50, ⟨0, 0, 0⟩, loadVa, none, some 7, none, 0, 32, 0, [], 0, none, 2 ^ 32, false⟩
  let s := Test.onCore mem (fun k => { k with copyQueue := [{ command .cpy [] with flying := [⟨2, ⟨0, 2 ^ 32, 0, 32, true, 0⟩, none⟩] }] })
  { s with part := { s.part.onMgmt (fun m => { m with remotes := [r] }) with now := 40000000 } }

theorem witness_timeout : ((late.part.mgmt.remotes.find? (fun r => r.id == 2 && r.command == some 7)).any (fun r =>
    decide (r.issued + 40000000 ≤ late.part.now)) && (late.part.command? 7).any (fun q => q.flying.any (fun x => x.remote == 2))) = true := by
  decide +kernel

theorem witness_copy_complete : ([Op.cpy, .cpyr, .send].all (fun op => ((copying op []).part.command? 7).any (fun q => q.settled &&
    (copying op []).part.tbUpdates.all (fun u => u.command != some 7) && (copying op []).part.mgmt.remotes == []))) = true := by
  decide +kernel

/-! #### Events of tile commands, messages, launches and placement -/

/-- A TZERO in the array queue of core 0, and one that runs. -/
def Test.tiling : State :=
  let x : TileCmd :=
    { id := 7, w := ⟨0, 0, 0⟩, number := 1, op := .tzero, m := 3, d := 2, a := 0, pairA := [0, 0], pairB := [0, 0], pairD := [0, 0], rows := 64,
      cols := 128, kv := 0, base := 0, entryA := Entry.empty, entryB := Entry.empty, srcTag := tagFp32, outTag := some tagFp32, peer := (0, 0),
      vregs := [], pend := none, fmt := FmtCtx.initial, waits := none, failed := false }
  Test.onCore mem (fun k => { k with arrayQueue := [x], running := some x })

theorem witness_tile_start : (((onCore tiling (fun k => { k with running := none })).part.core? 0).any (fun k => k.running.isNone &&
    (k.arrayQueue.find? (fun x => x.waits.isNone &&
      k.arrayQueue.all (fun y => y.w.slot != x.w.slot || decide (x.number ≤ y.number)))).isSome)) = true := by
  decide +kernel

theorem witness_tile_complete : (tiling.part.core? 0).any (fun k => k.running.any (fun x => (tiling.part.wg? x.w.core x.w.slot).isSome)) = true := by
  decide +kernel

/-- What the statements of tile commands ask of a command of each kind, with registers of two lanes. -/
theorem witness_tile_results : ([Op.mma, .tld, .tst, .tzero, .tred, .tscal, .topk, .tmov].all (fun op => (tiling.part.core? 0).any (fun k =>
    k.running.any (fun y => let x := { y with op := op, vregs := [(0, [1, 2]), (31, [3, 4])] }
      decide (x.rows ≤ 64) && decide (x.cols ≤ 128) && x.vregs.all (fun v => decide (v.1 < 32)) && (x.vregs.map (·.1)).eraseDups.length == 2 &&
        (tiling.part.wg? 0 0).any (fun g => (((g.tile x.d).words.map (·.1)).zip ((g.tile x.d).words.map (·.1)).tail).all (fun q => decide (q.1 < q.2)))))) &&
    (tiling.part.winRead 0 0 512 256).length == 256) = true := by
  decide +kernel

theorem witness_xt_number : (((onCore mem (fun k => { k with numbering := [{ command .cpyr [] with number := 0 }] })).part.core? 0).any (fun k =>
    (k.numbering.find? (fun q => q.w == ⟨0, 0, 0⟩ && q.number == 0)).any (fun q => (mem.part.launch? q.launch).isSome))) = true := by
  decide +kernel

/-- A SEND whose message of tag 5 has reached core 0. -/
def Test.message (slot : Nat) : State :=
  let s := copying .send []
  { s with part := s.part.onDie 0 (fun d => { d with messages := [(7, ⟨1, 0, 5, 0, slot, [1, 2, 3, 4], 4, 0⟩)] }) }

/-- What arrivalsRule asks of MESSAGE_ARRIVAL. -/
def Test.arrives (s : State) (h : Message → Option Wg → Bool) : Bool :=
  (s.part.command? 7).any (fun q => !s.part.sendWaits q && s.part.crossClear (dieOf q.w.core) 0 7 && ((s.part.die (dieOf q.w.core)).messages.find? (fun m => m.1 == 7)).any (fun e =>
    h e.2 ((s.part.wg? e.2.dstCore e.2.dstSlot).filter (fun g => g.launch == q.launch && !g.complete))))

theorem witness_message_lost : (arrives (message 3) (fun _ g => g.isNone) &&
    arrives (onWg (message 0) (fun g => { g with complete := true })) (fun _ g => g.isNone)) = true := by
  decide +kernel

theorem witness_message_taken : (arrives (onWg (message 0) (fun g => { g with receives := [⟨0, 0x200, 0x0005C000, 256, 0x400⟩] })) (fun m g =>
    g.any (fun g => g.receives.any (fun r => Rules.takes r.mw m)))) = true := by
  decide +kernel

theorem witness_message_kept : (arrives (message 0) (fun m g => g.any (fun g => g.receives.all (fun r => !Rules.takes r.mw m)) &&
    ((message 0).part.core? m.dstCore).any (fun k => (List.range 64).any (fun i => k.hamper.all (fun m => m.entry != i))))) = true := by
  decide +kernel

theorem witness_message_overflow : (arrives (onCore (message 0) (fun k => { k with hamper := (List.range 64).map (fun i => ⟨1, 0, 9, 0, 0, [], 4, i⟩) }))
    (fun m g => g.any (fun g => g.receives.all (fun r => !Rules.takes r.mw m)))) = true := by
  decide +kernel

/-- Every thread of a launch of class 2 waits at CATCH. -/
def Test.caught (t : Timeline) : State :=
  let s := Test.onWg phased (fun g => { g with caught := (List.range 32).map (fun l => (l, none)), warps := g.warps.map (fun w =>
    { w with threads := w.threads.map (fun x => { x with st := .live (.parked (.catchStep 4)) }) }) })
  { s with part := s.part.onLaunch 1 (fun l => { l with xt := t }) }

theorem witness_catch_notes : (((caught { Timeline.zero with issued := 2, completed := 1 }).part.launch? 1).any (fun l => l.caughtWait.isNone &&
    (caught { Timeline.zero with issued := 2, completed := 1 }).part.launchCaught l && decide (l.xt.completed < l.xt.issued))) = true := by
  decide +kernel

theorem witness_catch_releases : (((caught Timeline.zero).part.launch? 1).any (fun l => (caught Timeline.zero).part.launchCaught l &&
    decide (l.caughtWait.getD l.xt.issued ≤ l.xt.completed))) = true := by
  decide +kernel

/-- Launch 2 awaits its decision; launch 1 has pushed launch 3, whose record is on its way. -/
def Test.deciding : State :=
  let s : State := { mem with part := mem.part.onCox (fun x => { x with launches := x.launches ++ [{ loadLaunch with id := 2, admitted := false, placed := [] },
    { loadLaunch with id := 3, admitted := false, placed := [], atCox := false, pusher := some (1, 0, 0) }] }) }
  Test.onWg s (fun g => { g with pending := [⟨3, loadRecord, 0⟩] })

theorem witness_drain_pending : (deciding.part.wg? 0 0).any (fun g => g.pending.head?.any (fun e => (deciding.part.launch? e.id).isSome)) = true := by
  decide +kernel

theorem witness_decision : ((deciding.part.launch? 2).any (fun l => l.atCox && !l.admitted && !l.noMore && !l.counter.complete && recordOk l.words &&
    (deciding.part.job? l.job).isSome) && (deciding.part.launch? 9).isNone) = true := by
  decide +kernel

theorem witness_dport_cancel : ((mem.part.counter? loadJob 1 1).isSome && (mem.part.counter? loadJob 2 9).isNone) = true := by
  decide +kernel

/-- The workgroup has exited. -/
def Test.exited : State :=
  Test.onWarp mem (fun w => { w with threads := w.threads.map (fun t => { t with st := .exited }) })

theorem witness_workgroup_complete : ((exited.part.wg? 0 0).any (fun g => !g.complete && g.dump.isNone && exited.part.atRest 0 0 g &&
    g.warps.all (fun w => w.finished && w.pend == []))) = true := by
  decide +kernel

/-- The workgroup has left its core; the launch is done when it is recorded. Its graph and phase 7 wait for their records, and so
does what a reset has completed. -/
def Test.gone : State :=
  let s : State := { mem with part := mem.part.onCore 0 (fun k => { k with slots := List.replicate 48 none }) }
  { s with part := s.part.onCox (fun x => { x with left := [⟨1, 0, 0, 0, none, false⟩], levels := [⟨loadJob, 1, 1, 1, 1, 0, 0, 0, 1, none⟩,
      ⟨loadJob, 2, 9, 1, 1, 0, 0, 0, 1, some Counter.zero⟩, ⟨loadJob, 0, loadJob, 1, 1, 0, 0, 0, 1, none⟩] }) }

theorem witness_dport_wgdone : ((gone.part.launch? 1).isSome && gone.part.cox.left.any (fun x => x.launch == 1 && x.number == 0)) = true := by
  decide +kernel

theorem witness_dport_leveldone : ([(0, loadJob, none, false), (1, 1, none, true), (2, 9, some Counter.zero, true)].all (fun q =>
    (gone.part.cox.levels.find? (fun x => x.job == loadJob && x.level == q.1 && x.id == q.2.1)).any (fun x =>
      x.counter == q.2.2.1 && (x.counter.isSome || gone.part.levelOver x == q.2.2.2))) && !gone.part.cox.levels.any (fun x => x.level == 3)) = true := by
  decide +kernel

/-- Launch 1 is over but for its kernel boundary. -/
def Test.ending (boundary : Option (List (Nat × Option Nat))) : State :=
  let s : State := { gone with part := gone.part.onCox (fun x => { x with left := [] }) }
  { s with part := s.part.onLaunch 1 (fun l => { l with done := 1, cores := [0], boundary := boundary }) }

theorem witness_launch_complete : [(none, false), (some [(0, none)], false), (some [(0, some 0)], true)].all (fun q => let s := ending q.1
    (s.part.launch? 1).any (fun l => !l.counter.complete && decide (l.total ≤ l.done) &&
      (l.boundary.getD (l.cores.map (fun c => (c, none)))).all (fun r => r.2.any (fun n => s.part.answered r.1 n)) == q.2) && s.part.cox.left == []) = true := by
  decide +kernel

/-- Launch 1 with no workgroup placed: core 0 has room for it, core 1 only under a new partition. -/
def Test.placing : State :=
  { gone with part := gone.part.onLaunch 1 (fun l => { l with placed := [] }) }

theorem witness_place : ((placing.part.launch? 1).any (fun l =>
    [[(⟨0, 0, loadPartition⟩ : Placing)], [⟨1, 0, loadPartition⟩]].all (fun xs => placing.part.mayPlace l xs && (Rules.takesPlaces l xs placing.part).isSome) &&
    placing.part.mayPlace l [⟨1, 0, 0⟩] && (Rules.takesPlaces l [⟨1, 0, 0⟩] placing.part).isNone && !placing.part.mayPlace l [⟨0, 5, loadPartition⟩])) = true := by
  decide +kernel

/-- Launch 2, of priority 1, has a drain under way; launch 1, of priority 3, joins it. -/
def Test.draining : State :=
  let prio (n : Nat) : List Word := modifyNth loadRecord 1 (fun w => w ||| word (n * 2 ^ 28))
  let ls : List Launch := [{ loadLaunch with words := prio 3 }, { loadLaunch with id := 2, words := prio 1, placed := [] }]
  { saving with dram := saving.dram.writeN 0x20020 [15],
                part := saving.part.onCox (fun x => { x with launches := ls, drains := [⟨2, [], [(1, 0)]⟩] }) }

theorem witness_drain_joins : (draining.part.mayDrain 1 [⟨0, 0⟩] && draining.drainToJoin 1 == some 0 && (draining.drainToJoin 2).isNone) = true := by
  decide +kernel

theorem witness_drain : (mem.part.mayDrain 1 [⟨0, 0⟩] && mem.part.mayDrain 0 [⟨0, 0⟩] && !mem.part.mayDrain 1 [⟨0, 7⟩]) = true := by
  decide +kernel

/-- The workgroup swaps itself out; its release round is to come, or done. -/
def Test.swapping (round : Option Nat) (cancel : Bool) : State :=
  Test.onWg saving (fun g => { g with swapping := some (⟨0, 1, 1, 5, false, false⟩, 0x100000, round), cancel := cancel })

theorem witness_swap_out : ([swapping none false, swapping (some 0) false, swapping (some 0) true].all (fun s => (s.part.wg? 0 0).any (fun g =>
    g.swapping.any (fun q => g.dead.isNone && g.dump.isNone && g.warps.all (fun w => w.pend == []) && s.part.atRest 0 0 g &&
      q.2.2.all (fun r => s.part.answered 0 r) && (s.part.launch? g.launch).isSome)))) = true := by
  decide +kernel

/-- A swapped-out workgroup whose condition holds. -/
def Test.away : State :=
  let s : State := { saving with part := saving.part.onCore 0 (fun k => { k with slots := List.replicate 48 none }) }
  let x (g : Wg) : Swapped := ⟨1, 0, loadJob, 0x100000, g.imageSize, 0, ⟨0, 1, 1, 2, false, false⟩, true, false, [], [], g⟩
  { s with part := s.part.onCox (fun c => { c with swapped := ((saving.part.wg? 0 0).map x).toList }) }

/-- The workgroup that may be put back, as Images finds it. -/
def Test.found (s : State) (image : Nat) : Option Swapped :=
  (s.part.endDrains.cox.swapped.find? (fun x => x.image == image)).filter (fun x =>
    x.met && !s.part.endDrains.cox.drains.any (fun d => d.victims.contains (x.launch, x.number)))

theorem witness_resume : ((found away 0x100000).any (fun x => (away.part.endDrains.launch? x.launch).isSome && (away.part.endDrains.resumeRoom x 0).isSome) &&
    (found away 0x200000).isNone) = true := by
  decide +kernel

/-- Every thread has halted for a live dump. -/
def Test.dumping (s : State) (st : TState) : State :=
  Test.onWg s (fun g => { g with dump := some (3, 40), warps := g.warps.map (fun w => { w with threads := w.threads.map (fun t => { t with st := st }) }) })

theorem witness_live_dump : (((dumping saving (.halted .ready [.dump])).part.wg? 0 0).any (fun g => g.dumpStopped && g.dump.isSome &&
    (saving.saveSpace (saving.part.rootQueue 0 0) g.imageSize).isSome && (mem.saveSpace (mem.part.rootQueue 0 0) g.imageSize).isNone)) = true := by
  decide +kernel

theorem witness_dump_timeout : (((dumping { mem with part := { mem.part with now := 40 + 2 ^ 20 } } (.live .ready)).part.wg? 0 0).any (fun g =>
    !g.dumpStopped && g.dump.any (fun d => decide (d.2 + 2 ^ 20 ≤ 40 + 2 ^ 20)))) = true := by
  decide +kernel

/-- A drained workgroup at its deadline. -/
def Test.overdue : State := Test.onWg mem (fun g => { g with drain := true, deadline := some 40 })

theorem witness_forced_reset : (overdue.part.wg? 0 0).any (fun g => g.overdue overdue.part.now) = true := by
  decide +kernel

/-! #### Administration, debugging, management, power, and the host and peers -/

/-- A ring of 16 records at 0x310000 with its control block at 0x300000, entry 2 of the table at 0x2F0000, TAIL n. -/
def Test.ringed (n : Nat) (en : Bool) : State :=
  let q : List Byte := leBytes 8 0x310000 ++ leBytes 4 4 ++ leBytes 4 1 ++ leBytes 8 0 ++ leBytes 8 n ++ leBytes 4 1 ++ leBytes 4 1 ++
    leBytes 4 1 ++ leBytes 4 0 ++ leBytes 8 0
  let s : State := { mem with dram := (mem.dram.writeN 0x300000 q).writeN 0x2F0010 (leBytes 8 (2 ^ 63 + 0x300000)) }
  let x : Queue := ⟨2, 0x300000, en, false, 0, List.replicate 8 0, 0x300018⟩
  { s with part := s.part.onCox (fun c => { c with run := true, qtbase := 0x2F0000, queues := if en then [x] else [] }) }

theorem witness_qopen : (match (ringed 0 false).openCheck 2, mem.openCheck 2 with
    | .ok q, .error r => q == 0x300000 && r == 2
    | _, _ => false) = true := by
  decide +kernel

theorem witness_qclose : (((ringed 3 true).part.queue? 2).isSome && (mem.part.queue? 2).isNone) = true := by
  decide +kernel

theorem witness_tail : ((((ringed 3 true).part.queue? 2).any (fun q => q.en && !Rules.tailBad (ringed 3 true) q 3 && !Rules.tailBad (ringed 3 true) q 16 &&
    Rules.tailBad (ringed 3 true) q 17) && ((ringed 0 true).part.onQueue 2 (fun q => { q with head := 1 })).cox.queues.any (fun q =>
      Rules.tailBad (ringed 0 true) q 0 && !Rules.tailBad (ringed 0 true) q 1))) = true := by
  decide +kernel

theorem witness_jobs : ((mem.part.job? loadJob).isSome && (mem.part.job? 9).isNone &&
    !mem.part.cox.queues.any (fun q => q.id != 0 && q.en) && (ringed 0 true).part.cox.queues.any (fun q => q.id != 0 && q.en)) = true := by
  decide +kernel

/-- The job may be debugged. -/
def Test.debugging (s : State) : State := { s with part := s.part.onJob loadJob (fun j => { j with debug := true }) }

/-- A halted thread in lane 0, with a result on its way or not. -/
def Test.stopped (late : Bool) : State :=
  let e : Pend := { id := 0, pc := loadVa, foreign := false, due := none, lanes := [⟨0, [.v 1], [tagInt32], some [1], [], .words⟩], flags := 0 }
  debugging (Test.onWarp mem (fun w => { w with pend := if late then [e] else [],
                                                threads := w.threads.modifyHead (fun t => { t with st := .halted .ready [.request] }) }))

theorem witness_debug : ((Rules.debuggee (debugging mem) loadJob 0 0).isSome && (Rules.debuggee mem loadJob 0 0).isNone &&
    ((mem.part.job? loadJob).isSome && (mem.part.job? 7).isNone)) = true := by
  decide +kernel

theorem witness_debug_thread : ([(false, true), (true, false)].all (fun c => (Rules.debugged (stopped c.1) loadJob ⟨0, 0, 0⟩ 0).any (fun x =>
    x.2.2.isHalted && x.2.1.committed 0 == c.2 && (stopped c.1).part.stepReq.isNone)) &&
    (Rules.debugged (stopped false) loadJob ⟨0, 0, 0⟩ 1).all (fun x => !x.2.2.isHalted && !x.2.2.isExited)) = true := by
  decide +kernel

/-- A READ waits for the thread's results to commit, and is next once they have. -/
def Test.queued (late : Bool) : State :=
  { stopped late with part := { (stopped late).part with debugQueue := [⟨5, loadJob, ⟨0, 0, 0⟩, 0, 5, 0, 0⟩] } }

theorem witness_debug_queue : ([true, false].all (fun late => (queued late).stepReady.isNone &&
    (queued late).part.debugQueue.all (fun c => Rules.debugLate (queued late) c == late))) = true := by
  decide +kernel

theorem witness_debug_items : ((Rules.debugged (stopped false) loadJob ⟨0, 0, 0⟩ 0).any (fun x => !Rules.itemBad x.1 5 0xC4 && Rules.itemBad x.1 0xC4 0xC4 &&
    !Rules.itemBad x.1 0xC7 0xC8 && Rules.itemBad { x.1 with nregs := 32 } 32 0xC8 && !Rules.itemBad { x.1 with nregs := 32 } 31 0xC8)) = true := by
  decide +kernel

/-- Two reports of one slice for predicate 3 of core 0, which the workgroup owns. -/
def Test.reported (on : Bool) : State :=
  let d : Predicate := { Predicate.start with owner := some 0, enabled := on }
  let s := Test.onCore mem (fun k => { k with preds := setNth k.preds 3 d })
  { s with part := { s.part with reports := [⟨4, (0, 1), 0, 0, 3, 0x500, 1, 0, 40, (1, 0)⟩, ⟨5, (0, 1), 0, 0, 3, 0x500, 1, 0, 40, (1, 0)⟩] } }

theorem witness_report : ([true, false].all (fun on => ((reported on).part.reports.find? (fun r => r.id == 4)).any (fun r => Rules.oldest (reported on) r &&
    ((reported on).part.core? r.core).any (fun k => (nth k.preds r.pred Predicate.start).owner == some r.slot &&
      (nth k.preds r.pred Predicate.start).enabled == on) &&
      ((reported on).part.wg? r.core r.slot).any (fun g => (g.launch, g.number) == r.owner && !g.complete))) &&
    !((reported true).part.reports.find? (fun r => r.id == 5)).any (Rules.oldest (reported true))) = true := by
  decide +kernel

/-- A mailbox command with its words. -/
def Test.mailbox (ws : List Word) : State :=
  let s : State := { mem with part := mem.part.onMgmt (fun m => { m with mbstat := 2, mbcmd := ws ++ List.replicate (32 - ws.length) 0 }) }
  { s with part := s.part.onMgmt (fun m => { m with mcstat := 0x30000005 }) }

theorem witness_mailbox : ((List.range 16).all (fun i => Rules.busy (mailbox [word (i + 1)]) (i + 1)) && !Rules.busy mem 1) = true := by
  decide +kernel

theorem witness_mailbox_words : ((Rules.bytesAt (mailbox [12]) 0x1000 4).isSome && (Rules.bytesAt (mailbox [12]) (4 * homeSpan - 3) 4).isNone &&
    (Rules.bytesAt (mailbox [12]) (4 * homeSpan - 4) 4).isSome && (Rules.log mem 0x10F).isSome && (Rules.log mem 0x110).isNone &&
    (Rules.log mem 127).isSome && (Rules.log mem 128).isNone && (Rules.log mem 0x200).isSome) = true := by
  decide +kernel

/-- A translation cache being emptied of job 9. -/
def Test.emptying (job : Nat) : State := { mem with part := mem.part.onMgmt (fun m => { m with invals := [(job, 0, 0, 7)] }) }

theorem witness_inval : ((emptying 9).part.mgmt.invals.head?.any (fun x => !(emptying 9).part.jobAccess x.1)) = true := by
  decide +kernel

/-- Fault record 6 of the job, and the answers that the host has written. -/
def Test.faulty : State :=
  { mem with part := mem.part.onMgmt (fun m => { m with powered := true, mcstat := 5, fltsize := 4, faults := [⟨6, loadJob, 0x40, 0, 0, [], true, false⟩] }) }

theorem witness_fault_record : ((faulty.part.mgmt.faults.find? (fun r => r.id == 6 && !r.loose)).isSome && (mem.part.wg? 0 0).isSome && (mem.part.wg? 0 5).isNone) = true := by
  decide +kernel

theorem witness_register_write : (let m := faulty.part.mgmt
    m.powered && decide (4 ≤ m.bringUp) && !m.mcstat.getLsbD 31 && !wideLow 0x44 && wideLow 0x40 && !wideLow 0x48 && !wideLow 0x4C && decide (0x46 % 4 ≠ 0) &&
      !decide (4 ≤ mem.part.mgmt.bringUp)) = true := by
  decide +kernel

theorem witness_sample : ((onCore mem (fun k => { k with sample := some ⟨64, 40, none⟩ })).part.core? 0).any (fun k => k.sample.isSome) = true := by
  decide +kernel

/-- An alarm may clear 20 windows after the last estimate above the limit. -/
theorem witness_alarm : ((mem.part.die 0).alarmAt + 80000 ≤ { mem.part with now := 80000 }.now) = true := by
  decide +kernel

/-- Entries of one cycle: two of core 1, then one of core 0 (R384). -/
def Test.traced : Machine.Part :=
  let p : Machine.Part := { mem.part with clusters := mem.part.clusters.modifyHead (fun c => { c with trctl := 0x80000000 }) }
  (((p.trace 1 0 [1]).trace 1 0 [2]).trace 0 0 [3])

/-- One entry of each core in a cycle, in ascending order of the cores. -/
theorem test_trace_order : ((traced.takeEntries.clusters.map (fun c => (c.buffer, c.offered.map (·.2.2)))).head? == some ([[3], [1]], [[2]]) &&
    (traced.takeEntries.takeEntries.clusters.map (·.buffer)).head? == some [[3], [1], [2]]) = true := by
  decide +kernel

/-- A cluster whose buffer is to be saved before its power goes. -/
def Test.gated (at_ : Nat) : State :=
  { mem with part := { mem.part with now := 20000, clusters := mem.part.clusters.modifyHead (fun c => { c with gate := some at_, trsize := 8, buffer := [[1]] }) } }

theorem witness_gate : ((gated 4000).part.clusters[0]?.any (fun c => c.powered && c.gate.any (fun t => decide (t + 16000 ≤ 20000)))) = true := by
  decide +kernel

/-- A link that is up, with an export window for peer 3. -/
def Test.linked (key : Nat) : State :=
  let s : State := { faulty with part := faulty.part.onMgmt (fun m => { m with ports := m.ports.modifyHead (fun p => { p with up := true }) }) }
  { s with part := s.part.onMgmt (fun m => { m with exports := setNth m.exports 0 (some ⟨0x200000, 0x210000, 3, 7, key⟩) }) }

theorem witness_host : (faulty.part.mgmt.powered && decide (4 ≤ faulty.part.mgmt.bringUp) && !faulty.part.mgmt.mcstat.getLsbD 31 && (Rules.atomicOp 2 16).isSome && (Rules.atomicOp 1 16).isNone &&
    faulty.part.mgmt.barBase == 0 && faulty.part.mgmt.barSize == 2 ^ 40 &&
    (Rules.stopsAt faulty 0x1000 4 1).isNone && (Rules.stopsAt faulty (4 * homeSpan - 2) 4 1).isSome && Rules.clean faulty 0x1000 4) = true := by
  decide +kernel

theorem witness_peer : ([0, 9].all (fun key => (nth (linked key).part.mgmt.ports 0 Port.reset).up &&
    [(0, 16, 16), (1, 0, 8), (2, 0, 4), (2, 7, 8), (3, 1, 8), (3, 0, 8), (4, 0, 8), (5, 2, 16)].all (fun q => !peerMalformed 0x200100 q.1 q.2.1 q.2.2 &&
      (Rules.window (linked key).part.mgmt 3 0x200100 q.2.2 (q.1 / 1 % 2)).any (fun x => x.key == key && (lookupKey 9 (linked key).part.mgmt.keys).isNone)))) = true := by
  decide +kernel

theorem witness_peer_refused : ((Rules.window (linked 0).part.mgmt 4 0x200100 16 0).isNone && (Rules.window (linked 0).part.mgmt 3 0x20FFF8 16 0).isNone &&
    peerMalformed 0x200100 6 0 16 && peerMalformed 0x200104 2 0 8 && !Rules.performs 10 8 && Rules.performs 9 8 &&
    !(nth (linked 0).part.mgmt.ports 1 Port.reset).up) = true := by
  decide +kernel

/-- A request of each kind on its way. -/
def Test.asked (s : State) (kind : Nat) : State :=
  let r : Remote :=
    { id := 8, kind := kind, loc := 2 ^ 64 + 0x1000, w := ⟨0, 0, 0⟩, pc := loadVa, pend := some 3, command := some 0, port := none, issued := 0, count := 4, op := 0,
      data := [], lane := 0, acquire := none, va := 0x5000, signed := false }
  { s with part := { s.part with now := 40000000 }.onMgmt (fun m => { m with remotes := [{ r with id := 2, kind := 2 }, r] }) }

theorem witness_answers : ((List.range 9).all (fun k => ((asked mem k).part.mgmt.remotes.find? (fun r => r.id == 8)).any (fun r =>
    (!(r.kind == 0 && r.pend.isNone) || r.op == 0) && (asked mem k).part.vexTaken r))) = true := by
  decide +kernel

theorem witness_answers_flush : (((asked mem 6).part.mgmt.remotes.find? (fun r => r.id == 8)).any (fun r => locTarget r.loc == 1 &&
    (asked mem 6).part.mgmt.remotes.any (fun q => q.w.core == r.w.core && locTarget q.loc == 1 && decide (q.id < r.id) && (q.kind == 2 || q.kind == 4)) &&
    decide (r.issued + 40000000 ≤ (asked mem 6).part.now))) = true := by
  decide +kernel

/-- A port that the route table names and that has not come up, in step 5. -/
theorem witness_link_fails : (let m := { mem.part.mgmt with mcstat := 4, devid := 3, routes := [(7, 2)] }
    Rules.fifth m && m.devid != 0 && m.routes.any (fun r => r.2 == 2 && !(nth m.ports r.2 Port.reset).up)) = true := by
  decide +kernel

theorem witness_link_down : (let p : Port := { Port.reset with up := true, training := some 0 }
    p.up && p.training.any (fun t => decide (t + 4000000 ≤ 4000000)) && !p.training.any (fun t => decide (t + 4000000 ≤ 3999999))) = true := by
  decide +kernel

/-! #### The part as a whole -/

theorem witness_decode_encode : (wf (.iadd (f 63 0 63)) && wf (.illegalWord 0xFFFFFFFF) && wf (.braLong (f 0 0 0) 4) && (match decodeWords 0x04020111 0x01D20B04 with
    | .ok _ => true
    | .error _ => false)) = true := by
  decide +kernel

theorem witness_memory : Memory.wf State.reset.dram = true := by
  decide +kernel

/-- The loaded warp may issue the instruction of these words. -/
def Test.issuable (a b : Nat) : Bool :=
  let s := State.reset.withFetchWord 64 (a + 2 ^ 32 * b)
  let fetched (loc : Nat) (v : Nat) : Bool := isDevice loc && !s.part.poisoned (lineOf loc) && leWord (s.homeRead loc 4) == word v
  let code (g : Wg) : Bool :=
    match s.translate g.job loadVa .fetch, s.translate g.job (loadVa + 4) .fetch with
    | .ok p, .ok q => fetched p a && fetched q b
    | _, _ => false
  let free : Bool :=
    match decodeWords (word a) (word b) with
    | .ok i => s.part.pipeFree 0 (.instr i)
    | .error _ => false
  let u : State := { s with part := { s.part with sched := [], focus := ⟨0, 0, 0⟩ } }
  s.stepReady.isNone && s.debugNext.isNone && !u.part.holderDue ⟨0, 0, 0⟩ && s.part.sched == [.issue ⟨0, 0, 0⟩] && needsExt (word a) == decide (b ≠ 0) && free &&
    (s.part.wg? 0 0).any (fun g => g.dead.isNone && g.swapping.isNone && code g && g.warps.head?.any (fun w =>
      !w.trapDue && w.eligible s.part.now && w.nextPc == some loadVa && g.warps.all (fun x => x.skid.isNone && !Rules.waitedOut x) &&
        (s.part.core? 0).any (fun k => k.went == []) && [true, false].all (fun x => !s.yields ⟨0, 0, 0⟩ w x)))

theorem witness_step : (issuable 0 0 && issuable 0x04020111 0x01D20B04) = true := by
  decide +kernel

/-- The instruction is issued now and its fields name something outside the partition, or not. -/
def Test.names_ (s : State) (i : Instr) (outside : Bool) : Bool :=
  (partsOf i).any (fun p => (s.ctx? p).any (fun c => (c.heldFirst s).isNone && !c.early &&
    (Rules.fields22 c).any (fun n => decide ((if n.1 then c.g.nregs else c.g.ntiles) < n.2.1 + n.2.2)) == outside))

theorem witness_partition : (let s := onWg base (fun g => { g with nregs := 16, ntiles := 4 })
    names_ s (.iadd (f 16 0 0)) true && names_ s (.iadd (f 15 15 0)) false && names_ s (.tzero (f 4 0 0) (x 0 3)) true &&
      names_ s (.tzero (f 3 0 0) (x 0 3)) false && names_ s (.sbcast (f 3 4 0) (x 0 5)) false &&
      names_ s (.hread (f 5 4 0) (x 0 16)) false && decide (s.part.wg? 0 0 |>.any (fun g => g.nregs ≤ 16 && g.warps.length ≤ 5))) = true := by
  decide +kernel

/-- A promoted warp with an instruction that has not retired, and why it is held. -/
theorem witness_illegal_held : (let nop : Parts := ⟨.nop, ⟨false, false, 0, 0, 0, 0, false⟩, .short⟩
    (retiring.ctx? nop).any (fun c => c.early) &&
      (retiring.ctx? nop).any (fun c => c.heldFirst retiring == some 15)) = true := by
  decide +kernel

/-- A promoted warp with an instruction that has not retired, in a workgroup of 16 registers. -/
theorem witness_partition_early : (let s := onWg retiring (fun g => { g with nregs := 16 })
    (partsOf (.iadd (f 16 0 0))).any (fun p => (s.ctx? p).any (fun c => (c.heldFirst s).isNone && c.early && c.decodeTrap.isSome))) = true := by
  decide +kernel

/-- The instruction is issued now, within the partition. -/
def Test.priv (s : State) (i : Instr) (h : Ctx → Bool) : Bool :=
  (partsOf i).any (fun p => (s.ctx? p).any (fun c => (c.heldFirst s).isNone && !c.early && c.declared.isNone && h c))

theorem witness_privilege : (priv base (.rte (f 0 0 0)) (fun c => !c.w.trapMode) && priv base (.csrr (f 5 0 0) (x 0 1)) (fun c =>
      (Rules.columns 1).any (fun q => q.1 == 'T') && !c.w.trapMode) &&
    priv base (.csrw (f 5 0 0) (x 0 0x280)) (fun _ => (Rules.columns 0x280).any (fun q => q.2 == 'T')) &&
    priv base (.csrw (f 5 0 0) (x 0 0x1BF)) (fun _ => (Rules.columns 0x1BF).any (fun q => q.2 == 'N')) &&
    priv base (.csrr (f 5 0 0) (x 0 0xFFF)) (fun _ => (Rules.columns 0xFFF).isNone)) = true := by
  decide +kernel

/-! #### Watches, hazards, and where accesses trap -/

/-- The instruction of a state comes to its own checks with a context that meets the hypotheses. -/
def Test.comes (s : State) (i : Instr) (h : Ctx → Bool) : Bool := (s.reaches i).any h

/-- A predicate of some kind and action at the loaded instruction: of codes, or of flags. -/
def Test.marked (s : State) (kind action : Nat) : State :=
  let d : Predicate := ⟨[word (kind + 256 * action), word loadVa, word (loadVa / 2 ^ 32), 4, 0x3F0000, 0, 0xFFFFFFFF, 1], some 0, true, 0, false⟩
  Test.onCore s (fun k => { k with preds := setNth k.preds 2 d })

theorem witness_code_watch : [0, 1, 2, 3, 4, 5].all (fun a => let s := marked ints 1 a
    comes s (.iadd (f 1 2 3)) (fun c => (c.checkTrap s c.parts.globalBody).isNone &&
      (let ms := (Rules.armed ((s.part.core? 0).getD Core.reset) 0).map (fun q => (⟨q.1, q.2, c.fresh, 0, 0⟩ : Match))
       ms.all (fun m => Rules.kindOf m.by_ == 1 && Rules.defn m.by_ 1 31 0 + 2 ^ 32 * Rules.defn m.by_ 2 24 0 == c.pc) && c.fresh != [] &&
         ms.length == 1 && current c s ms && (Rules.stop ms).isSome == decide (2 ≤ a)))) = true := by
  decide +kernel

/-- A record that is malformed: a load fails before its code watch. -/
theorem witness_check_first : comes (marked mem 1 2) (.ld (f 8 0 0) (xr 0 0)) (fun c =>
    (c.checkTrap (marked mem 1 2) c.parts.globalBody).isSome) = true := by
  decide +kernel

theorem witness_format_watch : (let s := marked (lane floats) 4 2
    meets s (.frcp (f 1 3 0)) (fun c =>
      let e := c.sees s
      let fl (l : Nat) : Flags := orFlags ((Rules.floats c e l).map (·.2))
      (Rules.float c.x fp32 0 0 0 c.parts.op).isSome && e.acting.all (fun l => Rules.floatViewOk c e l) &&
        (enabledTrap c.w.ften (orFlags (e.acting.map fl))).isNone && (Rules.armed (((c.counted s).part.core? 0).getD Core.reset) 0).any (fun q =>
          (Rules.flaggedBy c.pc ((e.acting.filter (fun l => !c.suppressed l)).map (fun l => (l, fl l))) q).isSome))) = true := by
  decide +kernel

/-- A result whose flags a format predicate names, about to commit. -/
def Test.raising (action : Nat) : State :=
  let s := Test.marked mem 4 action
  let watch := Rules.armed ((s.part.core? 0).getD Core.reset) 0
  Test.onWarp s (fun w => { w with pend := [{ id := 0, pc := loadVa, foreign := false, due := none, lanes := [laneWrites 0 [(Target.v 1, 7, tagFp32)]],
                                              flags := flagNX, watch := watch, raised := [(0, flagNX)], group := [0] }], seq := 1 })

theorem witness_format_commit : [0, 1, 2, 3, 4, 5].all (fun a => warp (raising a) (fun w => w.pend.all (fun e =>
    Rules.mayCommit w (raising a).part.now e && e.raised != [] && (w.pend.filter (fun x => x.id == e.id)).length == 1 &&
      (let ms := e.watch.filterMap (Rules.flaggedBy e.pc e.raised)
       ms.length == 1 && ms.all (fun m => (((raising a).part.core? 0).bind (fun k => k.preds[m.pred]?)) == some m.by_ &&
         Rules.actionOf m.by_ == a) && (Rules.stop ms).isSome == decide (2 ≤ a))))) = true := by
  decide +kernel

/-- Hazard-check mode, with a result of fixed latency in v2 or a load on its way to v3 or v1. -/
def Test.hasty (rule : Nat) : State :=
  let l (r : Nat) : PendLane := ⟨0, [.v r], [tagInt32], none, [], .words⟩
  let e (r : Nat) : Pend := { id := 0, pc := loadVa, foreign := false, due := none, lanes := [l r], flags := 0 }
  Test.onWarp ints (fun w => { w with hchk := true, seq := 1, pend := if rule = 2 then [e 3] else if rule = 3 then [e 1] else [],
                                      recent := if rule = 1 then [⟨loadVa, [(0, .v 2)], 3⟩] else [] })

theorem witness_hazards : [0, 1, 2, 3].all (fun rule => let s := hasty rule
    (partsOf (.iadd (f 1 2 3))).any (fun p => (s.ctx? p).any (fun c => c.w.hchk && (c.heldFirst s).isNone && !c.early && c.decodeTrap.isNone &&
      (c.safeStop s).isNone &&
      (let near (r : Nat × Target) : Bool := c.w.recent.any (fun h => h.left != 0 && h.targets.contains r)
       let open_ (r : Nat × Target) : Bool := c.w.pend.any (fun e => e.due.isNone && !e.foreign && !e.covered &&
         e.lanes.any (fun x => x.lane == r.1 && x.targets.contains r.2))
       let reads := c.readsOf (c.acting s.part.oracle)
       [reads.any near, reads.any open_, (c.writesOf (c.acting s.part.oracle)).any open_] == [rule == 1, rule == 2, rule == 3])))) = true := by
  decide +kernel

/-- A field of the record at s4, with all else that the access needs. -/
def Test.recorded (j : Nat) (w : Word) : State := Test.onWarp counters (fun x => { x with s := setNth x.s (4 + j) w })

/-- What accessTrapsRule asks: the first failing check of a load, store or atomic, by its cause. -/
def Test.fails (s : State) (i : Instr) (cause : Nat) : Bool :=
  comes s i (fun c =>
    let e := c.env s
    let at_ := (e.s (c.f.b.toNat + 3)).toNat / 2 ^ 16 % 32
    let bit := if c.parts.op = .ld then 25 else if c.parts.op = .st then 26 else 27
    let size := Rules.extentOf e c at_
    let rs := Rules.reach e c size.2 size.1
    let checks := (Rules.recordFails e c bit).orElse (fun _ => Rules.accessFormat e c at_)
    let far := rs.any (fun q => q.inside && q.granules.any (fun a => decide (2 ^ 57 ≤ a)))
    e.acting != [] && (if cause = causeXlate then checks.isNone && far && (s.acts i).isSome
      else (checks.orElse (fun _ => if far then none else Rules.laneFails e c (min size.1 16) rs)).any (fun t => t.cause == cause)))

/-- BUF_BAD, PROT, a format of a block, a tag of another format; MISALIGN, OOB, XLATE. -/
theorem witness_access_traps : ([(recorded 3 0, (.ld (f 8 0 4) (xr 0 0) : Instr), causeBufBad), (recorded 1 (word (1 + 2 ^ 28)), .st (f 0 0 4) (xr 5 0), causeProt),
    (recorded 3 (word (4 + 31 * 2 ^ 16)), .ld (f 8 0 4) (xr 0 0), causeFmtIllegal), (recorded 3 (word (4 + 3 * 2 ^ 16)), .st (f 0 0 4) (xr 5 0), causeFmtMismatch),
    (recorded 3 (word (4 + 4 * 2 ^ 16)), .atom (f 8 0 4) (xr 5 0), causeFmtMismatch),
    (recorded 0 0x102, .red (f 0 0 4) (xr 5 0), causeMisalign), (onWarp (recorded 1 (word (1 + 7 * 2 ^ 25))) (fun x => { x with s := setNth x.s 6 8 }),
      .ld (f 8 0 4) (xr 0 0), causeOob), (onWarp (recorded 1 (word (2 ^ 25 - 1 + 7 * 2 ^ 25 + 2 ^ 28))) (fun x => { x with s := setNth x.s 4 0xFFFFFFC0 }),
      .ld (f 8 0 4) (xr 0 0), causeXlate)] : List (State × Instr × Nat)).all (fun q => fails q.1 q.2.1 q.2.2) = true := by
  decide +kernel

/-- A decoding load with a lane past its extent, and an atomic in host memory, which the link does not carry. -/
theorem witness_access_traps_more : (let s := onWarp (lane cached) (fun x => { x with s := setNth (setNth x.s 9 (word (1 + 7 * 2 ^ 25))) 10 0 })
    comes s (.ld (f 8 0 8) (xr 0 0x80)) (fun c => let e := c.env s
      (Rules.recordFails e c 25).isNone && (Rules.accessFormat e c 4).isNone && e.acting != [] &&
        (ldLanes c.f c.x e (e.record c.f.b.toNat)).all (fun q => q.at_.beyond.isNone)) &&
    (let s := lane { counters with dram := (hosted 0 0).dram }
     meets s (.red (f 0 0 4) (xr 5 0)) (fun c =>
      let e := c.env s
      let lanes := accessLanes e.fmt (e.record c.f.b.toNat) 0 4 (fun l => (e.v l c.f.a.toNat).toNat) e.acting
      ((c.counted s).plan c.g.job .atomic (Rules.pieces lanes)).ok.any (fun q => !((c.counted s).part.pathMask q.loc).testBit 0)))) = true := by
  decide +kernel

/-- What scratchTrapsRule asks of an access, by the cause of its trap: an address that fails, or a rank that the cluster has not. -/
def Test.spadFails (s : State) (i : Instr) (cause : Nat) : Bool :=
  meets s i (fun c =>
    let e := c.sees s
    let n := if c.parts.op = .atoms then 4 * 2 ^ c.x.wd.toNat else 4 * 2 ^ (if c.parts.op = .lds then c.x.wd else c.x.wc).toNat
    let ls := e.acting.map (fun l => (e.v l c.f.a.toNat).toNat)
    let rank := (e.s c.f.b.toNat).toNat
    e.acting != [] && (if uniformB c.x then cause == causeProt && decide (c.g.cluster ≤ rank)
      else if cause = causeMisalign then ls.any (fun a => a % min n 16 != 0)
      else ls.all (fun a => a % min n 16 == 0) && (if cause = causeOob then ls.any (fun a => decide (c.g.scratch < a + n))
        else ls.all (fun a => decide (a + n ≤ c.g.scratch)) && ls.any (fun a => decide (c.g.scratch - 512 < a + n)))))

theorem witness_scratch_traps : (let s := Test.vs mem tagUint32 (fun n => if n = 1 then 2 else if n = 2 then 0x1000 else if n = 3 then 0xE00 else word n)
    spadFails s (.lds (f 8 1 0) (x 0 0)) causeMisalign && spadFails s (.atoms (f 8 2 0) (x 5 0)) causeOob && spadFails s (.sts (f 0 3 0) (x 5 0)) causeProt &&
      spadFails pair (.lds (f 8 4 4) (x 0 0x2000)) causeProt) = true := by
  decide +kernel

/-- Tags that fail the views of R102: raw words under FADD, floats under IADD, a tag with no type. -/
theorem witness_format_traps : ((meets ints (.fadd (f 1 2 3)) (fun c => ((c.sees ints).acting.findSome? (Rules.viewFails (c.sees ints) c true [3])).isSome)) &&
    (meets floats (.iadd (f 1 2 3)) (fun c => ((c.sees floats).acting.findSome? (Rules.viewFails (c.sees floats) c false [3])).isSome)) &&
    (meets (vs base 0 word) (.iadd (f 1 2 3)) (fun c => ((c.sees (vs base 0 word)).acting.findSome? (Rules.viewFails (c.sees (vs base 0 word)) c false [3])).any
      (fun t => t.cause == causeFmtIllegal)))) = true := by
  decide +kernel

theorem witness_register_frame : (all ints [.iadd (f 1 2 3), .mov (f 1 2 0), .ret (f 0 0 0)] (fun c => Rules.registerOps.contains c.parts.op &&
    !ints.part.stepping c.ref && c.g.dead.isNone && (ints.part.core? 0).any (fun k => (k.oldPreds.getD k.preds).all (fun d => !d.enabled)))) = true := by
  decide +kernel

theorem witness_access_frame : (all mem [.ld (f 8 0 4) (xr 0 0), .st (f 0 0 4) (xr 5 0), .sts (f 0 4 0) (x 5 0)] (fun c =>
    [Op.ld, .st, .atom, .red, .lds, .sts, .atoms].contains c.parts.op && !mem.part.stepping c.ref && c.g.dead.isNone &&
      (mem.part.core? 0).any (fun k => (k.oldPreds.getD k.preds).all (fun d => !d.enabled)))) = true := by
  decide +kernel

theorem witness_commit_frame : ((stopped true).part.warp? ⟨0, 0, 0⟩).any (fun w => w.pend.any (fun e => Rules.mayCommit w 40 e)) = true := by
  decide +kernel

/-! #### Words written out from R40, R43, R57 and R58 decode to the instructions they stand for -/

/-- Extension fields guarded by !p3 or !q3. -/
def Test.g (c : BitVec 6) (wd wa wb wc : BitVec 2) (m : BitVec 14) : Ext := ⟨c, true, 3, wd, wa, wb, wc, m⟩

/-- The base word and the extension word decode to the instruction, and it is well formed. -/
def Test.decodes (q : Word × Word × Instr) : Bool :=
  wf q.2.2 && match decodeWords q.1 q.2.1 with
  | .ok i => i == q.2.2
  | .error _ => false

/-- They decode to no instruction, for this reason. -/
def Test.refuses (e : DecodeError) (q : Word × Word) : Bool :=
  match decodeWords q.1 q.2 with
  | .ok _ => false
  | .error e' => e == e'

/-- The worked encodings of the chapter. -/
theorem test_decode_worked : ([(0x0A22010B, 0x0E800000, .ffma ⟨false, false, 1, 8, 1, 2, true⟩ ⟨3, true, 2, 0, 0, 0, 0, 0⟩),
    (0x80E10001, 0x12345678, .smovi (f 4 0 0) 0x12345678), (0x060FFFEC, 0, .bra (f 63 63 59))] : List (Word × Word × Instr)).all decodes = true := by
  decide +kernel

theorem test_decode_integer_1 : ([
    (0x00000000, 0x00000000, .nop (f 0 0 0)), (0x001A30E0, 0x00000000, .iadd (f 40 48 56)),
    (0x001A30E1, 0x02D50004, .iaddLong (f 40 48 56) (g 0 1 1 1 0 0x4)), (0x002A30E0, 0x00000000, .isub (f 40 48 56)),
    (0x002A30E1, 0x02D50004, .isubLong (f 40 48 56) (g 0 1 1 1 0 0x4)), (0x003A30E0, 0x00000000, .imul (f 40 48 56)),
    (0x003A30E1, 0x02D50003, .imulLong (f 40 48 56) (g 0 1 1 1 0 0x3)), (0x004A30E1, 0x62D54004, .imad (f 40 48 56) (g 24 1 1 1 1 0x4)),
    (0x005A30E0, 0x00000000, .imin (f 40 48 56)), (0x005A30E1, 0x02D50001, .iminImaxLong (f 40 48 56) (g 0 1 1 1 0 0x1)),
    (0x006A3000, 0x00000000, .iabs (f 40 48 0)), (0x006A3001, 0x02D40004, .iabsLong (f 40 48 0) (g 0 1 1 0 0 0x4)),
    (0x007A30E0, 0x00000000, .and (f 40 48 56)), (0x007A30E1, 0x02FF0000, .andLong (f 40 48 56) (g 0 3 3 3 0 0x0)),
    (0x008A30E0, 0x00000000, .or (f 40 48 56)), (0x008A30E1, 0x02FF0000, .orLong (f 40 48 56) (g 0 3 3 3 0 0x0)),
    (0x009A30E0, 0x00000000, .xor (f 40 48 56)), (0x009A30E1, 0x02FF0000, .xorLong (f 40 48 56) (g 0 3 3 3 0 0x0)),
    (0x00AA30E0, 0x00000000, .andn (f 40 48 56)), (0x00AA30E1, 0x02FF0000, .andnLong (f 40 48 56) (g 0 3 3 3 0 0x0))] : List (Word × Word × Instr)).all decodes = true := by
  decide +kernel

theorem test_decode_integer_2 : ([
    (0x00BA30E0, 0x00000000, .shl (f 40 48 56)), (0x00BA30E1, 0x02D50000, .shlLong (f 40 48 56) (g 0 1 1 1 0 0x0)),
    (0x00CA30E0, 0x00000000, .shr (f 40 48 56)), (0x00CA30E1, 0x02D50001, .shrLong (f 40 48 56) (g 0 1 1 1 0 0x1)),
    (0x00DA30E1, 0x62C00001, .shf (f 40 48 56) (g 24 0 0 0 0 0x1)), (0x00EA3000, 0x00000000, .popc (f 40 48 0)),
    (0x00EA3001, 0x02C00000, .popcLong (f 40 48 0) (g 0 0 0 0 0 0x0)), (0x00FA3000, 0x00000000, .clz (f 40 48 0)),
    (0x00FA3001, 0x02C00000, .clzLong (f 40 48 0) (g 0 0 0 0 0 0x0)), (0x010A3000, 0x00000000, .brev (f 40 48 0)),
    (0x010A3001, 0x02C00000, .brevLong (f 40 48 0) (g 0 0 0 0 0 0x0)), (0x011A30E1, 0x02C00001, .bfx (f 40 48 56) (g 0 0 0 0 0 0x1)),
    (0x012A30E1, 0x62C00000, .bfi (f 40 48 56) (g 24 0 0 0 0 0x0)), (0x013170E1, 0x06C52055, .iset (f 5 48 56) (g 1 0 1 1 0 0x2055)),
    (0x014A30E1, 0x06FF0001, .sel (f 40 48 56) (g 1 3 3 3 0 0x1)), (0x0151461D, 0x06C00081, .plop (f 5 6 7) (g 1 0 0 0 0 0x81)),
    (0x016A3000, 0x00000000, .mov (f 40 48 0)), (0x016A3001, 0x02FC0000, .movLong (f 40 48 0) (g 0 3 3 0 0 0x0)),
    (0x017A0601, 0x12345678, .movi (f 40 6 0) 0x12345678), (0x018A3001, 0x12345678, .iaddi (f 40 48 0) 0x12345678)] : List (Word × Word × Instr)).all decodes = true := by
  decide +kernel

theorem test_decode_float_1 : ([
    (0x020A30E0, 0x00000000, .fadd (f 40 48 56)), (0x020A30E1, 0x02FF0008, .faddLong (f 40 48 56) (g 0 3 3 3 0 0x8)),
    (0x021A30E0, 0x00000000, .fmul (f 40 48 56)), (0x021A30E1, 0x02FF0008, .fmulLong (f 40 48 56) (g 0 3 3 3 0 0x8)),
    (0x022A30E1, 0x62FFC008, .ffma (f 40 48 56) (g 24 3 3 3 3 0x8)), (0x023A30E0, 0x00000000, .fmin (f 40 48 56)),
    (0x023A30E1, 0x02FF0003, .fminFmaxLong (f 40 48 56) (g 0 3 3 3 0 0x3)), (0x024170E1, 0x06C02055, .fset (f 5 48 56) (g 1 0 0 0 0 0x2055)),
    (0x025A3000, 0x00000000, .frcp (f 40 48 0)), (0x025A3001, 0x02FC0800, .frcpLong (f 40 48 0) (g 0 3 3 0 0 0x800)),
    (0x026A3000, 0x00000000, .frsq (f 40 48 0)), (0x026A3001, 0x02FC0800, .frsqLong (f 40 48 0) (g 0 3 3 0 0 0x800)),
    (0x027A3000, 0x00000000, .fsqrt (f 40 48 0)), (0x027A3001, 0x02FC0800, .fsqrtLong (f 40 48 0) (g 0 3 3 0 0 0x800)),
    (0x028A3000, 0x00000000, .fexp2 (f 40 48 0)), (0x028A3001, 0x02FC0800, .fexp2Long (f 40 48 0) (g 0 3 3 0 0 0x800)),
    (0x029A3000, 0x00000000, .flog2 (f 40 48 0)), (0x029A3001, 0x02FC0800, .flog2Long (f 40 48 0) (g 0 3 3 0 0 0x800)),
    (0x02AA3000, 0x00000000, .fsin (f 40 48 0)), (0x02AA3001, 0x02FC0800, .fsinLong (f 40 48 0) (g 0 3 3 0 0 0x800))] : List (Word × Word × Instr)).all decodes = true := by
  decide +kernel

theorem test_decode_float_2 : ([
    (0x02BA3000, 0x00000000, .fcos (f 40 48 0)), (0x02BA3001, 0x02FC0800, .fcosLong (f 40 48 0) (g 0 3 3 0 0 0x800)),
    (0x02CA3000, 0x00000000, .ftanh (f 40 48 0)), (0x02CA3001, 0x02FC0800, .ftanhLong (f 40 48 0) (g 0 3 3 0 0 0x800)),
    (0x02DA3001, 0x02FC1001, .cvt (f 40 48 0) (g 0 3 3 0 0 0x1001)), (0x02EA3000, 0x00000000, .frnd (f 40 48 0)),
    (0x02EA3001, 0x02FC0800, .frndLong (f 40 48 0) (g 0 3 3 0 0 0x800)), (0x02FA3001, 0x02FC0009, .tagset (f 40 48 0) (g 0 3 3 0 0 0x9)),
    (0x030A3000, 0x00000000, .tagget (f 40 48 0)), (0x030A3001, 0x02C00000, .taggetLong (f 40 48 0) (g 0 0 0 0 0 0x0)),
    (0x031A3001, 0x02D01001, .qblk (f 40 48 0) (g 0 1 0 0 0 0x1001)), (0x032A30E1, 0x62C50002, .fdot (f 40 48 56) (g 24 0 1 1 0 0x2))] : List (Word × Word × Instr)).all decodes = true := by
  decide +kernel

theorem test_decode_cross_lane : ([
    (0x034A30E1, 0x06FC0009, .shfl (f 40 48 56) (g 1 3 3 0 0 0x9)), (0x035A0601, 0x06C00009, .vote (f 40 6 0) (g 1 0 0 0 0 0x9)),
    (0x036A3000, 0x00000000, .matchLanes (f 40 48 0)), (0x036A3001, 0x02C40003, .matchLanesLong (f 40 48 0) (g 0 0 1 0 0 0x3)),
    (0x037A3001, 0x02C01001, .redux (f 40 48 0) (g 0 0 0 0 0 0x1001)), (0x03814000, 0x00000000, .elect (f 5 0 0)),
    (0x03814001, 0x62C00003, .electLong (f 5 0 0) (g 24 0 0 0 0 0x3)), (0x039A0C00, 0x00000000, .s2v (f 40 12 0)),
    (0x039A0B01, 0x02D00000, .s2vLong (f 40 11 0) (g 0 1 0 0 0 0x0)), (0x03A00000, 0x00000000, .conv (f 0 0 0)),
    (0x03A00001, 0x02C00000, .convLong (f 0 0 0) (g 0 0 0 0 0 0x0))] : List (Word × Word × Instr)).all decodes = true := by
  decide +kernel

theorem test_decode_memory : ([
    (0x040A30E1, 0x02F20081, .ld (f 40 48 56) (g 0 3 0 2 0 0x81)), (0x041030E1, 0x62C20041, .st (f 0 48 56) (g 24 0 0 2 0 0x41)),
    (0x042A30E1, 0x02C02055, .lds (f 40 48 56) (g 0 0 0 0 0 0x2055)), (0x043030E1, 0x62C02055, .sts (f 0 48 56) (g 24 0 0 0 0 0x2055)),
    (0x044A30E1, 0x62E2CAA5, .atom (f 40 48 56) (g 24 2 0 2 3 0xAA5)), (0x045A30E1, 0x62D0A055, .atoms (f 40 48 56) (g 24 1 0 0 2 0x2055)),
    (0x046030E1, 0x62C25001, .red (f 0 48 56) (g 24 0 0 2 1 0x1001)), (0x047030E1, 0x62C2D001, .stmc (f 0 48 56) (g 24 0 0 2 3 0x1001)),
    (0x048030E1, 0x02C20009, .pref (f 0 48 56) (g 0 0 0 2 0 0x9)), (0x049030E1, 0x02C20009, .discard (f 0 48 56) (g 0 0 0 2 0 0x9)),
    (0x04A030E1, 0x62C20200, .flush (f 0 48 56) (g 24 0 0 2 0 0x200)), (0x04B00001, 0x02C00800, .fence (f 0 0 0) (g 0 0 0 0 0 0x800)),
    (0x04C170E1, 0x02CA0009, .lock (f 5 48 56) (g 0 0 2 2 0 0x9)), (0x04D000E1, 0x02C20000, .unlock (f 0 0 56) (g 0 0 0 2 0 0x0))] : List (Word × Word × Instr)).all decodes = true := by
  decide +kernel

theorem test_decode_control : ([
    (0x060A30E0, 0x00000000, .bra (f 40 48 56)), (0x06000001, 0x12345678, .braLong (f 0 0 0) 0x12345678), (0x061170E0, 0x00000000, .brc (f 5 48 56)),
    (0x06114001, 0x12345678, .brcLong (f 5 0 0) 0x12345678), (0x062A3001, 0x02D40003, .brx (f 40 48 0) (g 0 1 1 0 0 0x3)),
    (0x063A0001, 0x12345678, .call (f 40 0 0) 0x12345678), (0x06403000, 0x00000000, .ret (f 0 48 0)),
    (0x06403001, 0x02C40000, .retLong (f 0 48 0) (g 0 0 1 0 0 0x0)), (0x06500000, 0x00000000, .exit (f 0 0 0)),
    (0x06500001, 0x02C00000, .exitLong (f 0 0 0) (g 0 0 0 0 0 0x0)), (0x06600000, 0x00000000, .yield (f 0 0 0)),
    (0x06600001, 0x02C00000, .yieldLong (f 0 0 0) (g 0 0 0 0 0 0x0)), (0x06700001, 0x02C01555, .nsleep (f 0 0 0) (g 0 0 0 0 0 0x1555)),
    (0x06800000, 0x00000000, .bkpt (f 0 0 0)), (0x06800001, 0x02C00081, .bkptLong (f 0 0 0) (g 0 0 0 0 0 0x81)),
    (0x06900001, 0x02C00AA5, .trapl (f 0 0 0) (g 0 0 0 0 0 0xAA5))] : List (Word × Word × Instr)).all decodes = true := by
  decide +kernel

theorem test_decode_uniform_1 : ([
    (0x80000000, 0x00000000, .snop (f 0 0 0)), (0x801A30E0, 0x00000000, .sadd (f 40 48 56)),
    (0x801A30E1, 0x02D50000, .saddLong (f 40 48 56) (g 0 1 1 1 0 0x0)), (0x802A30E0, 0x00000000, .ssub (f 40 48 56)),
    (0x802A30E1, 0x02D50000, .ssubLong (f 40 48 56) (g 0 1 1 1 0 0x0)), (0x803A30E0, 0x00000000, .smul (f 40 48 56)),
    (0x803A30E1, 0x02C00003, .smulLong (f 40 48 56) (g 0 0 0 0 0 0x3)), (0x804A30E1, 0x62C00000, .smad (f 40 48 56) (g 24 0 0 0 0 0x0)),
    (0x805A30E0, 0x00000000, .smin (f 40 48 56)), (0x805A30E1, 0x02C00003, .sminSmaxLong (f 40 48 56) (g 0 0 0 0 0 0x3)),
    (0x806A30E0, 0x00000000, .sand (f 40 48 56)), (0x806A30E1, 0x02FF0000, .sandLong (f 40 48 56) (g 0 3 3 3 0 0x0)),
    (0x807A30E0, 0x00000000, .sor (f 40 48 56)), (0x807A30E1, 0x02FF0000, .sorLong (f 40 48 56) (g 0 3 3 3 0 0x0)),
    (0x808A30E0, 0x00000000, .sxor (f 40 48 56)), (0x808A30E1, 0x02FF0000, .sxorLong (f 40 48 56) (g 0 3 3 3 0 0x0)),
    (0x809A30E0, 0x00000000, .sshl (f 40 48 56)), (0x809A30E1, 0x02C00000, .sshlLong (f 40 48 56) (g 0 0 0 0 0 0x0)),
    (0x80AA30E0, 0x00000000, .sshr (f 40 48 56)), (0x80AA30E1, 0x02C00001, .sshrLong (f 40 48 56) (g 0 0 0 0 0 0x1))] : List (Word × Word × Instr)).all decodes = true := by
  decide +kernel

theorem test_decode_uniform_2 : ([
    (0x80B170E1, 0x06C50081, .sset (f 5 48 56) (g 1 0 1 1 0 0x81)), (0x80CA30E1, 0x06FF0001, .ssel (f 40 48 56) (g 1 3 3 3 0 0x1)),
    (0x80DA3000, 0x00000000, .smov (f 40 48 0)), (0x80DA3001, 0x02FC0000, .smovLong (f 40 48 0) (g 0 3 3 0 0 0x0)),
    (0x80EA0001, 0x12345678, .smovi (f 40 0 0) 0x12345678), (0x80FA3001, 0x12345678, .saddi (f 40 48 0) 0x12345678),
    (0x810A0D00, 0x00000000, .s2s (f 40 13 0)), (0x810A0A01, 0x02D00000, .s2sLong (f 40 10 0) (g 0 1 0 0 0 0x0)),
    (0x811A3001, 0x06D40009, .v2s (f 40 48 0) (g 1 1 1 0 0 0x9)), (0x812A3001, 0x02FC0009, .sbcast (f 40 48 0) (g 0 3 3 0 0 0x9))] : List (Word × Word × Instr)).all decodes = true := by
  decide +kernel

theorem test_decode_uniform_control : ([
    (0x818A30E0, 0x00000000, .sbra (f 40 48 56)), (0x81800001, 0x12345678, .sbraLong (f 0 0 0) 0x12345678),
    (0x819970E0, 0x00000000, .sbrc (f 37 48 56)), (0x81914001, 0x12345678, .sbrcLong (f 5 0 0) 0x12345678),
    (0x81A00001, 0x02C00103, .bar (f 0 0 0) (g 0 0 0 0 0 0x103))] : List (Word × Word × Instr)).all decodes = true := by
  decide +kernel

theorem test_decode_records_and_tiles : ([
    (0x820A30E1, 0x62E40009, .bufmk (f 40 48 56) (g 24 2 1 0 0 0x9)), (0x821A3001, 0x02E00003, .bufset (f 40 48 0) (g 0 2 0 0 0 0x3)),
    (0x822A0001, 0x02F00009, .layout (f 40 0 0) (g 0 3 0 0 0 0x9)), (0x828146E1, 0x62C10009, .mma (f 5 6 56) (g 24 0 0 1 0 0x9)),
    (0x82914001, 0x02C00009, .tzero (f 5 0 0) (g 0 0 0 0 0 0x9)), (0x82A17001, 0x62C40008, .tld (f 5 48 0) (g 24 0 1 0 0 0x8)),
    (0x82BA0601, 0x62D00008, .tst (f 40 6 0) (g 24 1 0 0 0 0x8)), (0x82CA0601, 0x62D00009, .tred (f 40 6 0) (g 24 1 0 0 0 0x9)),
    (0x82D146E1, 0x62C00009, .tscal (f 5 6 56) (g 24 0 0 0 0 0x9)), (0x82E14601, 0x62C04081, .topk (f 5 6 0) (g 24 0 0 0 1 0x81)),
    (0x82F17001, 0x02CC0123, .tmov (f 5 48 0) (g 0 0 3 0 0 0x123))] : List (Word × Word × Instr)).all decodes = true := by
  decide +kernel

theorem test_decode_copies_and_waits : ([
    (0x830A30E1, 0x02D80200, .cpy (f 40 48 56) (g 0 1 2 0 0 0x200)), (0x831A30E1, 0x02D80200, .cpyo (f 40 48 56) (g 0 1 2 0 0 0x200)),
    (0x832A30E1, 0x62D88000, .cpym (f 40 48 56) (g 24 1 2 0 2 0x0)), (0x833A30E1, 0x02D90200, .cpyc (f 40 48 56) (g 0 1 2 1 0 0x200)),
    (0x834A30E1, 0x02D81001, .cpyr (f 40 48 56) (g 0 1 2 0 0 0x1001)), (0x83517001, 0x02C40001, .tlwait (f 5 48 0) (g 0 0 1 0 0 0x1)),
    (0x836A0001, 0x02D00009, .tlget (f 40 0 0) (g 0 1 0 0 0 0x9)), (0x837030E1, 0x02C00000, .femark (f 0 48 56) (g 0 0 0 0 0 0x0)),
    (0x838030E1, 0x02C00000, .fefill (f 0 48 56) (g 0 0 0 0 0 0x0)), (0x839030E1, 0x02C80200, .tbinit (f 0 48 56) (g 0 0 2 0 0 0x200)),
    (0x83A030E1, 0x02C80200, .tbexp (f 0 48 56) (g 0 0 2 0 0 0x200)), (0x83B03001, 0x02C81001, .tbarv (f 0 48 0) (g 0 0 2 0 0 0x1001)),
    (0x83C17001, 0x02C81001, .tbwait (f 5 48 0) (g 0 0 2 0 0 0x1001)), (0x83D00000, 0x00000000, .catchOp (f 0 0 0)),
    (0x83DA0001, 0x02C00001, .catchOpLong (f 40 0 0) (g 0 0 0 0 0 0x1))] : List (Word × Word × Instr)).all decodes = true := by
  decide +kernel

theorem test_decode_messages_and_launches : ([
    (0x840A30E1, 0x02C00000, .send (f 40 48 56) (g 0 0 0 0 0 0x0)), (0x841A30E1, 0x62C00000, .recvp (f 40 48 56) (g 24 0 0 0 0 0x0)),
    (0x842A3001, 0x06D00000, .mprobe (f 40 48 0) (g 1 1 0 0 0 0x0)), (0x848A3001, 0x02CC0001, .lrec (f 40 48 0) (g 0 0 3 0 0 0x1)),
    (0x849A3001, 0x06C00001, .launch (f 40 48 0) (g 1 0 0 0 0 0x1)), (0x84A170E1, 0x02C00009, .cwait (f 5 48 56) (g 0 0 0 0 0 0x9)),
    (0x84BA3001, 0x02D00003, .cget (f 40 48 0) (g 0 1 0 0 0 0x3)), (0x84C03001, 0x02C00003, .cancel (f 0 48 0) (g 0 0 0 0 0 0x3))] : List (Word × Word × Instr)).all decodes = true := by
  decide +kernel

theorem test_decode_traps_and_registers : ([
    (0x85800001, 0x02C00AA5, .trap (f 0 0 0) (g 0 0 0 0 0 0xAA5)), (0x85900000, 0x00000000, .rte (f 0 0 0)),
    (0x85AA0001, 0x02C00AA5, .csrr (f 40 0 0) (g 0 0 0 0 0 0xAA5)), (0x85B03001, 0x02C02055, .csrw (f 0 48 0) (g 0 0 0 0 0 0x2055)),
    (0x85C03001, 0x02C80009, .fmtset (f 0 48 0) (g 0 0 2 0 0 0x9)), (0x85DA0001, 0x02E00009, .fmtget (f 40 0 0) (g 0 2 0 0 0 0x9)),
    (0x85E03001, 0x02CC0003, .cpdset (f 0 48 0) (g 0 0 3 0 0 0x3)), (0x85F03001, 0x02CC0009, .wpset (f 0 48 0) (g 0 0 3 0 0 0x9)),
    (0x860A0001, 0x02C00041, .wpctl (f 40 0 0) (g 0 0 0 0 0 0x41)), (0x861A3001, 0x02C00081, .hread (f 40 48 0) (g 0 0 0 0 0 0x81)),
    (0x862030E1, 0x02C00081, .hwrite (f 0 48 56) (g 0 0 0 0 0 0x81)), (0x86317001, 0x02C00000, .hstep (f 5 48 0) (g 0 0 0 0 0 0x0)),
    (0x86403001, 0x02C00000, .hres (f 0 48 0) (g 0 0 0 0 0 0x0)), (0x86500000, 0x00000000, .dumpq (f 0 0 0)),
    (0x865A0001, 0x02C00001, .dumpqLong (f 40 0 0) (g 0 0 0 0 0 0x1))] : List (Word × Word × Instr)).all decodes = true := by
  decide +kernel

/-- Opcodes that the maps reserve, and 0x7F, whatever the other bits. -/
theorem test_decode_illegal : ([0x01900000, 0x03300001, 0x07F00000, 0xFFFFFFFF, 0x83E00003] : List Word).all (fun w => decodes (w, 0, .illegalWord w)) = true := by
  decide +kernel

/-- R44, R45, R47: NOP with L, LD without L, POPC with a field B, IADD.2 of an odd register, a width that IADD does not take. -/
theorem test_decode_refused : ([((0x00000001 : Word), (0 : Word)), (0x04000000, 0), (0x00E00004, 0), (0x00100001, 0x01E00000)].all (refuses .illField) &&
    refuses .illAlign (0x00104001, 0x01D50004)) = true := by
  decide +kernel

/-! #### Each check of well-formedness refuses a term -/

/-- R44: a class N instruction has no extension, and one of class X or I no short form. -/
theorem test_wf_form : (!formOk ⟨.nop, f 0 0 0, .long (x 0 0)⟩ && !formOk ⟨.ld, f 8 1 4, .short⟩ && !formOk ⟨.movi, f 8 0 0, .short⟩ &&
    !formOk ⟨.bra, f 0 0 0, .long (x 0 0)⟩ && formOk ⟨.iadd, f 0 0 0, .short⟩) = true := by
  decide +kernel

/-- R45: fields D, A, B and C that the instruction does not use. -/
theorem test_wf_unused : ([.stmc (f 1 0 4) (xr 5 1), .tagget (f 5 6 1), .csrr (f 5 1 0) (x 0 0x10), .iaddLong (f 1 2 3) (x 1 4)] : List Instr).all (fun i => !wf i) =
    true := by
  decide +kernel

/-- R45: a predicate above p7 and a tile above a15. -/
theorem test_wf_numbers : (!wf (.plop (f 8 0 0) (x 0 0)) && wf (.plop (f 7 0 0) (x 0 0)) && !wf (.tzero (f 16 0 0) (x 0 3)) && wf (.tzero (f 15 0 0) (x 0 3))) = true := by
  decide +kernel

/-- R45: bits of M that an instruction leaves undefined, and values of its modifiers that it does not define. -/
theorem test_wf_modifiers : (!wf (.plop (f 1 0 0) (x 0 0x100)) && !wf (.csrw (f 0 1 0) (x 0 0x3010)) && wf (.csrw (f 0 1 0) (x 0 0x2010)) &&
    !wf (.hread (f 1 2 0) (x 0 0xC8)) && wf (.hread (f 1 2 0) (x 0 0xC7)) && !wf (.cget (f 2 4 0) (xw 0 1 0 0 0 5)) && wf (.cget (f 2 4 0) (xw 0 1 0 0 0 4)) &&
    !wf (.s2v (f 1 14 0)) && wf (.s2v (f 1 13 0)) && !wf (.s2s (f 1 0 0))) = true := by
  decide +kernel

/-- R47: a width that the instruction does not take, in each of D, A, B and C. -/
theorem test_wf_widths : ([.iaddLong (f 0 0 0) (xw 0 2 0 0 0 0), .iaddLong (f 0 0 0) (xw 0 0 2 0 0 0), .iaddLong (f 0 0 0) (xw 0 0 0 2 0 0),
    .imad (f 0 0 0) (xw 0 0 0 0 2 0), .ld (f 8 1 4) (x 0 0)] : List Instr).all (fun i => !wf i) = true := by
  decide +kernel

/-- R47: a group that is not aligned, in each of D, A, B and C, and an odd pair of control registers. -/
theorem test_wf_aligned : ([.andLong (f 1 2 4) (xw 0 1 1 1 0 0), .andLong (f 2 1 4) (xw 0 1 1 1 0 0), .andLong (f 2 4 1) (xw 0 1 1 1 0 0),
    .st (f 0 0 4) (xw 5 0 0 2 1 0), .csrr (f 2 0 0) (xw 0 1 0 0 0 0x101)] : List Instr).all (fun i => !wf i) = true ∧
    ([.andLong (f 2 2 4) (xw 0 1 1 1 0 0), .st (f 0 0 4) (xw 6 0 0 2 1 0), .csrr (f 2 0 0) (xw 0 1 0 0 0 0x102)] : List Instr).all wf = true := by
  decide +kernel

/-- R55, R56: a word of an opcode that the maps define is no illegal word; an event is no word. -/
theorem test_wf_words : (!wf (.illegalWord 0) && wf (.illegalWord 0x07F00000) && !wf .coldReset && !wf (.sleepExpiry ⟨0, 0, 0⟩ 0)) = true := by
  decide +kernel

/-! #### One step of a small program, by hand from the rules -/

/-- A field of the warp after the step of an instruction at reset. -/
def Test.after (w : Nat) (h : Warp → Bool) : Bool :=
  match step (State.reset.withFetchWord 64 w) with
  | .next s => (s.part.warp? ⟨0, 0, 0⟩).any h
  | _ => false

/-- The values of lane 0 that the first outstanding write of the warp holds. -/
def Test.result (w : Warp) : Option (List Target × List Word) :=
  w.pend.head?.bind (fun e => e.lanes.head?.bind (fun l => l.values.map (fun v => (l.targets, v))))

/-- R106: MOVI v3, 0x12345678 of 8 bytes. -/
theorem test_movi : after 0x12345678_0170C001 (fun w => result w == some ([.v 3], [0x12345678]) && w.nextPc == some (loadVa + 8)) = true := by
  decide +kernel

/-- R107: IADDI v3, v0, -2 wraps. -/
theorem test_iaddi_wraps : after 0xFFFFFFFE_0180C001 (fun w => result w == some ([.v 3], [0xFFFFFFFE]) && w.nextPc == some (loadVa + 8)) = true := by
  decide +kernel

/-- R161: SMOVI s4, 0x12345678, of the worked encodings. -/
theorem test_smovi : after 0x12345678_80E10001 (fun w => result w == some ([.s 4], [0x12345678])) = true := by
  decide +kernel

/-- R27: S2V v5, %lane in lane 0, and %warp. -/
theorem test_s2v : after 0x03914000 (fun w => result w == some ([.v 5], [0]) && w.nextPc == some (loadVa + 4)) = true := by
  decide +kernel

/-- R60: BRA forward 5 words from its own base word. -/
theorem test_bra : after 0x06000014 (fun w => w.nextPc == some (loadVa + 20)) = true := by
  decide +kernel

/-- R60: BRA back 5 words, of the worked encodings. -/
theorem test_bra_back : after 0x060FFFEC (fun w => w.nextPc == some (loadVa - 20)) = true := by
  decide +kernel

/-- R56, R273: a word of opcode 0x7F traps ILL_OPC (0) to the handler of the job, and saves its PC. -/
theorem test_illegal_traps : after 0xFFFFFFFF (fun w => w.trapMode && w.tcause == 0 && w.tepc == loadVa && w.nextPc == some loadTbase) = true := by
  decide +kernel

/-- R230: RTE in user mode traps PRIV (3). -/
theorem test_rte_user : after 0x85900000 (fun w => w.trapMode && w.tcause == 3) = true := by
  decide +kernel

/-- R347, R348, R351, R352: a TLB and its walk cache take the entries on the walk of an address, the last the 2 MiB page of the
loaded program; of an address whose walk ends sooner, those above the end. An invalidate of the page's last byte or of the whole job
drops them all, one of the next page keeps its leaf, and one of another job keeps all. -/
theorem test_tlb : (let p := (mem.holdLeaf loadJob (loadVa + 0x1234)).part
    p.tlb.map (fun e => (e.va, e.span)) == [(0, 2 ^ 48), (0, 2 ^ 39), (0x100000000, 2 ^ 30), (0x100000000, 0x200000)] &&
      p.tlb.getLast? == some ⟨1, 0x100000000, 0x200000, 0x20003F⟩ && (p.dropTlb 1 0x1001FFFFF 1).tlb.isEmpty && (p.dropTlb 1 0 0).tlb.isEmpty &&
      (p.dropTlb 1 0x100200000 64).tlb.map (·.span) == [0x200000] && (p.dropTlb 2 0 0).tlb == p.tlb &&
      (mem.holdLeaf loadJob 0).part.tlb.map (·.span) == [2 ^ 48, 2 ^ 39]) = true := by
  decide +kernel

/-- R309, R312: the eviction of a line pinned by a forward window writes it to memory and counts it; one that is not pinned is
written and not counted; a clean replica goes. -/
theorem test_evict : [true, false].all (fun pinned =>
    let line := 0x4000
    let held : Copy := { Copy.empty with data := [(3, 7)], dirty := 1, pinned := pinned }
    let p := (mem.part.onDie 0 (fun d => { d with copies := [(line, held)] })).onDie 1 (fun d => { d with copies := [(line, Copy.empty)] })
    let s : State := { mem with part := p }
    let t := (s.evictLine 0 line).evictLine 1 line
    t.dram.read (128 * line + 3) == 7 && t.part.dies.map (·.fwdOvf) == [if pinned then 1 else 0, 0, 0, 0] &&
      t.part.dies.map (fun d => d.copies.length) == [1, 0, 0, 0]) = true := by
  decide +kernel

/-- R279: a NOP that is the second past the signal is counted, and after the third the warp stops with TSKID 3 and SIB_HALT. -/
theorem test_skid : [(1, false), (2, true)].all (fun q =>
    match exec (.nop (f 0 0 0)) (runsOn q.1 0) with
    | .next u =>
      let t := skidTurn ⟨0, 0, 0⟩ (((runsOn q.1 0).part.warp? ⟨0, 0, 0⟩).getD (Warp.start 0 0 0 0 0 0)) u
      (t.part.warp? ⟨0, 0, 0⟩).any (fun w => if q.2 then w.skid.isNone && w.tskid == 3 && w.haltCause == 52 && w.threads.all Thread.isHalted
        else w.skid.any (fun k => k.issued == 2) && w.nextPc.isSome)
    | _ => false) = true := by
  decide +kernel

/-- R274, R279: the trap of one warp signals the other, which begins its skid, or stops at once with skid 0 where none of its
threads is ready. -/
theorem test_signal : [true, false].all (fun ready =>
    let s := onWg (runsOn 0 0) (fun g => { g with warps := (g.warps.map (fun w => { w with skid := none })).zipIdx.map (fun q =>
      if q.2 = 1 && !ready then { q.1 with threads := q.1.threads.map (fun t => { t with st := .live (.asleep 99) }) } else q.1) })
    match exec (.rte (f 0 0 0)) s with
    | .next t => (t.part.warp? ⟨0, 0, 0⟩).any (·.trapMode) && (t.part.warp? ⟨0, 0, 1⟩).any (fun w =>
        if ready then w.skid.isSome && w.nextPc.isSome else w.skid.isNone && w.tskid == 0 && w.haltCause == 52 && w.threads.all Thread.isHalted)
    | _ => false) = true := by
  decide +kernel

/-- R155: EXIT of the only warp. -/
theorem test_exit : after 0x06500000 (fun w => w.threads.all (fun t => t.st == .exited)) = true := by
  decide +kernel

end Sys2Proof
end

section
/-! PROOFS. Decoding and encoding are inverse to each other (R5, R40 to R44, R55): the opcode maps, the fields of base and extension
words, the parts of an instruction, and from these what decodeWords answers. -/

namespace Sys2Proof

open Machine Laws

/-! ### The opcode maps, R57, R58 -/

theorem mem_of_lookupKey {α : Type} {k : Nat} {v : α} {l : List (Nat × α)} (h : lookupKey k l = some v) : (k, v) ∈ l := by
  induction l with
  | nil => cases h
  | cons e r ih =>
    obtain ⟨k', v'⟩ := e
    simp only [lookupKey] at h
    split at h
    next hk => cases h; simp [hk]
    next => exact List.mem_cons_of_mem _ (ih h)

@[simp] theorem opOf_opCode (op : Op) : opOf (opCode op) = some op := by
  cases op <;> rfl

theorem opCode_of_opOf {n : Nat} {op : Op} (h : opOf n = some op) : opCode op = n := by
  have rows : ∀ e ∈ opTable, opCode e.2.1 = e.1 := by decide +kernel
  obtain ⟨e, he, rfl⟩ := Option.map_eq_some_iff.mp h
  exact rows _ (mem_of_lookupKey he)

theorem opCode_lt (op : Op) : opCode op < 256 := by
  cases op <;> decide

/-! ### Numbers made of fields -/

/-- The number made of fields, each a width and a value, the lowest first. -/
def packed : List (Nat × Nat) → Nat
  | [] => 0
  | (n, v) :: l => v + 2 ^ n * packed l

/-- The fields of the given widths that a number is made of, the lowest first. -/
def fieldsOf : List Nat → Nat → List (Nat × Nat)
  | [], _ => []
  | n :: ns, x => (n, x % 2 ^ n) :: fieldsOf ns (x / 2 ^ n)

theorem packed_fieldsOf (ns : List Nat) (x : Nat) : packed (fieldsOf ns x) = x % 2 ^ ns.sum := by
  induction ns generalizing x with
  | nil => simp [fieldsOf, packed, Nat.mod_one]
  | cons n ns ih => simp [fieldsOf, packed, ih, Nat.pow_add, Nat.mod_mul]

theorem fieldsOf_packed {l : List (Nat × Nat)} (h : ∀ e ∈ l, e.2 < 2 ^ e.1) : fieldsOf (l.map (·.1)) (packed l) = l := by
  induction l with
  | nil => rfl
  | cons e l ih =>
    have hv : e.2 < 2 ^ e.1 := h e (by simp)
    have hd : (e.2 + 2 ^ e.1 * packed l) / 2 ^ e.1 = packed l := by
      rw [Nat.add_mul_div_left _ _ (Nat.two_pow_pos _), Nat.div_eq_of_lt hv, Nat.zero_add]
    simp [fieldsOf, packed, hd, Nat.mod_eq_of_lt hv, ih (fun e he => h e (by simp [he]))]

theorem packed_lt {l : List (Nat × Nat)} (h : ∀ e ∈ l, e.2 < 2 ^ e.1) : packed l < 2 ^ (l.map (·.1)).sum := by
  have := packed_fieldsOf (l.map (·.1)) (packed l)
  rw [fieldsOf_packed h] at this
  exact this ▸ Nat.mod_lt _ (Nat.two_pow_pos _)

/-! ### The fields of a base word and of an extension word, R40, R43 -/

/-- The layout of a base word: SET and OP as one number, the fields, the L bit. -/
def baseLayout (n : Nat) (f : Base) (l : Bool) : List (Nat × Nat) :=
  [(1, l.toNat), (1, f.t.toNat), (6, f.b.toNat), (6, f.a.toNat), (6, f.d.toNat), (7, n % 128), (2, f.gap.toNat), (1, f.y.toNat),
    (1, f.k.toNat), (1, n / 128)]

/-- The layout of an extension word. -/
def extLayout (x : Ext) : List (Nat × Nat) :=
  [(14, x.m.toNat), (2, x.wc.toNat), (2, x.wb.toNat), (2, x.wa.toNat), (2, x.wd.toNat), (3, x.gp.toNat), (1, x.n.toNat), (6, x.c.toNat)]

theorem boolToNat_inj {a b : Bool} : a.toNat = b.toNat ↔ a = b := by
  cases a <;> cases b <;> decide

theorem baseLayout_inj {n n' : Nat} {f f' : Base} {l l' : Bool} (h : baseLayout n f l = baseLayout n' f' l') :
    n = n' ∧ f = f' ∧ l = l' := by
  obtain ⟨k, y, gap, d, a, b, t⟩ := f
  obtain ⟨k', y', gap', d', a', b', t'⟩ := f'
  simp only [baseLayout, List.cons.injEq, Prod.mk.injEq, true_and, and_true, boolToNat_inj, BitVec.toNat_inj] at h
  obtain ⟨rfl, rfl, rfl, rfl, rfl, hop, rfl, rfl, rfl, hset⟩ := h
  exact ⟨by omega, rfl, rfl⟩

theorem extLayout_inj {x x' : Ext} (h : extLayout x = extLayout x') : x = x' := by
  obtain ⟨c, n, gp, wd, wa, wb, wc, m⟩ := x
  obtain ⟨c', n', gp', wd', wa', wb', wc', m'⟩ := x'
  simp only [extLayout, List.cons.injEq, Prod.mk.injEq, true_and, and_true, boolToNat_inj, BitVec.toNat_inj] at h
  simp [h]

theorem baseLayout_fits {n : Nat} (hn : n < 256) (f : Base) (l : Bool) : ∀ e ∈ baseLayout n f l, e.2 < 2 ^ e.1 := by
  simp only [baseLayout, List.forall_mem_cons]
  exact ⟨l.toNat_lt, f.t.toNat_lt, f.b.isLt, f.a.isLt, f.d.isLt, Nat.mod_lt _ (by decide), f.gap.isLt, f.y.toNat_lt, f.k.toNat_lt,
    Nat.div_lt_of_lt_mul hn, by simp⟩

theorem extLayout_fits (x : Ext) : ∀ e ∈ extLayout x, e.2 < 2 ^ e.1 := by
  simp only [extLayout, List.forall_mem_cons]
  exact ⟨x.m.isLt, x.wc.isLt, x.wb.isLt, x.wa.isLt, x.wd.isLt, x.gp.isLt, x.n.toNat_lt, x.c.isLt, by simp⟩

theorem toNat_bitNat (x i : Nat) : (bitNat x i == 1).toNat = bitNat x i := by
  rcases Nat.mod_two_eq_zero_or_one (x / 2 ^ i) with h | h <;> simp [bitNat, h]

/-- Decoding reads the fields that a base word is made of. -/
theorem fieldsOf_base (w : Word) :
    fieldsOf [1, 1, 6, 6, 6, 7, 2, 1, 1, 1] w.toNat = baseLayout (setOpOf w) (baseFields w) (hasExt w) := by
  have hop : setOpOf w % 128 = w.toNat / 2 ^ 20 % 2 ^ 7 := by simp only [setOpOf, bitNat, bitsNat]; omega
  have hset : setOpOf w / 128 = w.toNat / 2 ^ 31 % 2 := by simp only [setOpOf, bitNat, bitsNat]; omega
  simp only [baseLayout, hop, hset, baseFields, hasExt, toNat_bitNat]
  simp [fieldsOf, bitNat, Nat.div_div_eq_div_mul]

/-- Decoding reads the fields that an extension word is made of. -/
theorem fieldsOf_ext (v : Word) : fieldsOf [14, 2, 2, 2, 2, 3, 1, 6] v.toNat = extLayout (extFields v) := by
  simp only [extLayout, extFields, toNat_bitNat]
  simp [fieldsOf, bitNat, Nat.div_div_eq_div_mul]

theorem encodeBase_toNat (op : Op) (f : Base) (l : Bool) : (encodeBase op f l).toNat = packed (baseLayout (opCode op) f l) := by
  have hlt : packed (baseLayout (opCode op) f l) < 2 ^ 32 := packed_lt (baseLayout_fits (opCode_lt op) f l)
  rw [← Nat.mod_eq_of_lt hlt, encodeBase, word, BitVec.toNat_ofNat]
  simp only [packed, baseLayout]
  congr 1
  omega

theorem encodeExt_toNat (x : Ext) : (encodeExt x).toNat = packed (extLayout x) := by
  have hlt : packed (extLayout x) < 2 ^ 32 := packed_lt (extLayout_fits x)
  rw [← Nat.mod_eq_of_lt hlt, encodeExt, word, BitVec.toNat_ofNat]
  simp only [packed, extLayout]
  congr 1
  omega

/-- A base word is read back as the opcode, the fields and the L bit that it was made of. -/
theorem fields_encodeBase (op : Op) (f : Base) (l : Bool) :
    setOpOf (encodeBase op f l) = opCode op ∧ baseFields (encodeBase op f l) = f ∧ hasExt (encodeBase op f l) = l := by
  refine baseLayout_inj ?_
  rw [← fieldsOf_base, encodeBase_toNat]
  exact fieldsOf_packed (baseLayout_fits (opCode_lt op) f l)

@[simp] theorem setOpOf_encodeBase (op : Op) (f : Base) (l : Bool) : setOpOf (encodeBase op f l) = opCode op :=
  (fields_encodeBase op f l).1

@[simp] theorem baseFields_encodeBase (op : Op) (f : Base) (l : Bool) : baseFields (encodeBase op f l) = f :=
  (fields_encodeBase op f l).2.1

@[simp] theorem hasExt_encodeBase (op : Op) (f : Base) (l : Bool) : hasExt (encodeBase op f l) = l :=
  (fields_encodeBase op f l).2.2

@[simp] theorem extFields_encodeExt (x : Ext) : extFields (encodeExt x) = x := by
  refine extLayout_inj ?_
  rw [← fieldsOf_ext, encodeExt_toNat]
  exact fieldsOf_packed (extLayout_fits x)

/-- A base word is made of its opcode, its fields and its L bit. -/
theorem encodeBase_baseFields {op : Op} {w : Word} (h : opCode op = setOpOf w) : encodeBase op (baseFields w) (hasExt w) = w := by
  refine BitVec.eq_of_toNat_eq ?_
  rw [encodeBase_toNat, h, ← fieldsOf_base, packed_fieldsOf]
  exact Nat.mod_eq_of_lt w.isLt

@[simp] theorem encodeExt_extFields (v : Word) : encodeExt (extFields v) = v := by
  refine BitVec.eq_of_toNat_eq ?_
  rw [encodeExt_toNat, ← fieldsOf_ext, packed_fieldsOf]
  exact Nat.mod_eq_of_lt v.isLt

/-! ### The parts of an instruction and its forms, R44 -/

/-- The second word of an instruction in a form, none in the short form. -/
def Machine.Form.word : Form → Option Word
  | .short => none
  | .long x => some (encodeExt x)
  | .imm v => some v

theorem remake_of_partsOf {i : Instr} {p : Parts} (h : partsOf i = some p) : remake p = some i := by
  cases i <;> cases h <;> rfl

theorem partsOf_of_remake {i : Instr} {p : Parts} (h : remake p = some i) : partsOf i = some p := by
  obtain ⟨op, f, form⟩ := p
  cases form <;> cases op <;> cases h <;> rfl

/-- The forms that an extension class has. -/
def Machine.ExtClass.allows : ExtClass → Form → Bool
  | .n, .short => true
  | .e, .short => true
  | .e, .long _ => true
  | .x, .long _ => true
  | .i, .imm _ => true
  | .b, .short => true
  | .b, .imm _ => true
  | _, _ => false

theorem formOk_eq (p : Parts) : formOk p = (opClass p.op).allows p.form := rfl

/-- What the decoder builds of an opcode, base fields and a second word is the instruction with these parts in a form that the
class of the opcode has. -/
theorem formOf_eq_some_iff {op : Op} {f : Base} {x : Option Word} {i : Instr} :
    formOf op f x = some i ↔ ∃ form : Form, form.word = x ∧ (opClass op).allows form = true ∧ partsOf i = some ⟨op, f, form⟩ := by
  unfold formOf
  generalize opClass op = c
  constructor
  · intro h
    cases x with
    | none =>
      have short (h : mkShort op f = some i) : partsOf i = some ⟨op, f, .short⟩ := partsOf_of_remake h
      cases c
      case n | e | b => exact ⟨.short, rfl, rfl, short h⟩
      case x | i => cases h
    | some v =>
      have long (h : mkLong op f (extFields v) = some i) : partsOf i = some ⟨op, f, .long (extFields v)⟩ := partsOf_of_remake h
      have imm (h : mkImm op f v = some i) : partsOf i = some ⟨op, f, .imm v⟩ := partsOf_of_remake h
      cases c
      case n => cases h
      case e | x => exact ⟨.long (extFields v), by simp [Form.word], rfl, long h⟩
      case i | b => exact ⟨.imm v, rfl, rfl, imm h⟩
  · rintro ⟨form, rfl, hok, h⟩
    have hi := remake_of_partsOf h
    cases form with
    | short =>
      cases c
      case n | e | b => exact hi
      case x | i => cases hok
    | long x =>
      have hi : mkLong op f (extFields (encodeExt x)) = some i := by rwa [extFields_encodeExt]
      cases c
      case e | x => exact hi
      case n | i | b => cases hok
    | imm v =>
      cases c
      case i | b => exact hi
      case n | e | x => cases hok

theorem encode_of_partsOf {i : Instr} {p : Parts} (h : partsOf i = some p) :
    encode i = encodeBase p.op p.base p.form.word.isSome :: p.form.word.toList := by
  obtain ⟨op, f, form⟩ := p
  unfold encode
  cases form <;> simp [h, Form.word]

theorem needsExt_of_opOf {w : Word} {op : Op} (h : opOf (setOpOf w) = some op) : needsExt w = (hasExt w && opClass op != .n) := by
  rw [needsExt, h]

theorem needsExt_encodeBase {p : Parts} (hok : formOk p = true) :
    needsExt (encodeBase p.op p.base p.form.word.isSome) = p.form.word.isSome := by
  rw [formOk_eq] at hok
  rw [needsExt_of_opOf (by rw [setOpOf_encodeBase, opOf_opCode]), hasExt_encodeBase]
  generalize opClass p.op = c at hok ⊢
  generalize p.form = form at hok ⊢
  cases form with
  | short => rfl
  | long x =>
    cases c
    case n => cases hok
    case e | x | i | b => rfl
  | imm v =>
    cases c
    case n => cases hok
    case e | x | i | b => rfl

/-! ### What decoding answers, R55 -/

/-- A check of R55 answers an error where it fails. -/
theorem check_eq_ok_iff {b : Bool} {e : DecodeError} {r : Except DecodeError Instr} {i : Instr} :
    (if !b then .error e else r) = .ok i ↔ b = true ∧ r = .ok i := by
  cases b <;> simp

theorem decodeWords_of_reserved {w : Word} (h : opOf (setOpOf w) = none) (x : Word) : decodeWords w x = .ok (.illegalWord w) := by
  rw [decodeWords, h]

theorem decodeWords_of_formOf_none {w x : Word} {op : Op} (h : opOf (setOpOf w) = some op)
    (hi : formOf op (baseFields w) (if hasExt w then some x else none) = none) : decodeWords w x = .error .illField := by
  rw [decodeWords, h]
  dsimp only
  rw [hi]

/-- An instruction that its opcode and form give is what a word decodes to, if it passes the checks. -/
theorem decodeWords_of_formOf {w x : Word} {op : Op} {i : Instr} {p : Parts} (h : opOf (setOpOf w) = some op)
    (hi : formOf op (baseFields w) (if hasExt w then some x else none) = some i) (hp : partsOf i = some p) :
    decodeWords w x = if !fieldsOk p.op p.base p.ext p.isImm then .error .illField
      else if !alignmentOk p.op p.base p.ext p.isImm then .error .illAlign else .ok i := by
  rw [decodeWords, h]
  dsimp only
  rw [hi]
  dsimp only
  rw [hp]

theorem checks_of_partsOk {p : Parts} (h : partsOk p = true) :
    formOk p = true ∧ fieldsOk p.op p.base p.ext p.isImm = true ∧ alignmentOk p.op p.base p.ext p.isImm = true := by
  simpa only [partsOk, Bool.and_eq_true, and_assoc] using h

theorem partsOk_of_checks {p : Parts} (h : formOk p = true) (hf : fieldsOk p.op p.base p.ext p.isImm = true)
    (ha : alignmentOk p.op p.base p.ext p.isImm = true) : partsOk p = true := by
  rw [partsOk, h, hf, ha]
  rfl

/-- A base word that decodes is a reserved one, or the base word of the well-formed instruction whose second word follows it. -/
theorem decodeWords_eq_ok_iff {w x : Word} {i : Instr} :
    decodeWords w x = .ok i ↔ (opOf (setOpOf w) = none ∧ i = .illegalWord w) ∨
      ∃ p, partsOf i = some p ∧ partsOk p = true ∧ w = encodeBase p.op p.base p.form.word.isSome ∧ p.form.word.getD x = x := by
  constructor
  · intro h
    cases hop : opOf (setOpOf w) with
    | none =>
      rw [decodeWords_of_reserved hop] at h
      exact .inl ⟨rfl, (Except.ok.inj h).symm⟩
    | some op =>
      cases hj : formOf op (baseFields w) (if hasExt w then some x else none) with
      | none =>
        rw [decodeWords_of_formOf_none hop hj] at h
        cases h
      | some j =>
        obtain ⟨form, hx, hok, hp⟩ := formOf_eq_some_iff.mp hj
        rw [decodeWords_of_formOf hop hj hp, check_eq_ok_iff, check_eq_ok_iff] at h
        obtain ⟨hf, ha, hi⟩ := h
        cases hi
        have hL : form.word.isSome = hasExt w := by rw [hx]; cases hasExt w <;> rfl
        refine .inr ⟨_, hp, partsOk_of_checks hok hf ha, ?_, ?_⟩
        · rw [hL, encodeBase_baseFields (opCode_of_opOf hop)]
        · rw [hx]; cases hasExt w <;> rfl
  · rintro (⟨hop, rfl⟩ | ⟨p, hp, hok, rfl, hx⟩)
    · exact decodeWords_of_reserved hop x
    · obtain ⟨hform, hf, ha⟩ := checks_of_partsOk hok
      have hword : (if p.form.word.isSome then some x else none) = p.form.word := by
        cases hw : p.form.word with
        | none => rfl
        | some v => rw [hw] at hx; exact congrArg some hx.symm
      have hj : formOf p.op (baseFields (encodeBase p.op p.base p.form.word.isSome))
          (if hasExt (encodeBase p.op p.base p.form.word.isSome) then some x else none) = some i := by
        rw [baseFields_encodeBase, hasExt_encodeBase, hword]
        exact formOf_eq_some_iff.mpr ⟨p.form, rfl, hform, hp⟩
      rw [decodeWords_of_formOf (by rw [setOpOf_encodeBase, opOf_opCode]) hj hp, hf, ha]
      rfl

/-- The second word matters only where one is needed. -/
theorem decodeWords_of_not_needsExt {w x : Word} {i : Instr} (h : decodeWords w x = .ok i) (hn : needsExt w = false) (y : Word) :
    decodeWords w y = .ok i := by
  rw [decodeWords_eq_ok_iff] at h ⊢
  refine h.imp_right ?_
  rintro ⟨p, hp, hok, rfl, -⟩
  rw [needsExt_encodeBase (checks_of_partsOk hok).1] at hn
  rw [Option.isSome_eq_false_iff, Option.isNone_iff_eq_none] at hn
  exact ⟨p, hp, hok, rfl, by rw [hn]; rfl⟩

/-- The words that decoding takes for a base word: the second one where it is needed. -/
def wordsOf (w x : Word) : List Word := if needsExt w then [w, x] else [w]

theorem needsExt_of_reserved {w : Word} (h : opOf (setOpOf w) = none) : needsExt w = false := by
  rw [needsExt, h]

theorem wf_illegalWord (w : Word) : wf (.illegalWord w) = (opOf (setOpOf w)).isNone := rfl

/-- What decodes is well formed, and encodes to the words it was decoded from. -/
theorem wf_and_encode_of_decodeWords {w x : Word} {i : Instr} (h : decodeWords w x = .ok i) : wf i = true ∧ encode i = wordsOf w x := by
  obtain ⟨hop, rfl⟩ | ⟨p, hp, hok, rfl, hx⟩ := decodeWords_eq_ok_iff.mp h
  · rw [wf_illegalWord, hop, wordsOf, needsExt_of_reserved hop]
    exact ⟨rfl, rfl⟩
  · refine ⟨by simpa only [wf, hp] using hok, ?_⟩
    rw [encode_of_partsOf hp, wordsOf, needsExt_encodeBase (checks_of_partsOk hok).1]
    cases hw : p.form.word with
    | none => rfl
    | some v => rw [hw] at hx; rw [← hx]; rfl

/-- Every well-formed instruction is what some words decode to. -/
theorem decodeWords_of_wf {i : Instr} (h : wf i = true) : ∃ w x, decodeWords w x = .ok i := by
  cases hp : partsOf i with
  | some p =>
    exact ⟨_, p.form.word.getD 0, decodeWords_eq_ok_iff.mpr (.inr ⟨p, hp, wf_parts hp h, rfl, by cases p.form.word <;> rfl⟩)⟩
  | none =>
    unfold wf at h
    rw [hp] at h
    dsimp only at h
    split at h
    next w => exact ⟨w, 0, decodeWords_of_reserved (Option.isNone_iff_eq_none.mp h) 0⟩
    next => cases h

/-! ### Lists of words and of bytes, R5, R40, R41 -/

theorem decodeList_wordsOf {w x : Word} {i : Instr} (h : decodeWords w x = .ok i) : decodeList (wordsOf w x) = .ok i := by
  unfold wordsOf
  split
  next => exact h
  next hn =>
    rw [Bool.not_eq_true] at hn
    rw [decodeList, hn]
    exact decodeWords_of_not_needsExt h hn 0

@[simp] theorem leBytes_length (n x : Nat) : (leBytes n x).length = n := by
  induction n generalizing x with
  | zero => rfl
  | succ n ih => simp [leBytes, ih]

theorem leNat_leBytes (n x : Nat) : leNat (leBytes n x) = x % 256 ^ n := by
  induction n generalizing x with
  | zero => simp [leBytes, leNat, Nat.mod_one]
  | succ n ih => simp [leBytes, leNat, ih, Nat.pow_succ', Nat.mod_mul]

@[simp] theorem leWord_leBytes (w : Word) : leWord (leBytes 4 w.toNat) = w := by
  refine BitVec.eq_of_toNat_eq ?_
  simp only [leWord, word, leNat_leBytes, BitVec.toNat_ofNat]
  omega

theorem drop_two_words (x y : Nat) (rest : List Byte) : (leBytes 4 x ++ (leBytes 4 y ++ rest)).drop 8 = rest := by
  rw [← List.append_assoc]
  exact List.drop_left' (by rw [List.length_append, leBytes_length, leBytes_length])

/-- Bytes that begin with a base word, and with the second one where it is needed, decode to the instruction of the two words. -/
theorem decode_wordsOf {w x : Word} {i : Instr} (h : decodeWords w x = .ok i) (rest : List Byte) :
    decode ((wordsOf w x).flatMap (fun v => leBytes 4 v.toNat) ++ rest) = .ok (i, rest) := by
  unfold wordsOf
  split
  next hn =>
    have hshort : ¬ 4 + (4 + rest.length) < 4 := by omega
    have hlen : ¬ 4 + (4 + rest.length) < 8 := by omega
    simp only [decode, List.flatMap_cons, List.flatMap_nil, List.append_nil, List.append_assoc, List.length_append, leBytes_length,
      hshort, hlen, hn, h, ↓reduceIte, decide_false, Bool.and_false, Bool.false_eq_true, List.take_left', List.drop_left',
      leWord_leBytes, drop_two_words]
  next hn =>
    rw [Bool.not_eq_true] at hn
    have hshort : ¬ 4 + rest.length < 4 := by omega
    simp only [decode, List.flatMap_cons, List.flatMap_nil, List.append_nil, List.length_append, leBytes_length, hshort, hn,
      decodeWords_of_not_needsExt h hn, ↓reduceIte, Bool.false_and, Bool.false_eq_true, List.take_left', List.drop_left', leWord_leBytes]

/-- Settles O51: a word that decodes is one that some parts encode to (decodeWords_eq_ok_iff), and well-formed instructions are
those that some words decode to. -/
theorem decodeEncode : Obligations.DecodeEncode := by
  refine ⟨fun i hi => ?_, fun w x i h => wf_and_encode_of_decodeWords h⟩
  obtain ⟨w, x, h⟩ := decodeWords_of_wf hi
  rw [(wf_and_encode_of_decodeWords h).2]
  exact ⟨decodeList_wordsOf h, decode_wordsOf h⟩

end Sys2Proof
end

section
/-! PROOFS. The step of a warp's turn on the schedule (R5, R335): the step takes the turn, fetching does not see whose turn it is, and
a warp that nothing keeps from its turn issues what its fetch gives. -/

namespace Sys2Proof.Machine

/-- The state at the head of a warp's turn: the turn is off the schedule, and the warp is at the focus. -/
def State.atTurn (s : State) (rest : List Turn) (r : WarpRef) : State := { s with part := { s.part with sched := rest, focus := r } }

/-! ### A step takes the turn at the head of the schedule -/

theorem step_of_turn {s : State} {t : Turn} {rest : List Turn} (hr : s.stepReady = none) (hd : s.debugNext = none)
    (hs : s.part.sched = t :: rest) : step s = keepWays ({ s with part := { s.part with sched := rest } : State }.take t) := by
  simp [step, State.stepOn, hr, hd, hs]

/-! ### What a fetch reads -/

theorem State.homeNat_atTurn (s : State) (rest : List Turn) (r : WarpRef) (loc n : Nat) :
    (s.atTurn rest r).homeNat loc n = s.homeNat loc n := rfl

theorem State.walk_atTurn (s : State) (rest : List Turn) (r : WarpRef) (held : Nat → Option Nat) (va level : Nat)
    (ls : List (Nat × Nat)) (table : Nat) : (s.atTurn rest r).walk held va level ls table = s.walk held va level ls table := by
  induction ls generalizing level table with
  | nil => rfl
  | cons q ls ih =>
    simp only [State.walk, ih, State.homeNat_atTurn]
    rfl

theorem State.walkLeaf_atTurn (s : State) (rest : List Turn) (r : WarpRef) (job va : Nat) :
    (s.atTurn rest r).walkLeaf job va = s.walkLeaf job va := by
  simp only [State.walkLeaf, State.walk_atTurn]
  rfl

theorem State.translate_atTurn (s : State) (rest : List Turn) (r : WarpRef) (job va : Nat) (acc : Access) :
    (s.atTurn rest r).translate job va acc = s.translate job va acc := by
  simp only [State.translate, State.walkLeaf_atTurn]
  rfl

theorem State.fetchWord_atTurn (s : State) (rest : List Turn) (r : WarpRef) (job pc : Nat) :
    (s.atTurn rest r).fetchWord job pc = s.fetchWord job pc := by
  simp only [State.fetchWord, State.translate_atTurn]
  rfl

theorem State.fetch_atTurn (s : State) (rest : List Turn) (r : WarpRef) (job pc : Nat) :
    (s.atTurn rest r).fetch job pc = s.fetch job pc := by
  simp only [State.fetch, State.fetchWord_atTurn]

theorem State.fetchWord_of_translate {s : State} {job pc loc : Nat} (h : s.translate job pc .fetch = .ok loc)
    (hd : isDevice loc = true) (hp : s.part.poisoned (lineOf loc) = false) : s.fetchWord job pc = some (leWord (s.homeRead loc 4)) := by
  simp [State.fetchWord, h, hd, hp]

/-- A fetch gives the instruction that its words decode to; the second word is fetched where one is needed. -/
theorem State.fetch_of_decodeWords {s : State} {job pc : Nat} {w x : Word} {i : Instr} (hw : s.fetchWord job pc = some w)
    (hx : if needsExt w then s.fetchWord job (pc + 4) = some x else x = 0) (h : decodeWords w x = .ok i) :
    s.fetch job pc = .instr i := by
  unfold State.fetch
  rw [hw]
  dsimp only
  split at hx
  next hn =>
    rw [if_pos hn, hx]
    dsimp only
    rw [h]
  next hn =>
    subst hx
    rw [if_neg hn, h]

/-! ### A warp that nothing keeps from its turn -/

theorem Warp.timedOut_isSome (w : Warp) : w.timedOut.isSome = Rules.waitedOut w := by
  unfold Warp.timedOut Rules.waitedOut emptyLimit
  cases w.onLines with
  | none => rfl
  | some q =>
    have hlate : decide (2 ^ 20 ≤ w.emptyTimer) = !decide (w.emptyTimer < 2 ^ 20) := by
      simp only [← Nat.not_lt, decide_not]
    rw [hlate]
    generalize decide (w.emptyTimer < 2 ^ 20) = early
    cases early <;> cases w.anyHalted <;> cases w.answer <;> rfl

theorem Wg.timedOut_eq_none {g : Wg} (h : ∀ x ∈ g.warps, Rules.waitedOut x = false) : g.timedOut = none := by
  have hq : ∀ q ∈ g.warps.zipIdx, q.1.timedOut = none := fun q hq => by
    have := h q.1 (List.fst_mem_of_mem_zipIdx hq)
    rwa [← Warp.timedOut_isSome, Option.isSome_eq_false_iff, Option.isNone_iff_eq_none] at this
  unfold Wg.timedOut
  split
  next => rfl
  next => simpa [List.findSome?_eq_none_iff] using fun x n hx => hq (x, n) hx

theorem Wg.mayIssue_of_eligible {g : Wg} {w : Warp} {now : Nat} (h : w.eligible now = true) (hs : ∀ x ∈ g.warps, x.skid = none) :
    g.mayIssue w now = true := by
  have : g.skidding = false := by simpa [Wg.skidding] using hs
  simp [Wg.mayIssue, h, this]

/-- At its turn a warp that may issue issues what it fetches. -/
theorem State.turn_of_issuing {s : State} {r : WarpRef} {rest : List Turn} {g : Wg} {w : Warp} {pc : Nat}
    (h : Rules.issuing s r rest g w pc) :
    { s with part := { s.part with sched := rest } : State }.turn r = (s.atTurn rest r).issueTurn r w (s.fetch g.job pc) := by
  obtain ⟨-, -, -, hg, hw, hdead, hswap, htrap, helig, hpc, hall, hhold⟩ := h
  have hmay := Wg.mayIssue_of_eligible helig (fun x hx => (hall x hx).1)
  have hout := Wg.timedOut_eq_none (fun x hx => (hall x hx).2)
  have hskid : w.skid = none := (hall w (List.mem_of_getElem? hw)).1
  have hfetch := s.fetch_atTurn rest r g.job pc
  simp only [State.atTurn] at hfetch ⊢
  have hg' : ({ s.part with sched := rest, focus := r } : Part).wg? r.core r.slot = some g := hg
  simp [State.turn, hg', hw, hdead, hswap, htrap, hmay, hout, hhold, hpc, hskid, hfetch]

/-- A warp whose pipe is free and that does not have to give way runs what it fetched, and the warps that it goes before give way. -/
theorem State.issueTurn_of_free {s : State} {r : WarpRef} {w : Warp} {x : Fetched} (hp : s.part.pipeFree r.core x = true)
    (hy : s.yields r w x.uniform = false) :
    s.issueTurn r w x = Out.andThen (fun t => if w.sprint.isSome then t else s.gaveWay r x.uniform t) (s.runFetched x) := by
  rw [State.issueTurn, hp, hy]
  rfl

end Sys2Proof.Machine

namespace Sys2Proof

open Machine

/-- Settles O54: the step takes the turn, and nothing that Rules.issuing rules out keeps the warp from what its fetch gives. -/
theorem stepRunsDecoded : Obligations.StepRunsDecoded := by
  refine ⟨?_, fun s i rest hr hd hs => step_of_turn hr hd hs⟩
  intro s r rest g w pc loc loc2 i h hloc hdev hpoison base hext ext hdec hpipe u x hyield
  have hw := State.fetchWord_of_translate hloc hdev hpoison
  have hx : if needsExt base then s.fetchWord g.job (pc + 4) = some ext else ext = 0 := by
    by_cases hn : needsExt base
    · obtain ⟨hloc2, hdev2, hpoison2⟩ := hext hn
      simpa [hn, ext] using State.fetchWord_of_translate hloc2 hdev2 hpoison2
    · simp [hn, ext]
  have hfetch : s.fetch g.job pc = x := State.fetch_of_decodeWords hw hx hdec
  have hturn := State.turn_of_issuing h
  have hissue := State.issueTurn_of_free (s := u) (w := w) hpipe hyield
  obtain ⟨hready, hdebug, hsched, -⟩ := h
  rw [step_of_turn hready hdebug hsched, State.take, hturn, hfetch]
  exact congrArg keepWays hissue

end Sys2Proof
end
